-- ==== Sys2Proof/Word.lean ====
section
/-! DEFINITION. The word types of the ZL-9640 model: R2, R20, R38. -/

namespace Sys2Proof

/-- One byte of a memory. -/
abbrev Byte := BitVec 8
/-- A halfword, the unit of instruction fetch (R38). -/
abbrev Half := BitVec 16
/-- A 32-bit word: a lane element, an instruction word (R40, R76). -/
abbrev W32 := BitVec 32
/-- A 64-bit word: a scalar, a mask, an address (R76). -/
abbrev W64 := BitVec 64

end Sys2Proof
end

