-- ==== Sys2Proof/Config.lean ====
section
/-! DEFINITION. What the spec leaves open or an implementation fixes: free values, secrets and the outside world (DESIGN CHOICE, log 2). -/

namespace Sys2Proof.Config

/-- A fresh unconstrained number, applied to the counter that each use advances (DESIGN CHOICE, log 2). -/
opaque freeNat : Nat → Nat
/-- What a byte of a peer's memory holds when the device reads it: peer, address, counter (R268). -/
opaque peerByte : Nat → Nat → Nat → BitVec 8
/-- Whether the home device of a peer page refuses an access: peer, address, world, counter (R268). -/
opaque peerRefuses : Nat → Nat → Nat → Nat → Bool
/-- A byte of a frame's ciphertext as it leaves the chip: frame, number of the encryption, offset (R159, R270). -/
opaque cipherByte : Nat → Nat → Nat → BitVec 8
/-- A byte of boot flash (R391). -/
opaque flashByte : Nat → BitVec 8
/-- A signature of 384 bytes over a message under the vendor key holds: signature, message (R390, R391; DESIGN CHOICE, log 11). -/
opaque signedBy : List (BitVec 8) → List (BitVec 8) → Bool
/-- The SVN of a patch image whose signature holds; none where it does not (R390). -/
opaque patchSvn : List (BitVec 8) → Option Nat
/-- A SHA-384 digest of a measurement: its index and what it covers, as numbers (R392). -/
opaque digest : Nat → List Nat → Nat
/-- A coordinate of a vertex on the screen, in units of 2⁻¹⁴⁹ pixels: seed of the draw, vertex index, whether it is the row (R207; DESIGN CHOICE, log 55). -/
opaque vertexPos : Nat → Nat → Bool → Int
/-- Clipping keeps a point of a primitive: seed of the draw, primitive, column and row in eighths of a pixel (R207; DESIGN CHOICE, log 55). -/
opaque clipKeeps : Nat → Nat → Int → Int → Bool
/-- Clipping leaves nothing of a primitive: seed of the draw, primitive (R207; DESIGN CHOICE, log 55). -/
opaque clipGone : Nat → Nat → Bool
/-- A side of the bounding box of what clipping leaves of a primitive, in units of 2⁻¹⁴⁹ pixels: seed of the draw, primitive, whether it is the far side,
whether it is of rows (R207; DESIGN CHOICE, log 55). -/
opaque clipBox : Nat → Nat → Bool → Bool → Int
/-- The vertex of a primitive whose weight v1 holds (0), and v2 (1), below 3 (R207; DESIGN CHOICE, log 55). -/
opaque weightOf : Nat → Fin 3
/-- A DisplayPort link, as it has trained, carries a mode: display, pixel clock in kHz, horizontal and vertical total (R284). -/
opaque linkCarries : Nat → Nat → Nat → Nat → Bool
/-- The device's local memory in bytes: eight stacks of 24 GB, a GB being a power of 1,000 (R1, R2). -/
def localBytes : Nat := 192 * 10 ^ 9
/-- HBM stack 0 (R1, R2, R19). -/
def stack0Bytes : Nat := 24 * 10 ^ 9

end Sys2Proof.Config
end

