-- ==== Sys2Proof/Syntax.lean ====
section
/-! DEFINITION. The instruction formats (R40, R45, R48, R53, R324), the arguments of commands and events, and `Instr`. -/

namespace Sys2Proof

/-- The prefix word's fields (R48). -/
structure Prefix where
  d : Byte
  rnd : BitVec 3
  msk : BitVec 3
  zro : Bool
  sb : BitVec 2
  typ : BitVec 4
  af : Bool
  ahi : BitVec 2
  deriving DecidableEq, Repr

/-- Format V (R40). -/
structure VFmt where
  pfx : Option Prefix
  b : Byte
  a : Byte
  nw : Bool
  vd : BitVec 7
  deriving DecidableEq, Repr

/-- Format VC (R45). -/
structure VCFmt where
  pfx : Option Prefix
  b : Byte
  a : Byte
  cc : BitVec 4
  rsv : Bool
  kd : BitVec 3
  deriving DecidableEq, Repr

/-- Format U with its sub-function fixed by the constructor (R45, R56). -/
structure UFmt where
  pfx : Option Prefix
  a : Byte
  nw : Bool
  vd : BitVec 7
  deriving DecidableEq, Repr

/-- Format U whose FN field holds operands: `vcvt`, `vshf` (R56). -/
structure UNFmt where
  pfx : Option Prefix
  fn : Byte
  a : Byte
  nw : Bool
  vd : BitVec 7
  deriving DecidableEq, Repr

/-- Format S (R45). -/
structure SFmt where
  pfx : Option Prefix
  b : Byte
  a : Byte
  sd : Byte
  deriving DecidableEq, Repr

/-- Format SU (R45). -/
structure SUFmt where
  pfx : Option Prefix
  a : Byte
  sd : Byte
  deriving DecidableEq, Repr

/-- Format SI (R45): it takes no prefix (R52). -/
structure SIFmt where
  imm : Half
  sd : Byte
  deriving DecidableEq, Repr

/-- Format K (R45). -/
structure KFmt where
  pfx : Option Prefix
  s : Byte
  ka : BitVec 3
  rsv : BitVec 5
  kd : BitVec 3
  deriving DecidableEq, Repr

/-- Format M (R45, R160). -/
structure MFmt where
  pfx : Option Prefix
  b : Byte
  a : Byte
  sp : Bool
  vd : BitVec 7
  deriving DecidableEq, Repr

/-- Format J (R45): `c` is C, or WS of `call`. -/
structure JFmt where
  pfx : Option Prefix
  off : Half
  c : Byte
  deriving DecidableEq, Repr

/-- Format G with its sub-function fixed by the constructor (R45). -/
structure GFmt where
  pfx : Option Prefix
  b : Byte
  a : Byte
  deriving DecidableEq, Repr

/-- Format X (R45, R189). -/
structure XFmt where
  pfx : Option Prefix
  nf : BitVec 6
  mf : BitVec 2
  a : Byte
  fn : Byte
  deriving DecidableEq, Repr

/-- Format Y (R45). -/
structure YFmt where
  pfx : Option Prefix
  sys : BitVec 12
  fn : BitVec 4
  a : Byte
  deriving DecidableEq, Repr

/-- Format XO (R45, R328). -/
structure XOFmt where
  pfx : Option Prefix
  b : Byte
  a : Byte
  xi : BitVec 5
  rsv : BitVec 3
  deriving DecidableEq, Repr

/-- The 16-bit forms (R53). -/
structure CFmt where
  vd : BitVec 5
  b : BitVec 6
  deriving DecidableEq, Repr

/-- A micro-op word less its operation (R324); `rsvHi` is bit 39 and `rsvLo` bits 37:32. -/
structure UopFmt where
  d : BitVec 4
  a : BitVec 4
  b : BitVec 4
  c : BitVec 4
  rsvHi : Bool
  sp : Bool
  rsvLo : BitVec 6
  imm : W32
  deriving DecidableEq, Repr

/-- A write to MBCMD: the issuing function (0 the PF), the port it came through, TAG, and the SPDM session it arrived in, if any (R387, R392). -/
structure MbHdr where
  fn : Nat
  port : Nat
  tag : Half
  session : Option Nat := none
  deriving DecidableEq, Repr

/-- The target of a ladder, a save or a TLB_INV: a context, or all contexts of a VF (R237, R279). -/
inductive Target where
  | ctx (cid : Nat)
  | vf (n : Nat)
  deriving DecidableEq, Repr

/-- VF_QUOTA (R227, R237, R240, R241); times in the units of those rules. -/
structure VfQuotaArgs where
  vf : Nat
  qs : Nat
  qd : Nat
  cores : List Nat
  sliceUs : Nat
  drainUs : Nat
  coopClk : Nat
  preemptUs : Nat
  deriving DecidableEq, Repr

/-- SLOT_ASSIGN (R219). -/
structure SlotArgs where
  ctx : Nat
  slot : Nat
  rbase : W64
  log2n : Nat
  pri : Nat
  deriving DecidableEq, Repr

/-- A handler kernel named at context creation (R149). -/
structure HandlerKernel where
  entry : W64
  width : Nat
  vregs : Nat
  pool : Nat
  scratch : Nat
  shared : Nat
  tlines : Nat
  tways : Nat
  deriving DecidableEq, Repr

/-- CTX_CREATE (R17, R149, R185, R253). -/
structure CtxArgs where
  vf : Nat
  world : Nat
  oid : Nat
  u : Nat
  cores : List Nat
  handler : Option HandlerKernel
  saveArea : Nat
  frontierBytes : Nat
  deriving DecidableEq, Repr

/-- Four FP32 components (R284, R294). -/
structure Rgba where
  r : W32
  g : W32
  b : W32
  a : W32
  deriving DecidableEq, Repr

/-- The timing of a display (R284): a period in ns, or a video mode. -/
inductive DispTiming where
  | period (ns : Nat)
  | mode (pclkKhz ht vt : Nat)
  deriving DecidableEq, Repr

/-- DISP_CFG (R284). -/
structure DispArgs where
  disp : Nat
  w : Nat
  h : Nat
  bg : Rgba
  timing : DispTiming
  deriving DecidableEq, Repr

/-- One rectangle of POM_WRITE (R287). -/
structure PomCmd where
  x0 : Nat
  y0 : Nat
  x1 : Nat
  y1 : Nat
  word : Half
  deriving DecidableEq, Repr

/-- A surface registry entry (R288); `disp` is 255 for KIND 1. -/
structure SurfArgs where
  base : Nat
  pitch : Nat
  h : Nat
  w : Nat
  oy : Int
  ox : Int
  z : Nat
  disp : Nat
  fmt : Nat
  kind : Nat
  vf : Nat
  oid : Nat
  deriving DecidableEq, Repr

/-- The fields of a consent entry as CT_GRANT gives them (R292). -/
structure GrantArgs where
  last : W64
  first : W64
  y1 : Nat
  x1 : Nat
  y0 : Nat
  x0 : Nat
  sid : Nat
  gte : Nat
  gtr : Nat
  minlod : Nat
  disp : Nat
  rights : BitVec 4
  deriving DecidableEq, Repr

/-- PQ_CREATE (R300). -/
structure PqArgs where
  oid : Nat
  ctx : Nat
  disp : Nat
  ring : W64
  log2n : Nat
  cad : Nat
  phase : Nat
  maxrp : Nat
  br : Nat
  deriving DecidableEq, Repr

/-- XOP_LOAD (R336, R337): the virtual addresses and byte sizes of the sections of kinds 8 and 7. -/
structure XopLoadArgs where
  seqVa : W64
  seqBytes : Nat
  bindVa : W64
  bindBytes : Nat
  deriving DecidableEq, Repr

/-- COLL_POST (R395): `op` false a sum over `peers`, true a broadcast from the first of `peers`. -/
structure CollArgs where
  ctx : Nat
  bcast : Bool
  va : W64
  count : Nat
  peers : List Nat
  deriving DecidableEq, Repr

/-- A requester of a Kiln reservation (R353). -/
inductive KilnWho where
  | mash (core : Nat)
  | grist (core : Nat)
  | vector (core part : Nat)
  deriving DecidableEq, Repr

/-- A read or write that reaches device memory from a port or a peer (R266, R394), or a write by the host to its own memory. -/
inductive BusAccess where
  | read (addr bytes : Nat)
  | write (addr : Nat) (data : List Byte)
  | own (addr : Nat) (data : List Byte)
  deriving DecidableEq, Repr

/-- A detected array error (R383, R384); `pot` the frame whose POT entry the word holds, `gid` and `lanes` what reads it. -/
structure ErrArgs where
  array : Nat
  pot : Option Nat
  addr : W64
  syn : W32
  kind : Nat
  ctx : Option Nat
  core : Nat
  gid : Option Nat
  lanes : W64
  deriving DecidableEq, Repr

/-- The parameters of an SPDM request that the responder reads (R392): the two parameter bytes and the session. -/
structure SpdmReq where
  code : Byte
  param1 : Byte
  param2 : Byte
  session : Option Nat
  data : List Byte
  deriving DecidableEq, Repr


/-- The instructions, micro-ops, commands and events of spec/opcode_table.json, one constructor a row, in the
table's order, but that RESERVED_MAJOR and REFUSED_WORD stand after the micro-ops. -/
inductive Instr where
  /-- VADD (R97). -/
  | vadd (f : VFmt)
  /-- VSUB (R97). -/
  | vsub (f : VFmt)
  /-- VMUL (R97). -/
  | vmul (f : VFmt)
  /-- VMULH (R97). -/
  | vmulh (f : VFmt)
  /-- VMAD (R98). -/
  | vmad (f : VFmt)
  /-- VMIN (R97). -/
  | vmin (f : VFmt)
  /-- VMAX (R97). -/
  | vmax (f : VFmt)
  /-- VABSD (R97). -/
  | vabsd (f : VFmt)
  /-- VAND (R97). -/
  | vand (f : VFmt)
  /-- VOR (R97). -/
  | vor (f : VFmt)
  /-- VXOR (R97). -/
  | vxor (f : VFmt)
  /-- VANDN (R97). -/
  | vandn (f : VFmt)
  /-- VSHL (R97). -/
  | vshl (f : VFmt)
  /-- VSHR (R97). -/
  | vshr (f : VFmt)
  /-- VSRA (R97). -/
  | vsra (f : VFmt)
  /-- VROT (R97). -/
  | vrot (f : VFmt)
  /-- VADDS (R97). -/
  | vadds (f : VFmt)
  /-- VSUBS (R97). -/
  | vsubs (f : VFmt)
  /-- VCMP (R103). -/
  | vcmp (f : VCFmt)
  /-- VBFX (R99). -/
  | vbfx (f : VFmt)
  /-- VBFI (R99). -/
  | vbfi (f : VFmt)
  /-- VSEL (R100). -/
  | vsel (f : VFmt)
  /-- VRQ (R102). -/
  | vrq (f : VFmt)
  /-- VADDR (R101). -/
  | vaddr (f : VFmt)
  /-- VFADD (R105). -/
  | vfadd (f : VFmt)
  /-- VFSUB (R105). -/
  | vfsub (f : VFmt)
  /-- VFMUL (R105). -/
  | vfmul (f : VFmt)
  /-- VFMA (R106). -/
  | vfma (f : VFmt)
  /-- VFMS (R106). -/
  | vfms (f : VFmt)
  /-- VFMIN (R105). -/
  | vfmin (f : VFmt)
  /-- VFMAX (R105). -/
  | vfmax (f : VFmt)
  /-- VFDIV (R105). -/
  | vfdiv (f : VFmt)
  /-- VFCMP (R103). -/
  | vfcmp (f : VCFmt)
  /-- VFDP2 (R107). -/
  | vfdp2 (f : VFmt)
  /-- VFSGN (R105). -/
  | vfsgn (f : VFmt)
  /-- VPERM (R112). -/
  | vperm (f : VFmt)
  /-- VMOV (R108). -/
  | vmov (f : UFmt)
  /-- VNOT (R108). -/
  | vnot (f : UFmt)
  /-- VNEG (R108). -/
  | vneg (f : UFmt)
  /-- VABS (R108). -/
  | vabs (f : UFmt)
  /-- VPOPC (R108). -/
  | vpopc (f : UFmt)
  /-- VCLZ (R108). -/
  | vclz (f : UFmt)
  /-- VCTZ (R108). -/
  | vctz (f : UFmt)
  /-- VBREV (R108). -/
  | vbrev (f : UFmt)
  /-- VFNEG (R108). -/
  | vfneg (f : UFmt)
  /-- VFABS (R108). -/
  | vfabs (f : UFmt)
  /-- VFSQRT (R108). -/
  | vfsqrt (f : UFmt)
  /-- VFRND (R108). -/
  | vfrnd (f : UFmt)
  /-- VCVT (R109). -/
  | vcvt (f : UNFmt)
  /-- VSFU_SIN (R111). -/
  | vsfuSin (f : UFmt)
  /-- VSFU_COS (R111). -/
  | vsfuCos (f : UFmt)
  /-- VSFU_EXP2 (R111). -/
  | vsfuExp2 (f : UFmt)
  /-- VSFU_LOG2 (R111). -/
  | vsfuLog2 (f : UFmt)
  /-- VSFU_RCP (R111). -/
  | vsfuRcp (f : UFmt)
  /-- VSFU_RSQRT (R111). -/
  | vsfuRsqrt (f : UFmt)
  /-- VRED_SUM (R114). -/
  | vredSum (f : UFmt)
  /-- VRED_MAX (R114). -/
  | vredMax (f : UFmt)
  /-- VRED_MIN (R114). -/
  | vredMin (f : UFmt)
  /-- VSHF (R113). -/
  | vshf (f : UNFmt)
  /-- C_ADD (R54). -/
  | cAdd (f : CFmt)
  /-- C_SUB (R54). -/
  | cSub (f : CFmt)
  /-- C_MUL (R54). -/
  | cMul (f : CFmt)
  /-- C_AND (R54). -/
  | cAnd (f : CFmt)
  /-- C_OR (R54). -/
  | cOr (f : CFmt)
  /-- C_XOR (R54). -/
  | cXor (f : CFmt)
  /-- C_SHL (R54). -/
  | cShl (f : CFmt)
  /-- C_SHR (R54). -/
  | cShr (f : CFmt)
  /-- C_MOV (R54). -/
  | cMov (f : CFmt)
  /-- C_FADD (R54). -/
  | cFadd (f : CFmt)
  /-- C_FSUB (R54). -/
  | cFsub (f : CFmt)
  /-- C_FMUL (R54). -/
  | cFmul (f : CFmt)
  /-- C_FMIN (R54). -/
  | cFmin (f : CFmt)
  /-- C_FMAX (R54). -/
  | cFmax (f : CFmt)
  /-- C_MIN (R54). -/
  | cMin (f : CFmt)
  /-- C_MAX (R54). -/
  | cMax (f : CFmt)
  /-- SADD (R116). -/
  | sadd (f : SFmt)
  /-- SSUB (R116). -/
  | ssub (f : SFmt)
  /-- SMUL (R116). -/
  | smul (f : SFmt)
  /-- SMULH (R116). -/
  | smulh (f : SFmt)
  /-- SAND (R116). -/
  | sand (f : SFmt)
  /-- SOR (R116). -/
  | sor (f : SFmt)
  /-- SXOR (R116). -/
  | sxor (f : SFmt)
  /-- SSHL (R116). -/
  | sshl (f : SFmt)
  /-- SSHR (R116). -/
  | sshr (f : SFmt)
  /-- SSRA (R116). -/
  | ssra (f : SFmt)
  /-- SMIN (R116). -/
  | smin (f : SFmt)
  /-- SMAX (R116). -/
  | smax (f : SFmt)
  /-- SSEQ (R116). -/
  | sseq (f : SFmt)
  /-- SSNE (R116). -/
  | ssne (f : SFmt)
  /-- SSLT (R116). -/
  | sslt (f : SFmt)
  /-- SSLE (R116). -/
  | ssle (f : SFmt)
  /-- SRDL (R119). -/
  | srdl (f : SFmt)
  /-- SWRL (R119). -/
  | swrl (f : VFmt)
  /-- SLI (R118). -/
  | sli (f : SIFmt)
  /-- SLIH (R118). -/
  | slih (f : SIFmt)
  /-- SMOV (R117). -/
  | smov (f : SUFmt)
  /-- SNOT (R117). -/
  | snot (f : SUFmt)
  /-- SNEG (R117). -/
  | sneg (f : SUFmt)
  /-- SPOPC (R117). -/
  | spopc (f : SUFmt)
  /-- SCLZ (R117). -/
  | sclz (f : SUFmt)
  /-- SCTZ (R117). -/
  | sctz (f : SUFmt)
  /-- KAND (R104). -/
  | kand (f : KFmt)
  /-- KOR (R104). -/
  | kor (f : KFmt)
  /-- KXOR (R104). -/
  | kxor (f : KFmt)
  /-- KANDN (R104). -/
  | kandn (f : KFmt)
  /-- KNOT (R104). -/
  | knot (f : KFmt)
  /-- KFROMV (R104). -/
  | kfromv (f : KFmt)
  /-- KFROMS (R104). -/
  | kfroms (f : KFmt)
  /-- KTOS (R104). -/
  | ktos (f : KFmt)
  /-- LD (R166). -/
  | ld (f : MFmt)
  /-- ST (R167). -/
  | st (f : MFmt)
  /-- SLD (R169). -/
  | sld (f : SFmt)
  /-- SST (R169). -/
  | sst (f : SFmt)
  /-- PF (R168). -/
  | pf (f : MFmt)
  /-- ST_MC (R175). -/
  | stMc (f : MFmt)
  /-- ST_RED (R176). -/
  | stRed (f : MFmt)
  /-- SP_LOOK (R179). -/
  | spLook (f : SFmt)
  /-- ATM_ADD (R170). -/
  | atmAdd (f : MFmt)
  /-- ATM_MIN (R170). -/
  | atmMin (f : MFmt)
  /-- ATM_MAX (R170). -/
  | atmMax (f : MFmt)
  /-- ATM_AND (R170). -/
  | atmAnd (f : MFmt)
  /-- ATM_OR (R170). -/
  | atmOr (f : MFmt)
  /-- ATM_XOR (R170). -/
  | atmXor (f : MFmt)
  /-- ATM_XCHG (R170). -/
  | atmXchg (f : MFmt)
  /-- ATM_CAS (R170). -/
  | atmCas (f : MFmt)
  /-- ATM_FADD (R170). -/
  | atmFadd (f : MFmt)
  /-- ATM_FADD_DET (R171). -/
  | atmFaddDet (f : MFmt)
  /-- FENCE (R182). -/
  | fence (f : YFmt)
  /-- FIB_FORK (R126). -/
  | fibFork (f : JFmt)
  /-- BR (R125). -/
  | br (f : JFmt)
  /-- BRN (R125). -/
  | brn (f : JFmt)
  /-- CALL (R127). -/
  | call (f : JFmt)
  /-- FIB_JOIN (R129). -/
  | fibJoin (f : GFmt)
  /-- FIB_EXIT (R130). -/
  | fibExit (f : GFmt)
  /-- FIB_YIELD (R131). -/
  | fibYield (f : GFmt)
  /-- RET (R128). -/
  | ret (f : GFmt)
  /-- BR_IND (R128). -/
  | brInd (f : GFmt)
  /-- CALL_IND (R128). -/
  | callInd (f : GFmt)
  /-- NOP (R57). -/
  | nop (f : GFmt)
  /-- SYS_RD (R143). -/
  | sysRd (f : YFmt)
  /-- SYS_WR (R143). -/
  | sysWr (f : YFmt)
  /-- TRAP (R151). -/
  | trap (f : YFmt)
  /-- SIG (R152). -/
  | sig (f : YFmt)
  /-- Q_TAIL (R229). -/
  | qTail (f : GFmt)
  /-- Q_CANCEL (R231). -/
  | qCancel (f : GFmt)
  /-- Q_EVT (R232). -/
  | qEvt (f : GFmt)
  /-- PK_RD (R135). -/
  | pkRd (f : GFmt)
  /-- PK_MASK (R136). -/
  | pkMask (f : GFmt)
  /-- PK_PC (R136). -/
  | pkPc (f : GFmt)
  /-- PK_RESUME (R136). -/
  | pkResume (f : GFmt)
  /-- PK_KILL (R136). -/
  | pkKill (f : GFmt)
  /-- HDL_RET (R137). -/
  | hdlRet (f : GFmt)
  /-- SP_SET (R180). -/
  | spSet (f : GFmt)
  /-- SP_INV (R180). -/
  | spInv (f : GFmt)
  /-- MM (R195). -/
  | mm (f : XFmt)
  /-- ACC_CLR (R197). -/
  | accClr (f : GFmt)
  /-- ACC_MOV (R197). -/
  | accMov (f : GFmt)
  /-- ACC_LD (R197). -/
  | accLd (f : GFmt)
  /-- ACC_ST (R197). -/
  | accSt (f : GFmt)
  /-- ACC_PUT (R197). -/
  | accPut (f : GFmt)
  /-- OS_CLAIM (R187). -/
  | osClaim (f : GFmt)
  /-- OS_REL (R188). -/
  | osRel (f : GFmt)
  /-- MM_WAIT (R198). -/
  | mmWait (f : GFmt)
  /-- TEX (R212). -/
  | tex (f : VFmt)
  /-- TEX_FETCH (R212). -/
  | texFetch (f : VFmt)
  /-- TB_LD (R213). -/
  | tbLd (f : UFmt)
  /-- TB_ST (R213). -/
  | tbSt (f : UFmt)
  /-- TB_FENCE (R216). -/
  | tbFence (f : UFmt)
  /-- PIX_OWN (R297). -/
  | pixOwn (f : UFmt)
  /-- PIX_EXP (R299). -/
  | pixExp (f : UFmt)
  /-- CT_LOOK (R298). -/
  | ctLook (f : UFmt)
  /-- FRT_RETIRE (R259). -/
  | frtRetire (f : GFmt)
  /-- FRT_YIELD (R260). -/
  | frtYield (f : GFmt)
  /-- FRT_QUERY (R261). -/
  | frtQuery (f : GFmt)
  /-- FRT_CANCEL (R262). -/
  | frtCancel (f : GFmt)
  /-- TD_SET (R310). -/
  | tdSet (f : GFmt)
  /-- TD_GET (R311). -/
  | tdGet (f : GFmt)
  /-- TD_INV (R311). -/
  | tdInv (f : GFmt)
  /-- CP_KICK (R314). -/
  | cpKick (f : GFmt)
  /-- CP_GATHER (R315). -/
  | cpGather (f : GFmt)
  /-- BAR_SYNC (R341). -/
  | barSync (f : GFmt)
  /-- BAR_TEAM (R341). -/
  | barTeam (f : GFmt)
  /-- BAR_ARRIVE (R345). -/
  | barArrive (f : GFmt)
  /-- BAR_POST (R345). -/
  | barPost (f : GFmt)
  /-- BAR_WAIT (R345). -/
  | barWait (f : GFmt)
  /-- TL_WAIT (R347). -/
  | tlWait (f : GFmt)
  /-- TL_RD (R347). -/
  | tlRd (f : GFmt)
  /-- CNT_RD (R350). -/
  | cntRd (f : GFmt)
  /-- V_CLAIM (R84). -/
  | vClaim (f : GFmt)
  /-- V_REL (R86). -/
  | vRel (f : GFmt)
  /-- WIN_SET (R87). -/
  | winSet (f : GFmt)
  /-- WIN_ADD (R87). -/
  | winAdd (f : GFmt)
  /-- WCS_LD (R333). -/
  | wcsLd (f : GFmt)
  /-- WCS_BIND (R334). -/
  | wcsBind (f : GFmt)
  /-- WCS_UNBIND (R335). -/
  | wcsUnbind (f : GFmt)
  /-- WCS_INV (R335). -/
  | wcsInv (f : GFmt)
  /-- XOP (R329). -/
  | xop (f : XOFmt)
  /-- UADD (R325). -/
  | uadd (f : UopFmt)
  /-- USUB (R325). -/
  | usub (f : UopFmt)
  /-- UMUL (R325). -/
  | umul (f : UopFmt)
  /-- UMAD (R325). -/
  | umad (f : UopFmt)
  /-- UAND (R325). -/
  | uand (f : UopFmt)
  /-- UOR (R325). -/
  | uor (f : UopFmt)
  /-- UXOR (R325). -/
  | uxor (f : UopFmt)
  /-- UANDN (R325). -/
  | uandn (f : UopFmt)
  /-- USHL (R325). -/
  | ushl (f : UopFmt)
  /-- USHR (R325). -/
  | ushr (f : UopFmt)
  /-- USRA (R325). -/
  | usra (f : UopFmt)
  /-- UMIN (R325). -/
  | umin (f : UopFmt)
  /-- UMAX (R325). -/
  | umax (f : UopFmt)
  /-- UMINN (R325). -/
  | uminn (f : UopFmt)
  /-- UMAXN (R325). -/
  | umaxn (f : UopFmt)
  /-- USEQ (R325). -/
  | useq (f : UopFmt)
  /-- USNE (R325). -/
  | usne (f : UopFmt)
  /-- USLT (R325). -/
  | uslt (f : UopFmt)
  /-- USLE (R325). -/
  | usle (f : UopFmt)
  /-- USLTN (R325). -/
  | usltn (f : UopFmt)
  /-- USEL (R325). -/
  | usel (f : UopFmt)
  /-- UBFX (R325). -/
  | ubfx (f : UopFmt)
  /-- UZX32 (R325). -/
  | uzx32 (f : UopFmt)
  /-- USX32 (R325). -/
  | usx32 (f : UopFmt)
  /-- UFADD (R325). -/
  | ufadd (f : UopFmt)
  /-- UFSUB (R325). -/
  | ufsub (f : UopFmt)
  /-- UFMUL (R325). -/
  | ufmul (f : UopFmt)
  /-- UFFMA (R325). -/
  | uffma (f : UopFmt)
  /-- UFMIN (R325). -/
  | ufmin (f : UopFmt)
  /-- UFMAX (R325). -/
  | ufmax (f : UopFmt)
  /-- UFCVTI (R325). -/
  | ufcvti (f : UopFmt)
  /-- UICVTF (R325). -/
  | uicvtf (f : UopFmt)
  /-- UMOV (R325). -/
  | umov (f : UopFmt)
  /-- UPICK (R325). -/
  | upick (f : UopFmt)
  /-- ULD32 (R327). -/
  | uld32 (f : UopFmt)
  /-- ULD64 (R327). -/
  | uld64 (f : UopFmt)
  /-- UST32 (R327). -/
  | ust32 (f : UopFmt)
  /-- UST64 (R327). -/
  | ust64 (f : UopFmt)
  /-- UJMP (R325). -/
  | ujmp (f : UopFmt)
  /-- UBNZ (R325). -/
  | ubnz (f : UopFmt)
  /-- UBZ (R325). -/
  | ubz (f : UopFmt)
  /-- UEND (R325). -/
  | uend (f : UopFmt)
  /-- UOUT (R329). -/
  | uout (f : UopFmt)
  /-- RESERVED_MAJOR (R55). -/
  | reservedMajor (sub len msk : Nat)
  /-- REFUSED_WORD (R331). -/
  | refusedWord (w : W64)
  /-- STATUS (R388). -/
  | status (h : MbHdr)
  /-- VF_ENABLE (R388). -/
  | vfEnable (h : MbHdr) (n : Nat)
  /-- VF_QUOTA (R227). -/
  | vfQuota (h : MbHdr) (q : VfQuotaArgs)
  /-- SLOT_ASSIGN (R227). -/
  | slotAssign (h : MbHdr) (q : SlotArgs)
  /-- SLOT_RESTART (R226). -/
  | slotRestart (h : MbHdr) (slot : Nat)
  /-- SLOT_FREE (R219). -/
  | slotFree (h : MbHdr) (slot : Nat)
  /-- DEPC_ASSIGN (R227). -/
  | depcAssign (h : MbHdr) (ctr vf : Nat)
  /-- DEPC_RESET (R220). -/
  | depcReset (h : MbHdr) (ctr : Nat)
  /-- CTX_CREATE (R17). -/
  | ctxCreate (h : MbHdr) (q : CtxArgs)
  /-- CTX_DESTROY (R388). -/
  | ctxDestroy (h : MbHdr) (ctx : Nat)
  /-- CTX_SWITCH (R242). -/
  | ctxSwitch (h : MbHdr) (ctx phase : Nat)
  /-- CTX_STAT (R291). -/
  | ctxStat (h : MbHdr) (ctx : Nat)
  /-- CTX_ROOT (R279). -/
  | ctxRoot (h : MbHdr) (ctx : Nat) (tbase : W64)
  /-- CTX_RESUME (R393). -/
  | ctxResume (h : MbHdr) (ctx : Nat)
  /-- PREEMPT (R237). -/
  | preempt (h : MbHdr) (tgt : Target)
  /-- EVQ_READ (R232). -/
  | evqRead (h : MbHdr) (ctx : Nat)
  /-- TLB_INV (R280). -/
  | tlbInv (h : MbHdr) (tgt : Target) (lo hi : Nat)
  /-- FRM_ALLOT (R279). -/
  | frmAllot (h : MbHdr) (vf vpa size world : Nat)
  /-- FRM_FREE (R281). -/
  | frmFree (h : MbHdr) (vf vpa size : Nat)
  /-- FRM_QUOTA (R275). -/
  | frmQuota (h : MbHdr) (vf gf bf backBase backSize : Nat)
  /-- POT_SET (R281). -/
  | potSet (h : MbHdr) (pa size vf world state : Nat)
  /-- DIRTY_BASE (R279). -/
  | dirtyBase (h : MbHdr) (vf a b : Nat) (en : Bool)
  /-- DIRTY_SWAP (R278). -/
  | dirtySwap (h : MbHdr) (vf : Nat)
  /-- DISP_CFG (R284). -/
  | dispCfg (h : MbHdr) (q : DispArgs)
  /-- POM_WRITE (R287). -/
  | pomWrite (h : MbHdr) (q : PomCmd) (disp : Nat)
  /-- SURF_REG (R288). -/
  | surfReg (h : MbHdr) (q : SurfArgs)
  /-- SURF_FREE (R304). -/
  | surfFree (h : MbHdr) (sid : Nat)
  /-- RVAL_SET (R294). -/
  | rvalSet (h : MbHdr) (oid : Nat) (v : Rgba)
  /-- CT_GRANT (R295). -/
  | ctGrant (h : MbHdr) (q : GrantArgs)
  /-- CT_WITHDRAW (R295). -/
  | ctWithdraw (h : MbHdr) (idx : Nat)
  /-- PQ_CREATE (R300). -/
  | pqCreate (h : MbHdr) (q : PqArgs)
  /-- PQ_FREE (R304). -/
  | pqFree (h : MbHdr) (pq : Nat)
  /-- WCS_ASSIGN (R322). -/
  | wcsAssign (h : MbHdr) (vf : Nat) (set rel : Half)
  /-- XOP_LOAD (R336). -/
  | xopLoad (h : MbHdr) (ctx : Nat) (q : XopLoadArgs)
  /-- XOP_QUERY (R336). -/
  | xopQuery (h : MbHdr) (ctx : Nat)
  /-- MASH_RESET (R203). -/
  | mashReset (h : MbHdr) (core : Nat)
  /-- CLK_SET (R358). -/
  | clkSet (h : MbHdr) (cluster mhz : Nat)
  /-- LDO_SET (R358). -/
  | ldoSet (h : MbHdr) (cluster mv : Nat)
  /-- KILN_SET (R358). -/
  | kilnSet (h : MbHdr) (cluster cap : Nat) (ramp : List (Nat × Nat))
  /-- THERM_QUERY (R358). -/
  | thermQuery (h : MbHdr) (cluster : Nat)
  /-- PWR_STAT (R358). -/
  | pwrStat (h : MbHdr) (cluster : Nat)
  /-- ERR_LOG (R384). -/
  | errLog (h : MbHdr) (array index : Nat)
  /-- ERR_INJECT (R385). -/
  | errInject (h : MbHdr) (array : Nat) (word : BitVec 128)
  /-- WORLD_NEW (R392). -/
  | worldNew (h : MbHdr)
  /-- SEAL_KEY (R392). -/
  | sealKey (h : MbHdr) (world key : Nat) (k : BitVec 512)
  /-- WORLD_UNSEAL (R392). -/
  | worldUnseal (h : MbHdr) (world : Nat) (token : BitVec 128)
  /-- WORLD_FREE (R388). -/
  | worldFree (h : MbHdr) (world : Nat)
  /-- PATCH_STAGE (R390). -/
  | patchStage (h : MbHdr) (addr size : Nat)
  /-- PATCH_ACTIVATE (R390). -/
  | patchActivate (h : MbHdr)
  /-- FAB_MAP (R394). -/
  | fabMap (h : MbHdr) (link peer : Nat)
  /-- COLL_POST (R395). -/
  | collPost (h : MbHdr) (q : CollArgs)
  /-- MIG_OUT (R396). -/
  | migOut (h : MbHdr) (vf peer : Nat)
  /-- MIG_IN (R396). -/
  | migIn (h : MbHdr) (ticket : BitVec 128)
  /-- MIG_STAT (R396). -/
  | migStat (h : MbHdr) (vf : Nat)
  /-- UNKNOWN_COMMAND (R388). -/
  | unknownCommand (h : MbHdr) (code : Byte)
  /-- MBSEM_READ (R387). -/
  | mbsemRead (fn port : Nat)
  /-- MBSEM_REL (R387). -/
  | mbsemRel (fn port : Nat)
  /-- MBSTAT_VIOL_CLEAR (R387). -/
  | mbstatViolClear (fn : Nat)
  /-- REGISTER_WRITE (R387). -/
  | registerWrite (fn port off : Nat) (v : W64)
  /-- GET_VERSION (R392). -/
  | getVersion (fn : Nat) (req : SpdmReq)
  /-- GET_CAPABILITIES (R392). -/
  | getCapabilities (fn : Nat) (req : SpdmReq)
  /-- NEGOTIATE_ALGORITHMS (R392). -/
  | negotiateAlgorithms (fn : Nat) (req : SpdmReq)
  /-- GET_DIGESTS (R392). -/
  | getDigests (fn : Nat) (req : SpdmReq)
  /-- GET_CERTIFICATE (R392). -/
  | getCertificate (fn : Nat) (req : SpdmReq)
  /-- CHALLENGE (R392). -/
  | challenge (fn : Nat) (req : SpdmReq)
  /-- GET_MEASUREMENTS (R392). -/
  | getMeasurements (fn : Nat) (req : SpdmReq)
  /-- KEY_EXCHANGE (R392). -/
  | keyExchange (fn : Nat) (req : SpdmReq)
  /-- FINISH (R392). -/
  | finish (fn : Nat) (req : SpdmReq)
  /-- HEARTBEAT (R392). -/
  | heartbeat (fn : Nat) (req : SpdmReq)
  /-- KEY_UPDATE (R392). -/
  | keyUpdate (fn : Nat) (req : SpdmReq)
  /-- END_SESSION (R392). -/
  | endSession (fn : Nat) (req : SpdmReq)
  /-- UNSUPPORTED_REQUEST (R392). -/
  | unsupportedRequest (fn : Nat) (req : SpdmReq)
  /-- QUEUE_DOORBELL (R219). -/
  | queueDoorbell (slot tail : Nat)
  /-- RECORD_TAKE (R226). -/
  | recordTake (slot : Nat)
  /-- RECORD_BEGIN (R220). -/
  | recordBegin (slot : Nat)
  /-- POINT_FIRE (R233). -/
  | pointFire (cluster : Nat)
  /-- BLOCK_RESTORE_PLACE (R238). -/
  | blockRestorePlace (bsn : Nat)
  /-- ACTIVE_SLOT_ENTRY (R235). -/
  | activeSlotEntry (gid : Nat)
  /-- CLAIM_DEADLOCK (R89). -/
  | claimDeadlock (bsn : Nat)
  /-- POINT_RETIRE (R249). -/
  | pointRetire (bsn : Nat)
  /-- DET_COMMIT (R173). -/
  | detCommit (launch : Nat)
  /-- LAUNCH_RETIRE (R11). -/
  | launchRetire (launch : Nat)
  /-- HANDLER_ENTRY (R149). -/
  | handlerEntry (ctx : Nat)
  /-- SIGNAL_DELIVERY (R153). -/
  | signalDelivery (k : Nat)
  /-- MGMT_DOORBELL_READ (R152). -/
  | mgmtDoorbellRead (ctx : Nat)
  /-- EVENT_RECORD_WRITE (R232). -/
  | eventRecordWrite (k : Nat)
  /-- MEMORY_ACCESS_PERFORM (R163). -/
  | memoryAccessPerform (k : Nat)
  /-- LOAD_DATA_RETURN (R166). -/
  | loadDataReturn (gid : Nat)
  /-- PAGE_OUT (R276). -/
  | pageOut (vf : Nat)
  /-- PAGE_IN (R276). -/
  | pageIn (vf frame : Nat)
  /-- ACCUMULATOR_OWNERSHIP_TRAP (R201). -/
  | accumulatorOwnershipTrap (core ctx : Nat)
  /-- MASH_OP_START (R195). -/
  | mashOpStart (core : Nat)
  /-- MASH_OP_COMPLETE (R195). -/
  | mashOpComplete (core : Nat)
  /-- ACC_OP_EXECUTE (R197). -/
  | accOpExecute (core : Nat)
  /-- MASH_TIMEOUT_RESET (R203). -/
  | mashTimeoutReset (core : Nat)
  /-- COPY_BYTE_ARRIVAL (R318). -/
  | copyByteArrival (core k n : Nat)
  /-- KILN_STEP (R355). -/
  | kilnStep (cluster : Nat)
  /-- KILN_REQUEST (R353). -/
  | kilnRequest (cluster : Nat) (who : KilnWho)
  /-- VECTOR_BURST_END (R353). -/
  | vectorBurstEnd (core part : Nat)
  /-- THERMAL_SAMPLE (R360). -/
  | thermalSample (cluster quarterDeg : Nat)
  /-- DROOP_ALARM (R360). -/
  | droopAlarm (cluster : Nat)
  /-- DENY_END (R360). -/
  | denyEnd (cluster : Nat)
  /-- HOT_SPOT_MIGRATION (R362). -/
  | hotSpotMigration (cluster : Nat)
  /-- RETENTION_ENTRY (R363). -/
  | retentionEntry (cluster : Nat)
  /-- RETENTION_EXIT (R364). -/
  | retentionExit (cluster : Nat)
  /-- SLICE_EXPIRY (R240). -/
  | sliceExpiry (vf : Nat)
  /-- DRAIN_EXPIRY (R237). -/
  | drainExpiry (tgt : Target)
  /-- COOP_BUDGET_EXPIRY (R237). -/
  | coopBudgetExpiry (tgt : Target)
  /-- PREEMPT_T_EXPIRY (R241). -/
  | preemptTExpiry (slot : Nat)
  /-- FORCED_SAVE (R238). -/
  | forcedSave (tgt : Target)
  /-- DISPLAY_BOUNDARY (R284). -/
  | displayBoundary (disp : Nat)
  /-- PRESENT_DOORBELL (R300). -/
  | presentDoorbell (pq tail : Nat)
  /-- PASS_ITEM_TAKE (R224). -/
  | passItemTake (pass : Nat)
  /-- TILE_RASTER (R207). -/
  | tileRaster (pass tile : Nat)
  /-- BIN_OVERFLOW_SPILL (R207). -/
  | binOverflowSpill (pass : Nat)
  /-- SAMPLE_COMMIT (R208). -/
  | sampleCommit (pass k : Nat)
  /-- TILE_STORE (R291). -/
  | tileStore (pass tile : Nat)
  /-- DEVICE_RESET (R19). -/
  | deviceReset
  /-- CONFIG_RECORD_VERIFY (R391). -/
  | configRecordVerify
  /-- LINK_DOWN (R393). -/
  | linkDown (port : Nat)
  /-- HOT_RESET (R393). -/
  | hotReset (port : Nat)
  /-- HOST_ACCESS (R266). -/
  | hostAccess (q : BusAccess)
  /-- FABRIC_WRITE_ACK (R351). -/
  | fabricWriteAck (k : Nat)
  /-- FABRIC_READ_RESPONSE (R394). -/
  | fabricReadResponse (k : Nat) (v : W64)
  /-- PEER_REQUEST (R394). -/
  | peerRequest (peer world : Nat) (q : BusAccess)
  /-- FABRIC_TIMEOUT (R394). -/
  | fabricTimeout (k : Nat)
  /-- COLL_RETIRE (R395). -/
  | collRetire (k : Nat)
  /-- MIG_COMPLETION (R396). -/
  | migCompletion (vf : Nat) (ok : Bool)
  /-- SOFT_ERROR_DETECT (R383). -/
  | softErrorDetect (q : ErrArgs)
  /-- LINK_UP (R393). -/
  | linkUp (port : Nat)
  deriving DecidableEq, Repr

end Sys2Proof
end

