-- ==== Sys2Proof/Machine/Fields.lean ====
section
/-! DEFINITION. Element types (R20, R49), operand selectors (R41), and the static causes of illegal-instruction (R40 to R58). -/

namespace Sys2Proof.Machine

/-- The types that TYP names (R49). -/
inductive Ty where
  | i8 | i16 | i32 | i64 | n8 | n16 | n32 | n64 | f16 | bf16 | f32 | f64 | q
  deriving DecidableEq, Repr

/-- The type of a type code (R49); codes 0, 14 and 15 name none. -/
def Ty.ofCode (c : Nat) : Option Ty :=
  match c with
  | 1 => some .i8 | 2 => some .i16 | 3 => some .i32 | 4 => some .i64
  | 5 => some .n8 | 6 => some .n16 | 7 => some .n32 | 8 => some .n64
  | 9 => some .f16 | 10 => some .bf16 | 11 => some .f32 | 12 => some .f64 | 13 => some .q
  | _ => none

/-- Bits of one element (R20, R21); a `.q` container counts 8 (R26). -/
def Ty.width (t : Ty) : Nat :=
  match t with
  | .i8 | .n8 | .q => 8
  | .i16 | .n16 | .f16 | .bf16 => 16
  | .i32 | .n32 | .f32 => 32
  | .i64 | .n64 | .f64 => 64

/-- Bytes of one element. -/
def Ty.bytes (t : Ty) : Nat := t.width / 8

/-- A 64-bit type, held in a register pair. -/
def Ty.wide (t : Ty) : Bool := t.width == 64

/-- The `.i` types. -/
def Ty.signed (t : Ty) : Bool :=
  match t with
  | .i8 | .i16 | .i32 | .i64 => true
  | _ => false

/-- The eight integer types. -/
def Ty.isInt (t : Ty) : Bool :=
  match t with
  | .i8 | .i16 | .i32 | .i64 | .n8 | .n16 | .n32 | .n64 => true
  | _ => false

/-- The four IEEE types. -/
def Ty.isFp (t : Ty) : Bool :=
  match t with
  | .f16 | .bf16 | .f32 | .f64 => true
  | _ => false

/-- The eight integer types. -/
def intTys : List Ty := [.i8, .i16, .i32, .i64, .n8, .n16, .n32, .n64]
/-- The four IEEE types. -/
def fpTys : List Ty := [.f16, .bf16, .f32, .f64]
/-- Integer types of 32 and 64 bits. -/
def wordTys : List Ty := [.i32, .n32, .i64, .n64]
/-- Types of 32 and 64 bits (R112). -/
def permTys : List Ty := [.i32, .n32, .f32, .i64, .n64, .f64]

/-! Operand selector codes (R41). -/

/-- v0 to v127. -/
def isVec (c : Byte) : Bool := c.toNat < 0x80
/-- L0 to L3. -/
def isLatch (c : Byte) : Bool := 0x80 ≤ c.toNat && c.toNat < 0x84
/-- The lane index. -/
def isIdx (c : Byte) : Bool := c.toNat == 0x84
/-- The constant zero. -/
def isZero (c : Byte) : Bool := c.toNat == 0x85
/-- The constant all-ones. -/
def isOnes (c : Byte) : Bool := c.toNat == 0x86
/-- The lane count. -/
def isCount (c : Byte) : Bool := c.toNat == 0x87
/-- An immediate between two values. -/
def isImm (lo hi : Int) (c : Byte) : Bool :=
  0x88 ≤ c.toNat && c.toNat < 0xC0 && lo ≤ (c.toNat : Int) - 0x90 && (c.toNat : Int) - 0x90 ≤ hi
/-- A scalar. -/
def isScalar (c : Byte) : Bool := 0xC0 ≤ c.toNat
/-- The codes of A and B of S and SU, and A of Y (R42). -/
def isUni (c : Byte) : Bool := isZero c || isOnes c || isCount c || isImm (-8) 47 c || isScalar c
/-- An odd vector register. -/
def isOddVec (c : Byte) : Bool := isVec c && c.toNat % 2 == 1

/-- The number of the scalar a code names under SB (R41, R50). -/
def scalarNo (p : Option Prefix) (c : Byte) : Nat :=
  c.toNat - 0xC0 + 64 * (match p with | some q => q.sb.toNat | none => 0)

/-- One cause: its subcode when the condition holds. -/
def cause (b : Bool) (sub : Nat) : List Nat := if b then [sub] else []

/-- The smallest subcode (R58). -/
def minCause (l : List Nat) : Option Nat :=
  match l with
  | [] => none
  | x :: r => some (match minCause r with | some y => min x y | none => x)

/-- The type that TYP selects (R49); none where the code names no type. -/
def effTy (dflt : Ty) (p : Option Prefix) : Option Ty :=
  match p with
  | none => some dflt
  | some q => if q.typ = 0 then some dflt else Ty.ofCode q.typ.toNat

/-- The type, or the default where TYP is refused (the instruction then raises illegal-instruction). -/
def tyOf (dflt : Ty) (p : Option Prefix) : Ty := (effTy dflt p).getD dflt

/-- Causes of SB and of ZRO without a mask, whatever the format accepts (R50). -/
def pfxBase (p : Option Prefix) : List Nat :=
  match p with
  | none => []
  | some q => cause (q.sb == 3) 5 ++ cause (q.zro && q.msk == 0) 5

/-- A format whose columns of R50 accept SB only: K, J, G, X, Y. -/
def pfxSbOnly (p : Option Prefix) : List Nat :=
  match p with
  | none => []
  | some q => pfxBase p ++ cause (!isZero q.d || q.rnd != 0 || q.msk != 0 || q.zro || q.typ != 0 || q.af || q.ahi != 0) 5

/-- What a lane form (V, VC, U) accepts. -/
structure LaneSpec where
  dflt : Ty
  types : List Ty
  /-- a V+ major (R44) -/
  third : Bool := false
  /-- the types at which a rounding override is accepted (R33) -/
  rnd : Ty → Bool := fun _ => false
  /-- `.zro` is accepted -/
  zro : Bool := true
  /-- the majors 0x00 to 0x28, which enter the latch ring (R43) -/
  ring : Bool := true
  /-- A may be an accumulator fragment where the type is `.f32` (R51) -/
  frag : Bool := ring

/-- Prefix causes of a lane form (R49 to R51); `tyOk` says whether TYP is permitted and `isF32` whether the type is `.f32`. -/
def pfxLane (s : LaneSpec) (p : Option Prefix) (a : Byte) (tyOk isF32 rndOk : Bool) : List Nat :=
  match p with
  | none => []
  | some q =>
    pfxBase p ++ cause (!tyOk) 4
      ++ cause (q.zro && !s.zro) 5
      ++ cause (q.af && (!isZero a || !isF32 || !s.frag)) 5
      ++ cause (!q.af && q.ahi != 0) 3
      ++ cause (!q.af && !s.third && !isZero q.d) 3
      ++ cause (q.rnd != 0 && (5 ≤ q.rnd.toNat || !rndOk)) 9

/-- A third source is read from vd: no prefix, or a prefix whose D is an accumulator reference (R44, R51). -/
def thirdFromVd (s : LaneSpec) (p : Option Prefix) : Bool :=
  s.third && (match p with | none => true | some q => q.af)

/-- A third source is read from D (R44). -/
def thirdFromD (s : LaneSpec) (p : Option Prefix) : Bool :=
  s.third && (match p with | none => false | some q => !q.af)

/-- AF = 1. -/
def readsFragment (p : Option Prefix) : Bool :=
  match p with | none => false | some q => q.af

/-- Causes of NW and vd (R43, R94). -/
def destCauses (s : LaneSpec) (p : Option Prefix) (nw : Bool) (vd : BitVec 7) (wide : Bool) : List Nat :=
  cause (nw && !s.ring) 4
    ++ cause (nw && s.ring && !thirdFromVd s p && vd != 0) 4
    ++ cause (wide && vd.toNat % 2 == 1) 4

/-- TYP is permitted (R49). -/
def tyOk (s : LaneSpec) (p : Option Prefix) : Bool :=
  match effTy s.dflt p with
  | none => false
  | some t => s.types.contains t

/-- Format V. -/
def vCauses (s : LaneSpec) (f : VFmt) : List Nat :=
  let t := tyOf s.dflt f.pfx
  pfxLane s f.pfx f.a (tyOk s f.pfx) (t == .f32) (s.rnd t)
    ++ destCauses s f.pfx f.nw f.vd t.wide
    ++ cause (t.wide && (isOddVec f.a || isOddVec f.b
        || (thirdFromD s f.pfx && (match f.pfx with | some q => isOddVec q.d | none => false)))) 4
    ++ cause (readsFragment f.pfx && isLatch f.b) 4

/-- Format VC (R45, R103). -/
def vcCauses (s : LaneSpec) (ccMax : Nat) (f : VCFmt) : List Nat :=
  let t := tyOf s.dflt f.pfx
  pfxLane s f.pfx f.a (tyOk s f.pfx) (t == .f32) (s.rnd t)
    ++ cause f.rsv 3 ++ cause (f.kd == 0) 4 ++ cause (ccMax < f.cc.toNat) 4
    ++ cause (t.wide && (isOddVec f.a || isOddVec f.b)) 4
    ++ cause (readsFragment f.pfx && isLatch f.b) 4

/-- Format U. -/
def uCauses (s : LaneSpec) (f : UFmt) : List Nat :=
  let t := tyOf s.dflt f.pfx
  pfxLane s f.pfx f.a (tyOk s f.pfx) (t == .f32) (s.rnd t)
    ++ destCauses s f.pfx f.nw f.vd t.wide
    ++ cause (t.wide && isOddVec f.a) 4

/-- The specification shared by `vcvt` and other lane forms with no default type: TYP other than 0 is refused (R56). -/
def noTySpec : LaneSpec := { dflt := .n32, types := [.n32] }

/-- The rounding overrides of `vcvt` (R33, R109). -/
def cvtRnd (src dst : Ty) : Bool :=
  if src == .q || dst == .q then false
  else if src.isInt && dst.isInt then false
  else if src.isFp && (dst == .i8 || dst == .n8) then false
  else true

/-- `vcvt` (R56, R109): its type is that of its source (R51; DEDUCED, log 38). -/
def cvtCauses (f : UNFmt) : List Nat :=
  let sc := f.fn.toNat / 16
  let dc := f.fn.toNat % 16
  let typ0 := match f.pfx with | some q => q.typ == 0 | none => true
  let rest :=
    match Ty.ofCode sc, Ty.ofCode dc with
    | some s, some d =>
      cause (s == d) 4
        ++ cause ((s == .q && d != .f32) || (d == .q && s != .f32)) 4
        ++ cause (s.wide && isOddVec f.a) 4
        ++ cause (d.wide && f.vd.toNat % 2 == 1) 4
        ++ cause (s == .q && (isIdx f.a || isCount f.a || isImm (-8) 47 f.a)) 4
    | _, _ => [4]
  let rnd := match Ty.ofCode sc, Ty.ofCode dc with | some s, some d => cvtRnd s d | _, _ => false
  pfxLane noTySpec f.pfx f.a typ0 (Ty.ofCode sc == some .f32) rnd ++ destCauses noTySpec f.pfx f.nw f.vd false ++ rest

/-- `vshf` (R56, R113): the types of R112. -/
def shfSpec : LaneSpec := { dflt := .n32, types := permTys }

/-- `vshf`: bits 5:3 of FN are 0 and k is 1 to 6 (R56). -/
def shfCauses (f : UNFmt) : List Nat :=
  let t := tyOf .n32 f.pfx
  let k := f.fn.toNat % 8
  pfxLane shfSpec f.pfx f.a (tyOk shfSpec f.pfx) (t == .f32) false
    ++ destCauses shfSpec f.pfx f.nw f.vd t.wide
    ++ cause (t.wide && isOddVec f.a) 4
    ++ cause (f.fn.toNat / 8 % 8 != 0) 3 ++ cause (k == 0 || 6 < k) 4

/-- What a scalar form accepts. -/
structure ScalarSpec where
  dflt : Ty
  types : List Ty

/-- Prefix causes of S and SU (R50): RND is in the format's column and no such instruction accepts a code. -/
def pfxScalar (s : ScalarSpec) (p : Option Prefix) : List Nat :=
  match p with
  | none => []
  | some q =>
    pfxBase p ++ cause (!isZero q.d || q.msk != 0 || q.zro || q.af || q.ahi != 0) 5
      ++ cause (q.rnd != 0) 9
      ++ cause (match effTy s.dflt p with | none => true | some t => !s.types.contains t) 4

/-- Format S (R42, R45, R116). -/
def sCauses (s : ScalarSpec) (f : SFmt) : List Nat :=
  pfxScalar s f.pfx ++ cause (192 ≤ f.sd.toNat) 4 ++ cause (!isUni f.a || !isUni f.b) 4

/-- `srdl` (R42, R119). -/
def srdlCauses (s : ScalarSpec) (f : SFmt) : List Nat :=
  pfxScalar s f.pfx ++ cause (192 ≤ f.sd.toNat) 4
    ++ cause (!(isVec f.a || isLatch f.a) || !isUni f.b) 4
    ++ cause ((tyOf s.dflt f.pfx).wide && isOddVec f.a) 4

/-- `sp.look` (R179): no type but TYP = 0, B is 0x85, sd at most 190. -/
def spLookCauses (f : SFmt) : List Nat :=
  pfxScalar { dflt := .n64, types := [.n64] } f.pfx
    ++ cause (match f.pfx with | some q => q.typ != 0 | none => false) 4
    ++ cause (190 < f.sd.toNat) 4 ++ cause (!isUni f.a || !isZero f.b) 4

/-- Format SU (R117). -/
def suCauses (s : ScalarSpec) (f : SUFmt) : List Nat :=
  pfxScalar s f.pfx ++ cause (192 ≤ f.sd.toNat) 4 ++ cause (!isUni f.a) 4

/-- Format SI. -/
def siCauses (f : SIFmt) : List Nat := cause (192 ≤ f.sd.toNat) 4

/-- Format K with its sub-function (R56, R104). -/
def kCauses (fn : Nat) (f : KFmt) : List Nat :=
  pfxSbOnly f.pfx ++ cause (f.rsv != 0) 3
    ++ cause (fn ≤ 3 && 7 < f.s.toNat) 3 ++ cause (fn == 4 && f.s != 0) 3
    ++ cause ((fn == 5 || fn == 6) && f.ka != 0) 3 ++ cause (fn == 7 && f.kd != 0) 3
    ++ cause (fn ≤ 6 && f.kd == 0) 4 ++ cause ((fn == 6 || fn == 7) && !isScalar f.s) 4

/-- What a memory form accepts. -/
structure MemSpec where
  dflt : Ty
  types : List Ty
  zro : Bool := false
  sp : Bool := true
  /-- D is the compare value of `atm.cas` -/
  cas : Bool := false
  /-- A must be a scalar below s191 (R175) -/
  multicast : Bool := false
  /-- vd must be 0 (R168) -/
  noVd : Bool := false

/-- Format M (R42, R50, R160, R161). (DEDUCED, log 27) -/
def mCauses (s : MemSpec) (f : MFmt) : List Nat :=
  let t := tyOf s.dflt f.pfx
  (match f.pfx with
    | none => []
    | some q =>
      pfxBase f.pfx ++ cause (q.rnd != 0 || q.af || q.ahi != 0) 5 ++ cause (q.zro && !s.zro) 5
        ++ cause (match effTy s.dflt f.pfx with | none => true | some t => !s.types.contains t) 4
        ++ cause (s.cas && (isLatch q.d || (t.wide && isOddVec q.d))) 4)
    ++ cause (!(isZero f.a || isScalar f.a)) 4
    ++ cause (isZero f.a && isOddVec f.b) 4
    ++ cause (!s.noVd && t.wide && f.vd.toNat % 2 == 1) 4
    ++ cause (s.noVd && f.vd != 0) 3
    ++ cause (f.sp && !s.sp) 4
    ++ cause (s.multicast && (isZero f.a || 190 < scalarNo f.pfx f.a)) 4

/-- Format J. -/
def jCauses (f : JFmt) : List Nat := pfxSbOnly f.pfx

/-- Format G: the codes A and B accept, and the subcode of an operand the instruction leaves unused. (DEDUCED, log 103) -/
def gCauses (aOk bOk : Byte → Bool) (f : GFmt) : List Nat :=
  pfxSbOnly f.pfx ++ cause (!aOk f.a || !bOk f.b) 4

/-- Format G with operands that R57, R124 and R134 leave unused: not 0x85 is subcode 0x03. -/
def gUnused (aUsed bUsed : Bool) (aOk bOk : Byte → Bool) (f : GFmt) : List Nat :=
  pfxSbOnly f.pfx ++ cause ((!aUsed && !isZero f.a) || (!bUsed && !isZero f.b)) 3
    ++ cause ((aUsed && !aOk f.a) || (bUsed && !bOk f.b)) 4

/-- A branch target operand (R128). -/
def isTarget (c : Byte) : Bool := (isVec c && !isOddVec c) || isLatch c || isScalar c

/-- Format Y, system registers (R46, R143). -/
def sysNos : List Nat :=
  [0x000, 0x001, 0x002, 0x003, 0x004, 0x010, 0x011, 0x012, 0x020, 0x030, 0x031, 0x032, 0x033, 0x034, 0x035, 0x036, 0x040, 0x041]

/-- Format Y: FN is 0 (R143), A as given. -/
def yCauses (aOk : Byte → Bool) (sysOk : Bool) (f : YFmt) : List Nat :=
  pfxSbOnly f.pfx ++ cause (f.fn != 0) 3 ++ cause (!aOk f.a || !sysOk) 4

/-- `fence` (R45, R182). -/
def fenceCauses (f : YFmt) : List Nat :=
  pfxSbOnly f.pfx ++ cause (f.sys != 0 || !isZero f.a) 3 ++ cause (f.fn.toNat / 4 == 3) 4

/-- Format X (R45, R190); with SB = 3 the scalar number counts too (DESIGN CHOICE, log 137). -/
def xCauses (f : XFmt) : List Nat :=
  let ca := f.fn.toNat / 64
  let cb := f.fn.toNat / 16 % 4
  pfxSbOnly f.pfx ++ cause (f.nf == 0 || f.mf == 3 || ca == 3 || ca != cb) 4
    ++ cause (f.fn.toNat / 2 % 8 != 0) 3
    ++ cause (!isScalar f.a || 190 < scalarNo f.pfx f.a) 4

/-- Format XO (R45, R50, R328). -/
def xoCauses (f : XOFmt) : List Nat :=
  pfxBase f.pfx
    ++ (match f.pfx with | none => [] | some q => cause (q.rnd != 0 || q.typ != 0 || q.af || q.ahi != 0) 5)
    ++ cause (f.rsv != 0) 3

/-- A 16-bit form: the halfword 0x0000 (R53). -/
def cCauses (op : Nat) (f : CFmt) : List Nat := cause (op == 0 && f.vd == 0 && f.b == 0) 6

/-- `tex`, `tex.fetch` (R210). -/
def texCauses (s : LaneSpec) (f : VFmt) : List Nat :=
  vCauses s f ++ cause (!isVec f.a || isOddVec f.a || !isScalar f.b || f.vd.toNat % 4 != 0) 4

/-- Format U of `pix.own`, `pix.exp`, `ct.look` (R296). -/
def pixCauses (s : LaneSpec) (f : UFmt) : List Nat := uCauses s f ++ cause (!isScalar f.a) 4

/-- `tb.fence` (R213): A and vd are unused. -/
def tbFenceCauses (f : UFmt) : List Nat :=
  uCauses { noTySpec with ring := false } f
    ++ cause (match f.pfx with | some q => q.typ != 0 | none => false) 4
    ++ cause (!isZero f.a || f.vd != 0) 3

/-! A micro-op word's legality (R324, R325). -/

/-- Operand roles of a micro-op: which of D, A, B, C and IMM it uses. -/
inductive UShape where
  | dab | dabc | da | pick | ld | st | jmp | bcond | none | out
  deriving DecidableEq, Repr

/-- A source code that is used: 0 to 14 but 15 (R324). -/
def uSrcOk (c : BitVec 4) : Bool := c != 15
/-- A source that may not be an immediate. -/
def uSrcNoImm (c : BitVec 4) : Bool := c != 15 && c != 12
/-- A destination: hv or hs, or none. -/
def uDstOk (c : BitVec 4) : Bool := c != 12 && c != 13 && c != 15

/-- The fields of a micro-op hold what R324 and R325 allow: at most one operand uses IMM. -/
def uopLegal (sh : UShape) (f : UopFmt) : Bool :=
  let spare := !f.rsvHi && f.rsvLo == 0
  let imms := (if f.a == 12 then 1 else 0) + (if f.b == 12 then 1 else 0) + (if f.c == 12 then 1 else 0)
  let immOk := if imms = 0 then f.imm == 0 else imms == 1
  let nd := f.d == 14
  let na := f.a == 14
  let nb := f.b == 14
  let nc := f.c == 14
  match sh with
  | .dab => spare && !f.sp && uDstOk f.d && uSrcOk f.a && uSrcOk f.b && nc && immOk
  | .dabc => spare && !f.sp && uDstOk f.d && uSrcOk f.a && uSrcOk f.b && uSrcOk f.c && immOk
  | .da => spare && !f.sp && uDstOk f.d && uSrcOk f.a && nb && nc && immOk
  | .pick => spare && !f.sp && uDstOk f.d && uSrcOk f.a && nb && nc && immOk
  | .ld => spare && uDstOk f.d && uSrcNoImm f.a && nb && nc
  | .st => spare && nd && uSrcNoImm f.a && uSrcNoImm f.b && nc
  | .jmp => spare && !f.sp && nd && na && nb && nc
  | .bcond => spare && !f.sp && nd && uSrcNoImm f.a && nb && nc
  | .none => spare && !f.sp && nd && na && nb && nc && f.imm == 0
  | .out => spare && !f.sp && nd && uSrcOk f.a && nb && nc && immOk

/-! What each form accepts. -/

/-- Integer operations whose default is `.i32` (R65, R97). -/
def intI : LaneSpec := { dflt := .i32, types := intTys }

/-- Integer operations whose default is `.n32` (R65, R97). -/
def intN : LaneSpec := { dflt := .n32, types := intTys }

/-- `vmad` (R98). -/
def madSpec : LaneSpec := { dflt := .i32, types := intTys, third := true }

/-- `vbfx` (R99). -/
def bfxSpec : LaneSpec := { dflt := .n32, types := wordTys }

/-- `vbfi` (R99). -/
def bfiSpec : LaneSpec := { dflt := .n32, types := wordTys, third := true }

/-- `vsel` (R100): `.zro` is refused. -/
def selSpec : LaneSpec := { dflt := .n32, types := intTys ++ fpTys, zro := false }

/-- `vrq` (R102). -/
def rqSpec : LaneSpec := { dflt := .i8, types := [.i8, .n8], third := true }

/-- `vaddr` (R101). -/
def addrSpec : LaneSpec := { dflt := .n64, types := [.n64, .i64] }

/-- FP operations that accept a rounding override (R33, R105). -/
def fpR : LaneSpec := { dflt := .f32, types := fpTys, rnd := fun _ => true }

/-- FP operations that are exact (R105, R108). -/
def fpX : LaneSpec := { dflt := .f32, types := fpTys }

/-- `vfma`, `vfms` (R106). -/
def fmaSpec : LaneSpec := { dflt := .f32, types := fpTys, third := true, rnd := fun _ => true }

/-- `vfdp2` (R107). -/
def dp2Spec : LaneSpec := { dflt := .f32, types := [.f32, .f16], third := true }

/-- `vperm` (R112). -/
def permSpec : LaneSpec := { dflt := .n32, types := permTys }

/-- `vcmp` (R103). -/
def cmpSpec : LaneSpec := { dflt := .i32, types := wordTys }

/-- `vfcmp` (R103). -/
def fcmpSpec : LaneSpec := { dflt := .f32, types := [.f32, .f64] }

/-- `vmov` (R108). -/
def movSpec : LaneSpec := { dflt := .n32, types := intTys ++ fpTys }

/-- `vneg`, `vabs` (R108). -/
def negSpec : LaneSpec := { dflt := .i32, types := [.i8, .i16, .i32, .i64] }

/-- `vsfu` (R111). -/
def sfuSpec : LaneSpec := { dflt := .f32, types := [.f32] }

/-- `vred` (R114). -/
def redSpec : LaneSpec := { dflt := .f32, types := intTys ++ fpTys, rnd := Ty.isFp }

/-- `swrl` (R119). -/
def swrlSpec : LaneSpec := { dflt := .n32, types := [.n32, .n64], zro := false, ring := false }

/-- `tex`, `tex.fetch` (R210). -/
def texSpec : LaneSpec := { dflt := .f32, types := [.f32], ring := false }

/-- `tb.ld` (R213). -/
def tbLdSpec : LaneSpec := { dflt := .n32, types := [.n32, .i32, .f32], ring := false, frag := true }

/-- `tb.st` (R213). -/
def tbStSpec : LaneSpec := { dflt := .n32, types := [.n32, .i32, .f32], zro := false, ring := false, frag := true }

/-- `pix.own`, `ct.look` (R296). -/
def pixNSpec : LaneSpec := { dflt := .n32, types := [.n32], ring := false }

/-- `pix.exp` (R296, R299): `.zro` is refused. -/
def pixESpec : LaneSpec := { dflt := .f32, types := [.f32], zro := false, ring := false }

/-- Scalar operations whose default is `.i64` (R65, R116). -/
def scI : ScalarSpec := { dflt := .i64, types := wordTys }

/-- Scalar operations whose default is `.n64` (R65, R116). -/
def scN : ScalarSpec := { dflt := .n64, types := wordTys }

/-- `sld`, `sst` (R169). -/
def scMem : ScalarSpec := { dflt := .n64, types := intTys }

/-- `srdl` (R119). -/
def rdlSpec : ScalarSpec := { dflt := .n32, types := wordTys }

/-- `ld` (R166). -/
def ldSpec : MemSpec := { dflt := .n32, types := intTys ++ fpTys, zro := true }

/-- `st` (R167). -/
def stSpec : MemSpec := { dflt := .n32, types := intTys ++ fpTys }

/-- `pf` (R168). -/
def pfSpec : MemSpec := { dflt := .n32, types := intTys ++ fpTys, zro := true, sp := false, noVd := true }

/-- `st.mc` (R175). -/
def stMcSpec : MemSpec := { dflt := .n32, types := intTys ++ fpTys, sp := false, multicast := true }

/-- `st.red` (R175). -/
def stRedSpec : MemSpec := { dflt := .n32, types := permTys, sp := false, multicast := true }

/-- The integer atomics (R170). -/
def atmSpec : MemSpec := { dflt := .n32, types := wordTys }

/-- `atm.xchg` (R170). -/
def xchgSpec : MemSpec := { dflt := .n32, types := permTys }

/-- `atm.cas` (R170). -/
def casSpec : MemSpec := { dflt := .n32, types := wordTys, cas := true }

/-- `atm.fadd` (R170). -/
def faddSpec : MemSpec := { dflt := .f32, types := [.f32, .f64] }

/-- `atm.fadd.det` (R171). -/
def detSpec : MemSpec := { dflt := .f32, types := [.f32, .f64], sp := false }

/-- The static causes of `fibJoin`. -/
def fibJoinCauses (f : GFmt) : List Nat := gUnused false false isZero isZero f

/-- The static causes of `fibExit`. -/
def fibExitCauses (f : GFmt) : List Nat := gUnused false false isZero isZero f

/-- The static causes of `fibYield`. -/
def fibYieldCauses (f : GFmt) : List Nat := gUnused false false isZero isZero f

/-- The static causes of `nop`. -/
def nopCauses (f : GFmt) : List Nat := gUnused false false isZero isZero f

/-- The static causes of `ret`. -/
def retCauses (f : GFmt) : List Nat := gUnused true true isTarget (fun c => isImm (-8) 47 c || isScalar c) f

/-- The static causes of `callInd`. -/
def callIndCauses (f : GFmt) : List Nat := gUnused true true isTarget (fun c => isImm (-8) 47 c || isScalar c) f

/-- The static causes of `brInd`. -/
def brIndCauses (f : GFmt) : List Nat := gUnused true false isTarget isZero f

/-- The static causes of `qTail`. -/
def qTailCauses (f : GFmt) : List Nat := gCauses isScalar isZero f

/-- The static causes of `qCancel`. -/
def qCancelCauses (f : GFmt) : List Nat := gCauses (fun c => isZero c || isScalar c) (isImm 0 2) f

/-- The static causes of `qEvt`. -/
def qEvtCauses (f : GFmt) : List Nat := gCauses isScalar (isImm 0 47) f

/-- The static causes of `pkMask`. -/
def pkMaskCauses (f : GFmt) : List Nat := gUnused true true isScalar isScalar f

/-- The static causes of `pkPc`. -/
def pkPcCauses (f : GFmt) : List Nat := gUnused true true isScalar isScalar f

/-- The static causes of `pkResume`. -/
def pkResumeCauses (f : GFmt) : List Nat := gUnused true false isScalar isZero f

/-- The static causes of `pkKill`. -/
def pkKillCauses (f : GFmt) : List Nat := gUnused true false isScalar isZero f

/-- The static causes of `hdlRet`. -/
def hdlRetCauses (f : GFmt) : List Nat := gUnused false false isZero isZero f

/-- The static causes of `spSet`. -/
def spSetCauses (f : GFmt) : List Nat := gUnused true true isScalar isScalar f

/-- The static causes of `spInv`. -/
def spInvCauses (f : GFmt) : List Nat := gUnused true false (fun c => isScalar c || isOnes c) isZero f

/-- The static causes of `accClr`. -/
def accClrCauses (f : GFmt) : List Nat := gCauses (fun c => c.toNat < 0x40 || isScalar c) (fun c => (1 ≤ c.toNat && c.toNat ≤ 0x40) || isScalar c) f

/-- The static causes of `accMov`. -/
def accMovCauses (f : GFmt) : List Nat := gCauses (fun c => c.toNat < 0x40 || isScalar c) (fun c => c.toNat < 0x40 || isScalar c) f

/-- The static causes of `accLd`. -/
def accLdCauses (f : GFmt) : List Nat := gCauses (fun c => c.toNat < 0x40 || isScalar c) isScalar f

/-- The static causes of `accSt`. -/
def accStCauses (f : GFmt) : List Nat := gCauses (fun c => c.toNat < 0x40 || isScalar c) isScalar f

/-- The static causes of `accPut`. -/
def accPutCauses (f : GFmt) : List Nat := gCauses (fun c => c.toNat < 0x40 || isScalar c) isVec f

/-- The static causes of `osClaim`. -/
def osClaimCauses (f : GFmt) : List Nat := gCauses isScalar (fun c => (1 ≤ c.toNat && c.toNat ≤ 0x40) || isScalar c) f

/-- The static causes of `osRel`. -/
def osRelCauses (f : GFmt) : List Nat := gCauses (fun c => c.toNat < 0x80 || isScalar c) (fun c => (1 ≤ c.toNat && c.toNat ≤ 0x40) || isScalar c) f

/-- The static causes of `mmWait`. -/
def mmWaitCauses (f : GFmt) : List Nat := gCauses (fun c => isZero c || isScalar c) (fun c => c.toNat ≤ 0x10 || isScalar c) f

/-- The static causes of `frtRetire`. -/
def frtRetireCauses (f : GFmt) : List Nat := gCauses isScalar isZero f

/-- The static causes of `frtYield`. -/
def frtYieldCauses (f : GFmt) : List Nat := gCauses isScalar isZero f

/-- The static causes of `frtQuery`. -/
def frtQueryCauses (f : GFmt) : List Nat := gCauses isScalar (isImm 0 2) f

/-- The static causes of `frtCancel`. -/
def frtCancelCauses (f : GFmt) : List Nat := gCauses (fun c => isZero c || isScalar c) isZero f

/-- The static causes of `tdSet`. -/
def tdSetCauses (f : GFmt) : List Nat := gCauses isScalar (fun c => isImm 0 47 c || isScalar c) f

/-- The static causes of `tdGet`. -/
def tdGetCauses (f : GFmt) : List Nat := gCauses isScalar (fun c => isImm 0 47 c || isScalar c) f

/-- The static causes of `tdInv`. -/
def tdInvCauses (f : GFmt) : List Nat := gCauses isZero (fun c => isImm 0 47 c || isScalar c || isOnes c) f

/-- The static causes of `cpKick`. -/
def cpKickCauses (f : GFmt) : List Nat := gCauses isScalar (fun c => isImm 1 47 c || isScalar c) f

/-- The static causes of `cpGather`. -/
def cpGatherCauses (f : GFmt) : List Nat := gCauses isScalar isScalar f

/-- The static causes of `barSync`. -/
def barSyncCauses (f : GFmt) : List Nat := gCauses isZero (isImm 0 3) f

/-- The static causes of `barTeam`. -/
def barTeamCauses (f : GFmt) : List Nat := gCauses isZero (isImm 0 3) f

/-- The static causes of `barArrive`. -/
def barArriveCauses (f : GFmt) : List Nat := gCauses isScalar (fun c => isImm 1 47 c || isScalar c) f

/-- The static causes of `barPost`. -/
def barPostCauses (f : GFmt) : List Nat := gCauses isScalar (fun c => isImm 0 47 c || isScalar c) f

/-- The static causes of `barWait`. -/
def barWaitCauses (f : GFmt) : List Nat := gCauses isScalar (fun c => isImm 0 1 c || isScalar c) f

/-- The static causes of `tlWait`. -/
def tlWaitCauses (f : GFmt) : List Nat := gCauses isScalar (fun c => isImm 0 47 c || isScalar c) f

/-- The static causes of `tlRd`. -/
def tlRdCauses (f : GFmt) : List Nat := gCauses isScalar isZero f

/-- The static causes of `cntRd`. -/
def cntRdCauses (f : GFmt) : List Nat := gCauses isScalar (isImm 0 1) f

/-- The static causes of `vClaim`. -/
def vClaimCauses (f : GFmt) : List Nat := gCauses (fun c => isZero c || isScalar c) (fun c => isImm 1 31 c || isScalar c) f

/-- The static causes of `vRel`. -/
def vRelCauses (f : GFmt) : List Nat := gCauses (fun c => isZero c || isScalar c) (fun c => isImm 1 31 c || isScalar c) f

/-- The static causes of `winSet`. -/
def winSetCauses (f : GFmt) : List Nat := gCauses (fun c => isZero c || isScalar c) (fun c => isImm 0 31 c || isScalar c) f

/-- The static causes of `winAdd`. -/
def winAddCauses (f : GFmt) : List Nat := gCauses (fun c => isZero c || isScalar c) (fun c => isImm (-8) 31 c || isScalar c) f

/-- The static causes of `wcsBind`. -/
def wcsBindCauses (f : GFmt) : List Nat := gCauses isScalar (fun c => isImm 0 31 c || isScalar c) f

/-- The static causes of `wcsUnbind`. -/
def wcsUnbindCauses (f : GFmt) : List Nat := gCauses isZero (fun c => isImm 0 31 c || isScalar c || isOnes c) f

/-- The static causes of `wcsInv`. -/
def wcsInvCauses (f : GFmt) : List Nat := gCauses isScalar (fun c => isImm 1 47 c || isScalar c) f

/-- The static causes of `pkRd`. -/
def pkRdCauses (f : GFmt) : List Nat := gUnused true true isScalar isScalar f ++ cause (isScalar f.a && 189 < scalarNo f.pfx f.a) 4

/-- The static causes of `wcsLd`. -/
def wcsLdCauses (f : GFmt) : List Nat := gCauses isScalar (fun c => isImm 1 47 c || isScalar c) f ++ cause (isScalar f.a && 190 < scalarNo f.pfx f.a) 4

/-- The static causes of `sysRd` (R143). -/
def sysRdCauses (f : YFmt) : List Nat := yCauses isScalar (sysNos.contains f.sys.toNat) f

/-- The static causes of `sysWr` (R143). -/
def sysWrCauses (f : YFmt) : List Nat := yCauses isUni (sysNos.contains f.sys.toNat) f

/-- The static causes of `trap` (R143). -/
def trapCauses (f : YFmt) : List Nat := yCauses isUni true f

/-- The static causes of `sig` (R143). -/
def sigCauses (f : YFmt) : List Nat := yCauses isUni (f.sys.toNat < 0x400 || f.sys.toNat == 0xFFF) f

/-- The subcodes of every static cause of illegal-instruction (R58); a micro-op word refused by R325 has 0x0A. -/
def fieldCauses (i : Instr) : List Nat :=
  match i with
  | .vadd f => vCauses intI f
  | .vsub f => vCauses intI f
  | .vmul f => vCauses intI f
  | .vmulh f => vCauses intI f
  | .vmad f => vCauses madSpec f
  | .vmin f => vCauses intI f
  | .vmax f => vCauses intI f
  | .vabsd f => vCauses intI f
  | .vand f => vCauses intN f
  | .vor f => vCauses intN f
  | .vxor f => vCauses intN f
  | .vandn f => vCauses intN f
  | .vshl f => vCauses intN f
  | .vshr f => vCauses intN f
  | .vsra f => vCauses intI f
  | .vrot f => vCauses intN f
  | .vadds f => vCauses intI f
  | .vsubs f => vCauses intI f
  | .vcmp f => vcCauses cmpSpec 5 f
  | .vbfx f => vCauses bfxSpec f
  | .vbfi f => vCauses bfiSpec f
  | .vsel f => vCauses selSpec f
  | .vrq f => vCauses rqSpec f
  | .vaddr f => vCauses addrSpec f
  | .vfadd f => vCauses fpR f
  | .vfsub f => vCauses fpR f
  | .vfmul f => vCauses fpR f
  | .vfma f => vCauses fmaSpec f
  | .vfms f => vCauses fmaSpec f
  | .vfmin f => vCauses fpX f
  | .vfmax f => vCauses fpX f
  | .vfdiv f => vCauses fpR f
  | .vfcmp f => vcCauses fcmpSpec 7 f
  | .vfdp2 f => vCauses dp2Spec f
  | .vfsgn f => vCauses fpX f
  | .vperm f => vCauses permSpec f
  | .vmov f => uCauses movSpec f
  | .vnot f => uCauses intN f
  | .vneg f => uCauses negSpec f
  | .vabs f => uCauses negSpec f
  | .vpopc f => uCauses intN f
  | .vclz f => uCauses intN f
  | .vctz f => uCauses intN f
  | .vbrev f => uCauses intN f
  | .vfneg f => uCauses fpX f
  | .vfabs f => uCauses fpX f
  | .vfsqrt f => uCauses fpR f
  | .vfrnd f => uCauses fpR f
  | .vcvt f => cvtCauses f
  | .vsfuSin f => uCauses sfuSpec f
  | .vsfuCos f => uCauses sfuSpec f
  | .vsfuExp2 f => uCauses sfuSpec f
  | .vsfuLog2 f => uCauses sfuSpec f
  | .vsfuRcp f => uCauses sfuSpec f
  | .vsfuRsqrt f => uCauses sfuSpec f
  | .vredSum f => uCauses redSpec f
  | .vredMax f => uCauses redSpec f
  | .vredMin f => uCauses redSpec f
  | .vshf f => shfCauses f
  | .cAdd f => cCauses 0 f
  | .cSub f => cCauses 1 f
  | .cMul f => cCauses 2 f
  | .cAnd f => cCauses 3 f
  | .cOr f => cCauses 4 f
  | .cXor f => cCauses 5 f
  | .cShl f => cCauses 6 f
  | .cShr f => cCauses 7 f
  | .cMov f => cCauses 8 f
  | .cFadd f => cCauses 9 f
  | .cFsub f => cCauses 10 f
  | .cFmul f => cCauses 11 f
  | .cFmin f => cCauses 12 f
  | .cFmax f => cCauses 13 f
  | .cMin f => cCauses 14 f
  | .cMax f => cCauses 15 f
  | .sadd f => sCauses scI f
  | .ssub f => sCauses scI f
  | .smul f => sCauses scI f
  | .smulh f => sCauses scI f
  | .sand f => sCauses scN f
  | .sor f => sCauses scN f
  | .sxor f => sCauses scN f
  | .sshl f => sCauses scN f
  | .sshr f => sCauses scN f
  | .ssra f => sCauses scI f
  | .smin f => sCauses scI f
  | .smax f => sCauses scI f
  | .sseq f => sCauses scN f
  | .ssne f => sCauses scN f
  | .sslt f => sCauses scI f
  | .ssle f => sCauses scI f
  | .srdl f => srdlCauses rdlSpec f
  | .swrl f => vCauses swrlSpec f
  | .sli f => siCauses f
  | .slih f => siCauses f
  | .smov f => suCauses scN f
  | .snot f => suCauses scN f
  | .sneg f => suCauses scI f
  | .spopc f => suCauses scN f
  | .sclz f => suCauses scN f
  | .sctz f => suCauses scN f
  | .kand f => kCauses 0 f
  | .kor f => kCauses 1 f
  | .kxor f => kCauses 2 f
  | .kandn f => kCauses 3 f
  | .knot f => kCauses 4 f
  | .kfromv f => kCauses 5 f
  | .kfroms f => kCauses 6 f
  | .ktos f => kCauses 7 f
  | .ld f => mCauses ldSpec f
  | .st f => mCauses stSpec f
  | .sld f => sCauses scMem f
  | .sst f => sCauses scMem f
  | .pf f => mCauses pfSpec f
  | .stMc f => mCauses stMcSpec f
  | .stRed f => mCauses stRedSpec f
  | .spLook f => spLookCauses f
  | .atmAdd f => mCauses atmSpec f
  | .atmMin f => mCauses atmSpec f
  | .atmMax f => mCauses atmSpec f
  | .atmAnd f => mCauses atmSpec f
  | .atmOr f => mCauses atmSpec f
  | .atmXor f => mCauses atmSpec f
  | .atmXchg f => mCauses xchgSpec f
  | .atmCas f => mCauses casSpec f
  | .atmFadd f => mCauses faddSpec f
  | .atmFaddDet f => mCauses detSpec f
  | .fence f => fenceCauses f
  | .fibFork f => jCauses f
  | .br f => jCauses f
  | .brn f => jCauses f
  | .call f => jCauses f
  | .fibJoin f => fibJoinCauses f
  | .fibExit f => fibExitCauses f
  | .fibYield f => fibYieldCauses f
  | .ret f => retCauses f
  | .brInd f => brIndCauses f
  | .callInd f => callIndCauses f
  | .nop f => nopCauses f
  | .sysRd f => sysRdCauses f
  | .sysWr f => sysWrCauses f
  | .trap f => trapCauses f
  | .sig f => sigCauses f
  | .qTail f => qTailCauses f
  | .qCancel f => qCancelCauses f
  | .qEvt f => qEvtCauses f
  | .pkRd f => pkRdCauses f
  | .pkMask f => pkMaskCauses f
  | .pkPc f => pkPcCauses f
  | .pkResume f => pkResumeCauses f
  | .pkKill f => pkKillCauses f
  | .hdlRet f => hdlRetCauses f
  | .spSet f => spSetCauses f
  | .spInv f => spInvCauses f
  | .mm f => xCauses f
  | .accClr f => accClrCauses f
  | .accMov f => accMovCauses f
  | .accLd f => accLdCauses f
  | .accSt f => accStCauses f
  | .accPut f => accPutCauses f
  | .osClaim f => osClaimCauses f
  | .osRel f => osRelCauses f
  | .mmWait f => mmWaitCauses f
  | .tex f => texCauses texSpec f
  | .texFetch f => texCauses texSpec f
  | .tbLd f => uCauses tbLdSpec f
  | .tbSt f => uCauses tbStSpec f
  | .tbFence f => tbFenceCauses f
  | .pixOwn f => pixCauses pixNSpec f
  | .pixExp f => pixCauses pixESpec f
  | .ctLook f => pixCauses pixNSpec f
  | .frtRetire f => frtRetireCauses f
  | .frtYield f => frtYieldCauses f
  | .frtQuery f => frtQueryCauses f
  | .frtCancel f => frtCancelCauses f
  | .tdSet f => tdSetCauses f
  | .tdGet f => tdGetCauses f
  | .tdInv f => tdInvCauses f
  | .cpKick f => cpKickCauses f
  | .cpGather f => cpGatherCauses f
  | .barSync f => barSyncCauses f
  | .barTeam f => barTeamCauses f
  | .barArrive f => barArriveCauses f
  | .barPost f => barPostCauses f
  | .barWait f => barWaitCauses f
  | .tlWait f => tlWaitCauses f
  | .tlRd f => tlRdCauses f
  | .cntRd f => cntRdCauses f
  | .vClaim f => vClaimCauses f
  | .vRel f => vRelCauses f
  | .winSet f => winSetCauses f
  | .winAdd f => winAddCauses f
  | .wcsLd f => wcsLdCauses f
  | .wcsBind f => wcsBindCauses f
  | .wcsUnbind f => wcsUnbindCauses f
  | .wcsInv f => wcsInvCauses f
  | .xop f => xoCauses f
  | .uadd f => cause (!uopLegal .dab f) 10
  | .usub f => cause (!uopLegal .dab f) 10
  | .umul f => cause (!uopLegal .dab f) 10
  | .umad f => cause (!uopLegal .dabc f) 10
  | .uand f => cause (!uopLegal .dab f) 10
  | .uor f => cause (!uopLegal .dab f) 10
  | .uxor f => cause (!uopLegal .dab f) 10
  | .uandn f => cause (!uopLegal .dab f) 10
  | .ushl f => cause (!uopLegal .dab f) 10
  | .ushr f => cause (!uopLegal .dab f) 10
  | .usra f => cause (!uopLegal .dab f) 10
  | .umin f => cause (!uopLegal .dab f) 10
  | .umax f => cause (!uopLegal .dab f) 10
  | .uminn f => cause (!uopLegal .dab f) 10
  | .umaxn f => cause (!uopLegal .dab f) 10
  | .useq f => cause (!uopLegal .dab f) 10
  | .usne f => cause (!uopLegal .dab f) 10
  | .uslt f => cause (!uopLegal .dab f) 10
  | .usle f => cause (!uopLegal .dab f) 10
  | .usltn f => cause (!uopLegal .dab f) 10
  | .usel f => cause (!uopLegal .dabc f) 10
  | .ubfx f => cause (!uopLegal .dab f) 10
  | .uzx32 f => cause (!uopLegal .da f) 10
  | .usx32 f => cause (!uopLegal .da f) 10
  | .ufadd f => cause (!uopLegal .dab f) 10
  | .ufsub f => cause (!uopLegal .dab f) 10
  | .ufmul f => cause (!uopLegal .dab f) 10
  | .uffma f => cause (!uopLegal .dabc f) 10
  | .ufmin f => cause (!uopLegal .dab f) 10
  | .ufmax f => cause (!uopLegal .dab f) 10
  | .ufcvti f => cause (!uopLegal .da f) 10
  | .uicvtf f => cause (!uopLegal .da f) 10
  | .umov f => cause (!uopLegal .da f) 10
  | .upick f => cause (!uopLegal .pick f) 10
  | .uld32 f => cause (!uopLegal .ld f) 10
  | .uld64 f => cause (!uopLegal .ld f) 10
  | .ust32 f => cause (!uopLegal .st f) 10
  | .ust64 f => cause (!uopLegal .st f) 10
  | .ujmp f => cause (!uopLegal .jmp f) 10
  | .ubnz f => cause (!uopLegal .bcond f) 10
  | .ubz f => cause (!uopLegal .bcond f) 10
  | .uend f => cause (!uopLegal .none f) 10
  | .uout f => cause (!uopLegal .out f) 10
  | .status _ => []
  | .vfEnable _ _ => []
  | .vfQuota _ _ => []
  | .slotAssign _ _ => []
  | .slotRestart _ _ => []
  | .slotFree _ _ => []
  | .depcAssign _ _ _ => []
  | .depcReset _ _ => []
  | .ctxCreate _ _ => []
  | .ctxDestroy _ _ => []
  | .ctxSwitch _ _ _ => []
  | .ctxStat _ _ => []
  | .ctxRoot _ _ _ => []
  | .ctxResume _ _ => []
  | .preempt _ _ => []
  | .evqRead _ _ => []
  | .tlbInv _ _ _ _ => []
  | .frmAllot _ _ _ _ _ => []
  | .frmFree _ _ _ _ => []
  | .frmQuota _ _ _ _ _ _ => []
  | .potSet _ _ _ _ _ _ => []
  | .dirtyBase _ _ _ _ _ => []
  | .dirtySwap _ _ => []
  | .dispCfg _ _ => []
  | .pomWrite _ _ _ => []
  | .surfReg _ _ => []
  | .surfFree _ _ => []
  | .rvalSet _ _ _ => []
  | .ctGrant _ _ => []
  | .ctWithdraw _ _ => []
  | .pqCreate _ _ => []
  | .pqFree _ _ => []
  | .wcsAssign _ _ _ _ => []
  | .xopLoad _ _ _ => []
  | .xopQuery _ _ => []
  | .mashReset _ _ => []
  | .clkSet _ _ _ => []
  | .ldoSet _ _ _ => []
  | .kilnSet _ _ _ _ => []
  | .thermQuery _ _ => []
  | .pwrStat _ _ => []
  | .errLog _ _ _ => []
  | .errInject _ _ _ => []
  | .worldNew _ => []
  | .sealKey _ _ _ _ => []
  | .worldUnseal _ _ _ => []
  | .worldFree _ _ => []
  | .patchStage _ _ _ => []
  | .patchActivate _ => []
  | .fabMap _ _ _ => []
  | .collPost _ _ => []
  | .migOut _ _ _ => []
  | .migIn _ _ => []
  | .migStat _ _ => []
  | .unknownCommand _ _ => []
  | .mbsemRead _ _ => []
  | .mbsemRel _ _ => []
  | .mbstatViolClear _ => []
  | .registerWrite _ _ _ _ => []
  | .getVersion _ _ => []
  | .getCapabilities _ _ => []
  | .negotiateAlgorithms _ _ => []
  | .getDigests _ _ => []
  | .getCertificate _ _ => []
  | .challenge _ _ => []
  | .getMeasurements _ _ => []
  | .keyExchange _ _ => []
  | .finish _ _ => []
  | .heartbeat _ _ => []
  | .keyUpdate _ _ => []
  | .endSession _ _ => []
  | .unsupportedRequest _ _ => []
  | .queueDoorbell _ _ => []
  | .recordTake _ => []
  | .recordBegin _ => []
  | .pointFire _ => []
  | .blockRestorePlace _ => []
  | .activeSlotEntry _ => []
  | .claimDeadlock _ => []
  | .pointRetire _ => []
  | .detCommit _ => []
  | .launchRetire _ => []
  | .handlerEntry _ => []
  | .signalDelivery _ => []
  | .mgmtDoorbellRead _ => []
  | .eventRecordWrite _ => []
  | .memoryAccessPerform _ => []
  | .loadDataReturn _ => []
  | .pageOut _ => []
  | .pageIn _ _ => []
  | .accumulatorOwnershipTrap _ _ => []
  | .mashOpStart _ => []
  | .mashOpComplete _ => []
  | .accOpExecute _ => []
  | .mashTimeoutReset _ => []
  | .copyByteArrival _ _ _ => []
  | .kilnStep _ => []
  | .kilnRequest _ _ => []
  | .vectorBurstEnd _ _ => []
  | .thermalSample _ _ => []
  | .droopAlarm _ => []
  | .denyEnd _ => []
  | .hotSpotMigration _ => []
  | .retentionEntry _ => []
  | .retentionExit _ => []
  | .sliceExpiry _ => []
  | .drainExpiry _ => []
  | .coopBudgetExpiry _ => []
  | .preemptTExpiry _ => []
  | .forcedSave _ => []
  | .displayBoundary _ => []
  | .presentDoorbell _ _ => []
  | .passItemTake _ => []
  | .tileRaster _ _ => []
  | .binOverflowSpill _ => []
  | .sampleCommit _ _ => []
  | .tileStore _ _ => []
  | .deviceReset => []
  | .configRecordVerify => []
  | .linkDown _ => []
  | .hotReset _ => []
  | .hostAccess _ => []
  | .fabricWriteAck _ => []
  | .fabricReadResponse _ _ => []
  | .peerRequest _ _ _ => []
  | .fabricTimeout _ => []
  | .collRetire _ => []
  | .migCompletion _ _ => []
  | .softErrorDetect _ => []
  | .reservedMajor _ _ _ => []
  | .refusedWord _ => []
  | .linkUp _ => []

end Sys2Proof.Machine
end

