-- ==== Sys2Proof/Machine/Fp.lean ====
section
/-! DEFINITION. The IEEE formats and their operations, computed exactly and rounded once (R21 to R23, R32, R105 to R109). -/

namespace Sys2Proof.Machine

/-- Rounding modes (R32). -/
inductive Rnd where
  | rne | rtz | rup | rdn | rna
  deriving DecidableEq, Repr

/-- The mode of a prefix code over an instruction's default (R32). -/
def rndOf (dflt : Rnd) (code : Nat) : Rnd :=
  match code with
  | 1 => .rne
  | 2 => .rtz
  | 3 => .rup
  | 4 => .rdn
  | _ => dflt

/-- A format: exponent and mantissa widths (R21). -/
structure FpFmt where
  eb : Nat
  mb : Nat
  deriving DecidableEq, Repr

/-- FP64. -/
def fmt64 : FpFmt := ⟨11, 52⟩
/-- FP32. -/
def fmt32 : FpFmt := ⟨8, 23⟩
/-- FP16. -/
def fmt16 : FpFmt := ⟨5, 10⟩
/-- BF16. -/
def fmtB16 : FpFmt := ⟨8, 7⟩

/-- The format of a floating-point type; FP32 for any other. -/
def fmtOf (t : Ty) : FpFmt :=
  match t with
  | .f64 => fmt64
  | .f16 => fmt16
  | .bf16 => fmtB16
  | _ => fmt32

/-- The exponent bias. -/
def FpFmt.bias (f : FpFmt) : Nat := 2 ^ (f.eb - 1) - 1
/-- The position of the sign bit. -/
def FpFmt.signPos (f : FpFmt) : Nat := f.eb + f.mb
/-- Infinity. -/
def FpFmt.infBits (f : FpFmt) (neg : Bool) : Nat :=
  (if neg then 2 ^ f.signPos else 0) + (2 ^ f.eb - 1) * 2 ^ f.mb
/-- The default NaN (R21). -/
def FpFmt.nan (f : FpFmt) : Nat := (2 ^ f.eb - 1) * 2 ^ f.mb + 2 ^ (f.mb - 1)
/-- The largest finite value. -/
def FpFmt.maxFin (f : FpFmt) (neg : Bool) : Nat :=
  (if neg then 2 ^ f.signPos else 0) + (2 ^ f.eb - 1) * 2 ^ f.mb - 1
/-- A zero. -/
def FpFmt.zero (f : FpFmt) (neg : Bool) : Nat := if neg then 2 ^ f.signPos else 0

/-- The sign bit of a code. -/
def FpFmt.neg (f : FpFmt) (x : Nat) : Bool := x / 2 ^ f.signPos % 2 == 1
/-- The exponent field. -/
def FpFmt.expo (f : FpFmt) (x : Nat) : Nat := x / 2 ^ f.mb % 2 ^ f.eb
/-- The mantissa field. -/
def FpFmt.mant (f : FpFmt) (x : Nat) : Nat := x % 2 ^ f.mb
/-- A NaN. -/
def FpFmt.isNan (f : FpFmt) (x : Nat) : Bool := f.expo x == 2 ^ f.eb - 1 && f.mant x != 0
/-- An infinity. -/
def FpFmt.isInf (f : FpFmt) (x : Nat) : Bool := f.expo x == 2 ^ f.eb - 1 && f.mant x == 0
/-- A zero of either sign. -/
def FpFmt.isZero (f : FpFmt) (x : Nat) : Bool := f.expo x == 0 && f.mant x == 0
/-- A NaN with its quiet bit set (R22). -/
def FpFmt.quiet (f : FpFmt) (x : Nat) : Nat :=
  if f.mant x / 2 ^ (f.mb - 1) % 2 == 1 then x else x + 2 ^ (f.mb - 1)

/-- A signed dyadic number: `n` × 2 ^ `e`. -/
structure Dy where
  n : Int
  e : Int
  deriving DecidableEq, Repr

/-- The value of a finite code. -/
def FpFmt.value (f : FpFmt) (x : Nat) : Dy :=
  let m := if f.expo x == 0 then f.mant x else f.mant x + 2 ^ f.mb
  let e : Int := (if f.expo x == 0 then 1 else (f.expo x : Int)) - f.bias - f.mb
  ⟨if f.neg x then -(m : Int) else m, e⟩

/-- Sum of dyadic numbers, exact. -/
def Dy.add (a b : Dy) : Dy :=
  if a.e ≤ b.e then ⟨a.n + b.n * 2 ^ (b.e - a.e).toNat, a.e⟩ else ⟨a.n * 2 ^ (a.e - b.e).toNat + b.n, b.e⟩
/-- Product, exact. -/
def Dy.mul (a b : Dy) : Dy := ⟨a.n * b.n, a.e + b.e⟩
/-- Comparison: a < b. -/
def Dy.lt (a b : Dy) : Bool := (Dy.add a ⟨-b.n, b.e⟩).n < 0

/-- Whether a magnitude with quotient `q`, remainder `r` of `d` and a sticky part rounds away from zero. -/
def roundUp (rm : Rnd) (neg : Bool) (q r d : Nat) (sticky : Bool) : Bool :=
  match rm with
  | .rne => d < 2 * r || (2 * r == d && (sticky || q % 2 == 1))
  | .rna => d ≤ 2 * r
  | .rtz => false
  | .rup => !neg && (r != 0 || sticky)
  | .rdn => neg && (r != 0 || sticky)

/-- The result of an overflow (R23). -/
def FpFmt.overflow (f : FpFmt) (rm : Rnd) (neg : Bool) : Nat :=
  match rm with
  | .rne | .rna => f.infBits neg
  | .rtz => f.maxFin neg
  | .rup => if neg then f.maxFin neg else f.infBits neg
  | .rdn => if neg then f.infBits neg else f.maxFin neg

/-- Round the magnitude m × 2 ^ e, with a sticky part below, into a format. -/
def FpFmt.roundMag (f : FpFmt) (rm : Rnd) (neg : Bool) (m : Nat) (e : Int) (sticky : Bool) : Nat :=
  if m == 0 && !sticky then f.zero neg
  else
    let emin : Int := 1 - (f.bias : Int) - f.mb
    let q : Int := max (e + (Nat.log2 m : Int) - f.mb) emin
    let sh := (q - e).toNat
    let m' := if q < e then m * 2 ^ (e - q).toNat else m / 2 ^ sh
    let r := if q < e then 0 else m % 2 ^ sh
    let d := if q < e then 1 else 2 ^ sh
    let up := if d == 1 then roundUp rm neg m' (if sticky then 1 else 0) 4 sticky else roundUp rm neg m' r d sticky
    let s := if up then m' + 1 else m'
    let carry := s == 2 ^ (f.mb + 1)
    let s := if carry then 2 ^ f.mb else s
    let q := if carry then q + 1 else q
    let sgn := f.zero neg
    if s < 2 ^ f.mb then sgn + s
    else
      let x := (q - emin + 1).toNat
      if 2 ^ f.eb - 1 ≤ x then f.overflow rm neg else sgn + x * 2 ^ f.mb + (s - 2 ^ f.mb)

/-- Round a dyadic number; an exact zero takes the sign `zneg`. -/
def FpFmt.round (f : FpFmt) (rm : Rnd) (d : Dy) (zneg : Bool) : Nat :=
  if d.n == 0 then f.zero zneg else f.roundMag rm (d.n < 0) d.n.natAbs d.e false

/-- The first NaN of a list of sources, quieted (R22). -/
def FpFmt.firstNan (f : FpFmt) (l : List Nat) : Option Nat :=
  match l with
  | [] => none
  | x :: r => if f.isNan x then some (f.quiet x) else f.firstNan r

/-- The sign of an exact zero sum: that of the terms when all are zeros of one sign, else + (− under RDN) (R23). (DEDUCED, log 10) -/
def zeroSign (rm : Rnd) (allNeg allPos : Bool) : Bool :=
  if allNeg then true else if allPos then false else rm == .rdn

/-- A term of a sum: a NaN-free product of two codes. -/
inductive Term where
  | inf (neg : Bool)
  | fin (d : Dy) (neg : Bool)
  | invalid
  deriving DecidableEq, Repr

/-- A code as a term. -/
def FpFmt.term (f : FpFmt) (x : Nat) : Term :=
  if f.isInf x then .inf (f.neg x) else .fin (f.value x) (f.neg x)

/-- The product of two terms. -/
def Term.mul (a b : Term) : Term :=
  match a, b with
  | .inf s, .inf t => .inf (s != t)
  | .inf s, .fin d t => if d.n == 0 then .invalid else .inf (s != t)
  | .fin d s, .inf t => if d.n == 0 then .invalid else .inf (s != t)
  | .fin d s, .fin d' t => .fin (Dy.mul d d') (s != t)
  | _, _ => .invalid

/-- The negation of a term. -/
def Term.negate (a : Term) : Term :=
  match a with
  | .inf s => .inf !s
  | .fin d s => .fin ⟨-d.n, d.e⟩ !s
  | .invalid => .invalid

/-- The exact sum of terms, rounded once; none for an invalid operation. -/
def FpFmt.sum (f : FpFmt) (rm : Rnd) (l : List Term) : Option Nat :=
  if l.any (fun t => t == .invalid) then none
  else
    let pos := l.any (fun t => t == .inf false)
    let neg := l.any (fun t => t == .inf true)
    if pos && neg then none
    else if pos then some (f.infBits false)
    else if neg then some (f.infBits true)
    else
      let d := l.foldl (fun a t => match t with | .fin d _ => Dy.add a d | _ => a) ⟨0, 0⟩
      let allNeg := l.all (fun t => match t with | .fin _ s => s | _ => false)
      let allPos := l.all (fun t => match t with | .fin _ s => !s | _ => false)
      some (f.round rm d (zeroSign rm allNeg allPos))

/-- Addition (R105). -/
def FpFmt.add (f : FpFmt) (rm : Rnd) (a b : Nat) : Nat :=
  match f.firstNan [a, b] with
  | some n => n
  | none => (f.sum rm [f.term a, f.term b]).getD f.nan

/-- Subtraction. -/
def FpFmt.sub (f : FpFmt) (rm : Rnd) (a b : Nat) : Nat :=
  match f.firstNan [a, b] with
  | some n => n
  | none => (f.sum rm [f.term a, (f.term b).negate]).getD f.nan

/-- Multiplication. -/
def FpFmt.mul (f : FpFmt) (rm : Rnd) (a b : Nat) : Nat :=
  match f.firstNan [a, b] with
  | some n => n
  | none => (f.sum rm [(f.term a).mul (f.term b)]).getD f.nan

/-- a × b + c with one rounding (R106); `sub` subtracts c. -/
def FpFmt.fma (f : FpFmt) (rm : Rnd) (sub : Bool) (a b c : Nat) : Nat :=
  match f.firstNan [a, b, c] with
  | some n => n
  | none =>
    let tc := f.term c
    (f.sum rm [(f.term a).mul (f.term b), if sub then tc.negate else tc]).getD f.nan

/-- The magnitude quotient of two positive dyadic numbers, rounded. -/
def FpFmt.quot (f : FpFmt) (rm : Rnd) (neg : Bool) (an : Nat) (ae : Int) (bn : Nat) (be : Int) : Nat :=
  let k := f.mb + 4 + Nat.log2 bn + 1
  let num := an * 2 ^ k
  f.roundMag rm neg (num / bn) (ae - be - k) (num % bn != 0)

/-- Division (R105). -/
def FpFmt.div (f : FpFmt) (rm : Rnd) (a b : Nat) : Nat :=
  match f.firstNan [a, b] with
  | some n => n
  | none =>
    let s := f.neg a != f.neg b
    if f.isInf a then (if f.isInf b then f.nan else f.infBits s)
    else if f.isInf b then f.zero s
    else if f.isZero b then (if f.isZero a then f.nan else f.infBits s)
    else if f.isZero a then f.zero s
    else f.quot rm s (f.value a).n.natAbs (f.value a).e (f.value b).n.natAbs (f.value b).e

/-- The integer square root, by bits from `k - 1` down: the greatest r with r² ≤ n. -/
def isqrtBits (n r k : Nat) : Nat :=
  match k with
  | 0 => r
  | k + 1 => let t := r + 2 ^ k; isqrtBits n (if t * t ≤ n then t else r) k

/-- The integer square root. -/
def isqrt (n : Nat) : Nat := isqrtBits n 0 (Nat.log2 n / 2 + 1)

/-- Square root (R108). -/
def FpFmt.sqrt (f : FpFmt) (rm : Rnd) (a : Nat) : Nat :=
  if f.isNan a then f.quiet a
  else if f.isZero a then a
  else if f.neg a then f.nan
  else if f.isInf a then a
  else
    let d := f.value a
    let k := 2 * (f.mb + 4)
    let odd := d.e % 2 != 0
    let n := d.n.natAbs * 2 ^ (if odd then k + 1 else k)
    let e := if odd then d.e - 1 else d.e
    let r := isqrt n
    f.roundMag rm false r (e / 2 - (k / 2 : Nat)) (r * r != n)

/-- Round a magnitude m × 2 ^ e to an integer. -/
def roundIntMag (rm : Rnd) (neg : Bool) (m : Nat) (e : Int) : Nat :=
  if 0 ≤ e then m * 2 ^ e.toNat
  else
    let d := 2 ^ (-e).toNat
    let q := m / d
    if roundUp rm neg q (m % d) d false then q + 1 else q

/-- Round a dyadic number to an integer. -/
def Dy.toInt (rm : Rnd) (d : Dy) : Int :=
  let q := roundIntMag rm (d.n < 0) d.n.natAbs d.e
  if d.n < 0 then -(q : Int) else q

/-- A value rounded to integral in its format (R108). -/
def FpFmt.rint (f : FpFmt) (rm : Rnd) (a : Nat) : Nat :=
  if f.isNan a then f.quiet a
  else if f.isInf a || f.isZero a then a
  else
    let d := f.value a
    f.roundMag .rtz (f.neg a) (roundIntMag rm (f.neg a) d.n.natAbs d.e) 0 false

/-- The order key of a code that is no NaN, −0 below +0. -/
def FpFmt.key (f : FpFmt) (x : Nat) : Int :=
  let m := x % 2 ^ f.signPos
  if f.neg x then -(m : Int) - 1 else m

/-- IEEE 754-2019 minimum (R22 item 4). -/
def FpFmt.min (f : FpFmt) (a b : Nat) : Nat :=
  match f.firstNan [a, b] with
  | some n => n
  | none => if f.key b < f.key a then b else a

/-- IEEE 754-2019 maximum (R22 item 4). -/
def FpFmt.max (f : FpFmt) (a b : Nat) : Nat :=
  match f.firstNan [a, b] with
  | some n => n
  | none => if f.key a < f.key b then b else a

/-- a with b's sign (R105). -/
def FpFmt.sgn (f : FpFmt) (a b : Nat) : Nat := a % 2 ^ f.signPos + (if f.neg b then 2 ^ f.signPos else 0)
/-- a with its sign inverted (R108). -/
def FpFmt.negate (f : FpFmt) (a : Nat) : Nat := a % 2 ^ f.signPos + (if f.neg a then 0 else 2 ^ f.signPos)
/-- a with its sign cleared (R108). -/
def FpFmt.abs (f : FpFmt) (a : Nat) : Nat := a % 2 ^ f.signPos

/-- How two codes compare, quietly (R103). -/
inductive FpOrd where
  | lt | eq | gt | uno
  deriving DecidableEq, Repr

/-- Compare two codes: −0 equals +0. -/
def FpFmt.cmp (f : FpFmt) (a b : Nat) : FpOrd :=
  if f.isNan a || f.isNan b then .uno
  else if f.isZero a && f.isZero b then .eq
  else if f.key a < f.key b then .lt
  else if f.key b < f.key a then .gt
  else .eq

/-- Conversion between formats (R22 item 3, R109). -/
def FpFmt.convert (src dst : FpFmt) (rm : Rnd) (a : Nat) : Nat :=
  if src.isNan a then
    let m := src.mant (src.quiet a)
    dst.zero (src.neg a) + (2 ^ dst.eb - 1) * 2 ^ dst.mb
      + (if src.mb ≤ dst.mb then m * 2 ^ (dst.mb - src.mb) else m / 2 ^ (src.mb - dst.mb))
  else if src.isInf a then dst.infBits (src.neg a)
  else dst.round rm (src.value a) (src.neg a)

/-- An integer rounded into a format. -/
def FpFmt.ofInt (f : FpFmt) (rm : Rnd) (n : Int) : Nat := f.round rm ⟨n, 0⟩ false

/-- A value clamped to a range. -/
def clampInt (lo hi n : Int) : Int := if n < lo then lo else if hi < n then hi else n

/-- The range of an integer type (R20). -/
def tyMin (t : Ty) : Int := if t.signed then -((2 : Int) ^ (t.width - 1)) else 0
/-- The top of the range. -/
def tyMax (t : Ty) : Int := if t.signed then (2 : Int) ^ (t.width - 1) - 1 else (2 : Int) ^ t.width - 1

/-- A code rounded to an integer and saturated to a type; NaN gives 0 (R32, R109). -/
def FpFmt.toIntSat (f : FpFmt) (rm : Rnd) (t : Ty) (a : Nat) : Int :=
  if f.isNan a then 0
  else if f.isInf a then (if f.neg a then tyMin t else tyMax t)
  else clampInt (tyMin t) (tyMax t) ((f.value a).toInt rm)

end Sys2Proof.Machine
end

