-- ==== Sys2Proof/Machine/Store.lean ====
section
/-! DEFINITION. Sorted maps held as lists: `SMap` (values, absent keys read as zero) and `Tbl` (records, keys may be absent). -/

namespace Sys2Proof.Machine

/-- Words by key: keys strictly rising, no entry zero; an unlisted key reads as zero. -/
abbrev SMap (w : Nat) := List (Nat × BitVec w)

/-- The value at a key; zero where none is listed. (DESIGN CHOICE, log 5) -/
def SMap.get {w : Nat} (m : SMap w) (k : Nat) : BitVec w :=
  match m with
  | [] => 0
  | (k', v) :: r => if k = k' then v else SMap.get r k

/-- List a value at its key's place, in place of the one listed there. -/
def SMap.put {w : Nat} (m : SMap w) (k : Nat) (v : BitVec w) : SMap w :=
  match m with
  | [] => [(k, v)]
  | (k', v') :: r =>
    if k < k' then (k, v) :: (k', v') :: r
    else if k = k' then (k, v) :: r
    else (k', v') :: SMap.put r k v

/-- Write the value at a key, keeping the canonical form: zero is not listed. -/
def SMap.set {w : Nat} (m : SMap w) (k : Nat) (v : BitVec w) : SMap w :=
  if v = 0 then m.filter fun e => e.1 != k else SMap.put m k v

/-- Every key is above `b`, keys rise, and no value is zero. -/
def SMap.above {w : Nat} (m : SMap w) (b : Nat) : Bool :=
  match m with
  | [] => true
  | (k, v) :: r => b < k && v != 0 && SMap.above r k

/-- The canonical form. -/
def SMap.wf {w : Nat} (m : SMap w) : Bool :=
  match m with
  | [] => true
  | (k, v) :: r => v != 0 && SMap.above r k

/-- Drop every entry whose key fails `p`. -/
def SMap.keep {w : Nat} (m : SMap w) (p : Nat → Bool) : SMap w := m.filter fun e => p e.1

/-- Write values at consecutive keys. -/
def SMap.setList {w : Nat} (m : SMap w) (k : Nat) (vs : List (BitVec w)) : SMap w :=
  match vs with
  | [] => m
  | v :: r => SMap.setList (SMap.set m k v) (k + 1) r

/-- Read values at consecutive keys. -/
def SMap.getList {w : Nat} (m : SMap w) (k : Nat) (n : Nat) : List (BitVec w) :=
  match n with
  | 0 => []
  | n + 1 => SMap.get m k :: SMap.getList m (k + 1) n

/-- Records by key, keys strictly rising. -/
abbrev Tbl (α : Type) := List (Nat × α)

/-- The record at a key. -/
def Tbl.get? {α : Type} (t : Tbl α) (k : Nat) : Option α :=
  match t with
  | [] => none
  | (k', v) :: r => if k = k' then some v else Tbl.get? r k

/-- Write the record at a key. -/
def Tbl.set {α : Type} (t : Tbl α) (k : Nat) (v : α) : Tbl α :=
  match t with
  | [] => [(k, v)]
  | (k', v') :: r =>
    if k < k' then (k, v) :: (k', v') :: r
    else if k = k' then (k, v) :: r
    else (k', v') :: Tbl.set r k v

/-- Remove a key. -/
def Tbl.erase {α : Type} (t : Tbl α) (k : Nat) : Tbl α := t.filter fun e => e.1 != k

/-- Change the record at a key where there is one. -/
def Tbl.modify {α : Type} (t : Tbl α) (k : Nat) (f : α → α) : Tbl α :=
  match t with
  | [] => []
  | (k', v) :: r => if k = k' then (k', f v) :: r else (k', v) :: Tbl.modify r k f

/-- Every key is above `b` and keys rise. -/
def Tbl.above {α : Type} (t : Tbl α) (b : Nat) : Bool :=
  match t with
  | [] => true
  | (k, _) :: r => b < k && Tbl.above r k

/-- Keys rise. -/
def Tbl.wf {α : Type} (t : Tbl α) : Bool :=
  match t with
  | [] => true
  | (k, _) :: r => Tbl.above r k

/-- The least number not a key, from `n` up, at most `fuel` steps. -/
def Tbl.freshFrom {α : Type} (t : Tbl α) (n fuel : Nat) : Nat :=
  match fuel with
  | 0 => n
  | f + 1 => if (Tbl.get? t n).isSome then Tbl.freshFrom t (n + 1) f else n

/-- One above the greatest key. -/
def Tbl.next {α : Type} (t : Tbl α) : Nat := t.foldl (fun m e => max m (e.1 + 1)) 0

/-- A list of records by position: entry `i` or `d`. -/
def nth {α : Type} (l : List α) (i : Nat) (d : α) : α :=
  match l, i with
  | [], _ => d
  | x :: _, 0 => x
  | _ :: r, i + 1 => nth r i d

/-- Change position `i` of a list. -/
def modifyAt {α : Type} (l : List α) (i : Nat) (f : α → α) : List α :=
  match l, i with
  | [], _ => []
  | x :: r, 0 => f x :: r
  | x :: r, i + 1 => x :: modifyAt r i f

/-- Remove position `i` of a list. -/
def removeAt {α : Type} (l : List α) (i : Nat) : List α :=
  match l, i with
  | [], _ => []
  | _ :: r, 0 => r
  | x :: r, i + 1 => x :: removeAt r i

end Sys2Proof.Machine
end

