-- ==== Sys2Proof/Machine/StateCore.lean ====
section
/-! DEFINITION. The state of fibres, groups, blocks, launches, records and contexts (R10, R17, R76, R81, R120 to R123, R147, R219 to R231, R323, R341). -/

namespace Sys2Proof.Machine

/-- Where a physical access goes (R268): local memory, host memory, a peer device. -/
inductive Space where
  | loc | host | peer (n : Nat)
  deriving DecidableEq, Repr

/-- One entry of the schedule: what happens next (DESIGN CHOICE, log 3). (DESIGN CHOICE, log 1) -/
inductive Turn where
  /-- an event of the surroundings or of a unit, or a command -/
  | event (i : Instr)
  /-- a group in an active slot issues -/
  | issue (gid : Nat)
  /-- nanoseconds pass -/
  | pass (ns : Nat)
  deriving DecidableEq, Repr

/-- The physical place of a completion counter object (R348), with its VPA. -/
structure ObjRef where
  space : Space
  pa : Nat
  vpa : Nat
  deriving DecidableEq, Repr

/-- A fibre slot's state; an absent slot is free (R120). -/
inductive FibreSt where
  | runnable | waiting | parked
  deriving DecidableEq, Repr

/-- The micro-state of a fibre inside an xop sequence (R331); `dst`, `len` keep the xop's A selector under SB and its
length (model fields, DESIGN CHOICE, log 12). -/
structure Micro where
  xmask : W64
  bser : Half
  xi : Nat
  zro : Bool
  upc : Nat
  dst : Byte
  len : Nat
  deriving DecidableEq, Repr

/-- A fibre (R81, R120, R122): `wb` counts units of 8 registers; `micro` is present while UPV = 1; `hs` holds hs0 to hs3. -/
structure Fibre where
  pc : W64
  pred : W64
  wb : Nat
  st : FibreSt
  sc : Nat
  micro : Option Micro
  hs : SMap 64
  deriving DecidableEq, Repr

/-- An open join frame (R123); an absent frame has V = 0. -/
structure Frame where
  mem : W64
  arr : W64
  js : Bool
  jpc : W64
  jwb : Nat
  seq : Nat
  deriving DecidableEq, Repr

/-- What a group waits for (R92). -/
inductive WaitKind where
  /-- `v.claim` of `regs` registers (R84) -/
  | claim (regs : Nat)
  /-- block barrier (R341) -/
  | barSync (n : Nat)
  /-- team barrier (R341) -/
  | barTeam (n : Nat)
  /-- byte-counting barrier object at a scratchpad address, phase (R345) -/
  | barWait (addr : Nat) (ph : Bool)
  /-- timeline KIND and IDX, value (R347) -/
  | tlWait (kind idx : Nat) (v : W64)
  /-- `frt.yield` on a coordinate's rank (R260) -/
  | frtYield (rank : Nat)
  /-- `mm.wait` with at most n operations pending (R198) -/
  | mmWait (n : Nat)
  /-- `tb.fence` (R216) -/
  | tbFence
  deriving DecidableEq, Repr

/-- A wait of a group: the issuing fibre, the instruction's length, the scalar written at the end. -/
structure Wait where
  kind : WaitKind
  fib : Nat
  len : Nat
  dst : Option Nat
  deriving DecidableEq, Repr

/-- A trap record (R147) with the point and the slot that a handler's PTI to PTK and WAKE read (R149); `since` the group that parked, and the step. -/
structure TrapRec where
  handle : W64
  cause : W64
  pc : W64
  addr : W64
  time : Nat
  pt : Nat × Nat × Nat
  slot : Option Nat
  since : Option (Nat × Nat)
  deriving DecidableEq, Repr

/-- A fragment group's place in its pass and its inputs (R207 to R209, R299): item, tile, primitive; per lane the pixel (x in bits 5:0, y in
bits 11:6), the covered samples, the interpolated depth by 4 × lane + sample; `helper` lanes; per lane what is staged (bits 3:0 planes, bit 4
depth), the values by 32 × lane + 4 × plane + component (depth 32 × lane + 16), and the samples whose commit passed; `n` lanes lie in quads. -/
structure FragInfo where
  pass : Nat
  item : Nat
  tile : Nat
  prim : Nat
  early : Bool
  cover : SMap 8
  pix : SMap 16
  zval : SMap 32
  helper : W64
  stage : SMap 32
  staged : SMap 8
  passed : SMap 8
  n : Nat
  deriving DecidableEq, Repr

/-- A group's registers (R76, R77, R80, R91): `vreg` is keyed 64 × register + lane, `hv` 64 × temporary + lane; the ring holds
the valid latches, L0 first, so VCNT is its length. -/
structure Regs where
  vreg : SMap 32
  sreg : SMap 64
  kreg : SMap 64
  ring : List (SMap 64)
  hv : SMap 64
  deriving DecidableEq, Repr

/-- Where a group stands. -/
structure Place where
  core : Nat
  part : Nat
  slot : Option Nat
  deriving DecidableEq, Repr

/-- The engine results a group has not yet collected (R185, R198). -/
structure EngFlags where
  pend : Nat
  reset : Bool
  abort : Bool
  sealed : Bool
  deriving DecidableEq, Repr

/-- A resident group (R10, R76). Its key is 256 × block + GIDX; `ext` the partition of each run of 8 extended registers (R77). -/
structure Group where
  w : Nat
  total : Nat
  base : Nat
  ext : List Nat
  gang : W64
  regs : Regs
  fibres : Tbl Fibre
  cur : Option Nat
  starved : List Nat
  frames : Tbl Frame
  wait : Option Wait
  eng : EngFlags
  tc : Nat
  contrib : SMap 18
  place : Place
  readyAt : Nat
  handler : Option TrapRec
  frag : Option FragInfo
  deriving DecidableEq, Repr

/-- One barrier's ARR and GEN (R341). -/
structure Barrier where
  gen : Byte
  arr : Nat
  deriving DecidableEq, Repr

/-- A tag entry (R178): `key` holds bits 63:8. -/
structure TagEntry where
  key : W64
  age : Nat
  v : Bool
  deriving DecidableEq, Repr

/-- What a block runs. -/
inductive BlockOf where
  /-- a point of a launch, by rank -/
  | point (launch rank : Nat)
  /-- a handler invocation of a context -/
  | handler
  /-- a fragment or vertex block, or a tile, of a pass item -/
  | pass (pass item tile : Nat)
  deriving DecidableEq, Repr

/-- The footprint of a block (R71, R75). -/
structure Foot where
  groups : Nat
  w : Nat
  base : Nat
  pool : Nat
  scratch : Nat
  shared : Nat
  tlines : Nat
  tways : Nat
  bcores : Nat
  deriving DecidableEq, Repr

/-- A placed or saved block (R10, R82, R157, R178, R341). `lcores` are logical cores, block core order; `free` and the tag
tables are by block core index; team barriers are keyed 4 × core index + n; `priv` holds the groups' private regions; `bad` the words of
the scratchpad with a double-bit error (R158). -/
structure Block where
  ctx : Nat
  of : BlockOf
  pt : Nat × Nat × Nat
  slot : Option Nat
  foot : Foot
  lcores : List Nat
  free : SMap 16
  bars : Tbl Barrier
  teams : Tbl Barrier
  priv : SMap 8
  shared : SMap 8
  tlines : SMap 8
  tags : Tbl TagEntry
  slots : Tbl Nat
  bad : List Nat
  saved : Bool
  deriving DecidableEq, Repr

/-- A kernel record (R75). -/
structure KRec where
  entry : W64
  width : Nat
  vregs : Nat
  pool : Nat
  scratch : Nat
  shared : Nat
  bcores : Nat
  bgrp : Nat
  ndim : Nat
  threads : Nat
  ext : Nat × Nat × Nat
  tlines : Nat
  tways : Nat
  dep : List (Int × Int × Int)
  deriving DecidableEq, Repr

/-- A launch descriptor (R221). -/
structure Desc where
  kr : KRec
  code : W64
  cca : W64
  logb : W64
  logsz : Nat
  arg0 : W64
  arg1 : W64
  arg2 : W64
  deriving DecidableEq, Repr

/-- A contribution of `atm.fadd.det` (R171, R172). -/
structure Contrib where
  prank : Nat
  lrank : Nat
  seq : Nat
  pa : Nat
  peer : Option Nat
  host : Bool
  world : Nat
  f64 : Bool
  value : W64
  vpa : Nat
  deriving DecidableEq, Repr

/-- A status a launch, graph or pass retires with (R348). -/
inductive RetSt where
  | normal | cancelled | conflict
  deriving DecidableEq, Repr

/-- A tail-launched descriptor with its key and completion counter object (R229). -/
structure Tail where
  rank : Nat
  lane : Nat
  tc : Nat
  desc : Desc
  addr : W64
  obj : Option ObjRef
  deriving DecidableEq, Repr

/-- A row of a frontier (R247): PFX and WIN. -/
structure FrRow where
  pfx : Nat
  win : W64
  deriving DecidableEq, Repr

/-- Where a launch stands between its turn to begin and its retirement (R11, R14, R253). -/
inductive LaunchSt where
  /-- its turn to begin has come, and its backing record finds no range -/
  | waiting
  | running
  /-- its sums are committed -/
  | committed
  /-- it has retired, and its completion counter object has still to rise, or its rise to be acknowledged (R349) -/
  | retiring
  /-- cancelled: what its groups had begun is awaited -/
  | cancelled
  deriving DecidableEq, Repr

/-- A launch (R10, R220 to R230, R245 to R262). `flying` is the in-flight set and `done` the retired points of a launch without
vectors, as ranks, rising; `rows` is its frontier; `area` its backing record's place and size in the frontier area, `entry` its launch
entry, `pages` its resident pages, whose rows `rows` holds (R251 to R253); `chain` holds the tails still to begin behind it, depth first;
`tiled` marks a tile dispatch, whose points are the tiles of its pass (R215); `changed` lists the resident pages whose rows a retirement has
changed since they were loaded (R252). -/
structure Launch where
  ctx : Nat
  slot : Nat
  recId : Nat
  member : Nat
  desc : Desc
  addr : W64
  st : LaunchSt
  status : RetSt
  flying : List Nat
  done : List Nat
  rows : Tbl FrRow
  retn : Nat
  lser : Nat
  cut : Bool
  area : Option (Nat × Nat)
  entry : Bool
  pages : List Nat
  log : List Contrib
  tails : List Tail
  chain : List Tail
  obj : Option ObjRef
  tiled : Bool
  changed : List Nat := []
  deriving DecidableEq, Repr

/-- The plane formats, core set and surfaces of a pass (R205, R223). -/
structure PassHdr where
  tx : Nat
  ty : Nat
  samp : Nat
  npl : Nat
  pfmt : Nat
  cset : W64
  surf : W64
  bin : W64
  binsz : Nat
  spill : W64
  nitem : Nat
  items : W64
  cca : W64
  deriving DecidableEq, Repr

/-- What a record asks for (R221 to R225). -/
inductive RecBody where
  | launch (d : Desc) (addr : W64)
  /-- members with the addresses of their records -/
  | graph (ms : List (Desc × W64)) (pm : List Nat) (gca : W64)
  /-- with the four entries of its surface table, plane 0 first (R290) -/
  | pass (h : PassHdr) (tab : List (BitVec 128))
  | wait (mw : W64)
  deriving DecidableEq, Repr

/-- A record taken from a slot and not retired (R220). `objs` are the objects of a graph's members; `gone` the members retired,
`went` those begun; `began` is the step at which it began. -/
structure Rec where
  slot : Nat
  body : RecBody
  ord : Bool
  wdc : Option Nat
  wval : Nat
  sdc : Option Nat
  begun : Bool
  began : Nat
  status : RetSt
  went : List Nat
  gone : List Nat
  obj : Option ObjRef
  objs : List (Option ObjRef)
  deriving DecidableEq, Repr

/-- A queue slot's state (R219); `wake` is WAKE (R146); `last` the record that began last in it (R220). -/
structure QSlot where
  rbase : W64
  tail : Half
  head : Half
  log2n : Nat
  pri : Nat
  vf : Nat
  ctx : Nat
  err : Nat
  st : Nat
  wake : W64
  last : Option Nat
  deriving DecidableEq, Repr

/-- An event record (R232). -/
structure EvRec where
  pay : W64
  time : Nat
  src : W64
  code : Nat
  cls : Nat
  deriving DecidableEq, Repr

/-- A context's tables (R306, R323). -/
structure CtxTables where
  td : SMap 512
  bind : SMap 64
  bcnt : Half
  deriving DecidableEq, Repr

/-- What a context still owes at a retirement once its writes to peer pages are acknowledged (R349, R376). -/
inductive Due where
  /-- an object rises with a status -/
  | obj (o : ObjRef) (st : RetSt)
  /-- a launch whose object has risen: its tails and chain go on, or its member is done (R230) -/
  | launch (lid : Nat)
  /-- a record whose object has risen: it retires with a status (R220) -/
  | record (rid : Nat) (st : RetSt)
  deriving DecidableEq, Repr

/-- A context's queues (R147, R148, R232); `dues` is what its retirements still owe, oldest first (R349). -/
structure CtxQueues where
  trapq : List TrapRec
  pending : List TrapRec
  evq : List EvRec
  lost : W32
  dues : List Due := []
  deriving DecidableEq, Repr

/-- A context's counters (R142, R291, R314, R318, R339, R350, R351). -/
structure CtxCounts where
  grant : W32
  stall : W32
  job : W64
  ack : W32
  coll : W64
  ctr : SMap 64
  copyTl : SMap 64
  dropc : W64
  mgmt : W64
  deriving DecidableEq, Repr

/-- A context (R17); `lost` holds the logical cores whose accumulator image is marked lost (R203). -/
structure Ctx where
  vf : Nat
  world : Nat
  oid : Nat
  u : Nat
  cores : List Nat
  handler : Option HandlerKernel
  tbase : W64
  saveArea : Nat
  frontierBytes : Nat
  tabs : CtxTables
  queues : CtxQueues
  counts : CtxCounts
  lost : List Nat
  stopped : Bool
  held : Bool
  current : Bool
  deriving DecidableEq, Repr

end Sys2Proof.Machine
end

