-- ==== Sys2Proof/Machine/StateMem.lean ====
section
/-! DEFINITION. The state of memory, translation and what is in flight (R156, R159, R163, R264 to R281, R351). -/

namespace Sys2Proof.Machine

/-- Ordering kinds of a page (R163, R266). -/
inductive PageKind where
  | strong | release | loose
  deriving DecidableEq, Repr

/-- The atomic operations (R170). -/
inductive AtmOp where
  | add | min | max | and | or | xor | xchg | cas | fadd
  deriving DecidableEq, Repr

/-- A piece of an access: bytes `off` to `off + n − 1` of it, at a physical address; `tied` names the access, by its virtual address, where it lies in one page and its frames
apart (R366). -/
structure Part where
  off : Nat
  n : Nat
  pa : Nat
  space : Space
  kind : PageKind
  vpa : Nat
  world : Nat
  tied : Option Nat
  deriving DecidableEq, Repr

/-- What an access does to its bytes (R365). -/
inductive AccOp where
  | load
  | store (bytes : List Byte)
  | rmw (op : AtmOp) (ty : Ty) (data cmp : W64)
  deriving DecidableEq, Repr

/-- Where loaded bytes go: byte `off` on of an element of `size` bytes, sign-extended at the top where `sext`. -/
inductive DstReg where
  /-- a vector register (pair) of the group, by group register number, in one lane -/
  | vec (reg lane : Nat)
  /-- a scalar -/
  | scalar (n : Nat)
  /-- a hidden vector temporary in one lane (R327) -/
  | hv (k lane : Nat)
  /-- a hidden scalar temporary of a fibre slot (R327) -/
  | hs (fib k : Nat)
  deriving DecidableEq, Repr

/-- A load's destination. -/
structure Dst where
  reg : DstReg
  off : Nat
  size : Nat
  sext : Bool
  deriving DecidableEq, Repr

/-- One access of one lane in flight: issued and not yet performed, or performed with its data not yet returned (R95, R163); `pc` its
instruction's address, `micro` the micro-state that a memory micro-op issued it in (R331); `tied` to its other half in the same page (R366); `mark` the level (0 group,
1 block) of a release fence behind it that orders it for that level alone, and the step of the first (R182, R372); `left` the time at which it left
for its peer (R394). -/
structure Acc where
  gid : Nat
  pc : W64
  ctx : Nat
  lane : Nat
  seq : Nat
  space : Space
  pa : Nat
  n : Nat
  kind : PageKind
  vpa : Nat
  world : Nat
  op : AccOp
  dst : Option Dst
  val : Option (List Byte)
  micro : Option Micro
  tied : Option Nat
  mark : Option (Nat × Nat) := none
  left : Nat := 0
  deriving DecidableEq, Repr

/-- A `tex` or `tex.fetch` that is issued and may not have completed (R293): its fibre and image, its sampler word, the two coordinate registers as
they were at issue (`src`), its first destination register and its lanes. -/
structure TexDue where
  gid : Nat
  fid : Nat
  ctx : Nat
  pc : W64
  seq : Nat
  fetch : Bool
  word : Nat
  td : BitVec 512
  src : SMap 32
  rd : Nat
  lanes : List Nat
  deriving DecidableEq, Repr

/-- What is issued and not yet performed, in issue order (R153, R163, R232, R293). -/
inductive Pend where
  | acc (a : Acc)
  /-- a texture read whose results stand in its registers: until it completes it may be checked again -/
  | tex (x : TexDue)
  /-- a `sig` to a slot, or to the management core (none) -/
  | signal (gid ctx : Nat) (slot : Option Nat) (v : W64)
  /-- a `q.evt` record -/
  | event (gid ctx : Nat) (r : EvRec)
  /-- an arrival or a post at a barrier object of a block (R345): a scratchpad address of the group -/
  | barrier (gid : Nat) (addr : Nat) (post : Bool) (n : Nat)
  deriving DecidableEq, Repr

/-- A span of a cached translation (R271, R273): the spans of one page make one entry; `page` is the virtual address divided by 2 ^ `bits`, the cached span of a page of 2 ^ `pbits` bytes (DEDUCED, log 13); `base` the physical
address of the page's first byte; `vpa` its VPA. -/
structure TlbEntry where
  ctx : Nat
  page : Nat
  bits : Nat
  pbits : Nat
  base : Nat
  space : Space
  kind : PageKind
  w : Bool
  x : Bool
  world : Nat
  vpa : Nat
  deriving DecidableEq, Repr

/-- A shared-cache line (R159): `dirty` is state D, otherwise C; an absent line is I. State F, a fill under way, lasts no step (DEDUCED, log 117). -/
structure Line where
  dirty : Bool
  world : Nat
  stamp : Nat
  deriving DecidableEq, Repr

/-- The memories behind virtual addresses, what caches them and what is in flight to them. -/
structure Mem where
  loc : SMap 8
  host : SMap 8
  cache : Tbl Line
  tick : Nat
  poison : List (Nat × Nat)
  tlb : Tbl (List TlbEntry)
  walk : Tbl (List TlbEntry)
  pend : List Pend
  fab : List Acc
  deriving DecidableEq, Repr

/-- Memories with nothing listed. -/
def Mem.reset : Mem :=
  { loc := [], host := [], cache := [], tick := 0, poison := [], tlb := [], walk := [], pend := [], fab := [] }

/-- An error log entry (R384). -/
structure ErrEntry where
  addr : W64
  syn : W32
  time : Nat
  ctx : Option Nat
  vf : Nat
  inj : Bool
  kind : Nat
  core : Nat
  count : Nat
  deriving DecidableEq, Repr

/-- One array's ring of error log entries, oldest first, its LOST count (R384) and its injection register (R385); `planted` lists the words, by
address, that hold an injected error, with the bits that are wrong. -/
structure ErrRing where
  entries : List ErrEntry
  lost : Nat
  inject : BitVec 128
  planted : List (Nat × Nat) := []
  deriving DecidableEq, Repr

/-- A POT entry (R270). -/
structure PotEntry where
  vf : Nat
  state : Nat
  world : Nat
  deriving DecidableEq, Repr

/-- A frame that is paged out (R276): its world; for a protected world the bytes behind the ciphertext in the backing area, with the number that the
ciphertext was made with (DESIGN CHOICE, log 22). -/
structure Paged where
  world : Nat
  stamp : Nat
  plain : SMap 8
  deriving DecidableEq, Repr

/-- Ownership and translation tables (R269, R270): the frame map is keyed 2^37 × VF + frame, values STATE and PFN, or the place in the backing area
of a frame paged out (DESIGN CHOICE, log 22), with `paged` under the same key, and `veiled` by physical frame for a protected frame
that POT_SET gave to world 0 (R270); `age` holds the millisecond of the last access to a physical frame (R276). -/
structure Tables where
  frames : Tbl (Nat × Nat)
  pot : Tbl PotEntry
  age : Tbl Nat
  paged : Tbl Paged
  veiled : Tbl Paged
  deriving DecidableEq, Repr

end Sys2Proof.Machine
end

