-- ==== Sys2Proof/Machine/StateEng.lean ====
section
/-! DEFINITION. The engines of a core: operand slots, the Mash queue and latch, the Grist queue (R185, R186, R192, R305, R312). -/

namespace Sys2Proof.Machine

/-- The state entry of a held physical operand slot (R186), with the block that holds it; an absent slot has HELD = 0. -/
structure OpSlot where
  sealed : Bool
  world : Nat
  key : Nat
  twk : Nat
  name : Nat
  bsn : Nat
  deriving DecidableEq, Repr

/-- A physical place of bytes. -/
structure PhysRef where
  space : Space
  pa : Nat
  vpa : Nat
  deriving DecidableEq, Repr

/-- An operand of `mm` with its format image, scale mode, scale places (in the order of R30's positions that the tile touches) and the
scale groups per row (R190). -/
structure MmSide where
  os : Nat
  fmt : W32
  smode : Nat
  scales : List PhysRef
  groups : Nat
  koff : Nat
  deriving DecidableEq, Repr

/-- A matrix multiply-accumulate (R189, R194). -/
structure MmOp where
  m : Nat
  n : Nat
  cls : Nat
  za : Bool
  acc : Nat
  a : MmSide
  b : MmSide
  deriving DecidableEq, Repr

/-- An operation of the engine queue (R195, R197). `acc.put` holds the values it read, by element. -/
inductive MashKind where
  | mm (op : MmOp)
  | clr (unit n : Nat)
  | mov (dst src : Nat)
  | ld (unit : Nat) (parts : List Part)
  | st (unit : Nat) (parts : List Part)
  | put (unit : Nat) (lanes : W64) (vals : SMap 32)
  deriving DecidableEq, Repr

/-- An operation that has begun: what a running `mm` will write, its elements by number, or that a seal key was withdrawn (R200); the time it began. -/
structure MashOut where
  vals : SMap 32
  sealGone : Bool
  since : Nat
  deriving DecidableEq, Repr

/-- An accepted operation: its members (the issuer first), the context it acts for, the physical slots it reads, the copies it follows; `out`
is there once an `mm` has begun and read its operands, or an `acc.st` its unit. -/
structure MashOp where
  kind : MashKind
  members : List Nat
  ctx : Nat
  slotsA : List Nat
  slotsB : List Nat
  after : List Nat
  out : Option MashOut
  deriving DecidableEq, Repr

/-- An entry of the rendezvous latch (R192): the context; the gang set in GIDX values, rising; the members joined; the three words of the opener and
the operation they name. -/
structure LatchEntry where
  bsn : Nat
  ctx : Nat
  set : List Nat
  joined : List Nat
  op : MmOp
  word : XFmt
  ow : W64
  pw : W64
  closed : Bool
  deriving DecidableEq, Repr

/-- An accepted copy request (R312 to R319): `num` its number, `id` unique on its core; `pages` its translations; `moved` the bytes whose
elements have been performed or have left for a peer, `arrived` those counted; `waits` is true while a page-in holds it; `phys` the physical slots of a DIR 2
run; `since` the time of its acceptance, then of the last bytes it moved (R394). -/
structure CopyReq where
  id : Nat
  num : Nat
  gid : Nat
  ctx : Nat
  lcore : Nat
  pc : W64
  td : BitVec 512
  org : Nat × Nat × Nat × Nat
  ext : Nat × Nat × Nat × Nat
  laddr : Nat
  lpitch : Nat
  bar : Option Nat
  dir : Nat
  etype : Nat
  rows : List Nat
  gather : Bool
  pages : List TlbEntry
  mlo : Nat
  mhi : Nat
  lhi : Nat
  phys : List Nat
  moved : Nat
  arrived : Nat
  waits : Bool
  since : Nat := 0
  deriving DecidableEq, Repr

/-- The engine state of a physical core. `opmem` is keyed 4096 × slot + byte, `acc` 1024 × unit + element; `owner` is ACCOWN with its
logical core, `nextCopy` the next request id; `fragWait` the fibres, by group and slot, whose fragment read waits, with its unit; `fragDead` those that an
engine reset met (R115); `wantOwn` the groups whose ownership trap waits for the queue; `spad` the scratchpad's bytes by address, as the
last block that left the core left them, while none is placed (R157). -/
structure Core where
  slots : Tbl OpSlot
  opmem : SMap 8
  acc : SMap 32
  owner : Option (Nat × Nat)
  mashq : List MashOp
  latch : List LatchEntry
  kicks : List CopyReq
  nextCopy : Nat
  fragWait : List ((Nat × Nat) × Nat)
  fragDead : List (Nat × Nat)
  wantOwn : List Nat
  spad : SMap 8 := []
  deriving DecidableEq, Repr

/-- The engine state saved with a block (R199): its slots and their bytes by core index × 128 + name, its open latch entries. -/
structure SavedEng where
  slots : Tbl OpSlot
  bytes : SMap 8
  latch : List (Nat × LatchEntry)
  deriving DecidableEq, Repr

/-- A core's engines with nothing held. -/
def Core.reset : Core :=
  { slots := [], opmem := [], acc := [], owner := none, mashq := [], latch := [], kicks := [], nextCopy := 0, fragWait := [], fragDead := [],
    wantOwn := [] }

end Sys2Proof.Machine
end

