-- ==== Sys2Proof/Machine/StatePix.lean ====
section
/-! DEFINITION. The state of displays, surfaces, consent and present queues (R283 to R301). -/

namespace Sys2Proof.Machine

/-- A display (R284): `cfg` is absent before its first DISP_CFG; `pom` is keyed y × width + x (R286); `staged` POM writes in command order;
`sums` the tile summaries, keyed by tile, row-major (R286); `first` the time of the first boundary under the present timing, and `count` the boundaries
since; `sent` the frame last sent over an output's link, RGBA8 by pixel. -/
structure Display where
  cfg : Option DispArgs
  gen : Nat
  dropd : W64
  pom : SMap 16
  staged : List PomCmd
  sums : SMap 32
  first : Nat
  count : Nat
  sent : SMap 32
  deriving DecidableEq, Repr

/-- A display never configured. -/
def Display.reset : Display := { cfg := none, gen := 0, dropd := 0, pom := [], staged := [], sums := [], first := 0, count := 0, sent := [] }

/-- A registered surface with the function that registered it (R288, R304). -/
structure Surface where
  a : SurfArgs
  fn : Nat
  deriving DecidableEq, Repr

/-- A consent entry (R292) with the function that granted it. -/
structure Consent where
  a : GrantArgs
  fn : Nat
  deriving DecidableEq, Repr

/-- A present record (R300): its ring index, TGT, H (nine FP32), SEQ, WDC and WVAL, SID. -/
structure PresRec where
  idx : Half
  tgt : Nat
  h : List W32
  seq : W64
  wdc : Option Nat
  wval : Nat
  sid : Nat
  deriving DecidableEq, Repr

/-- A present queue (R300, R301): `head` the ring index of the next record to be taken, `recs` the records taken and not latched or
retired, oldest first; `last` the SEQ of the last record accepted; LAT, RPC, M and the timeline counter. -/
structure PresQ where
  a : PqArgs
  fn : Nat
  head : Half
  recs : List PresRec
  last : Option W64
  lat : Option PresRec
  rpc : Nat
  m : List W32
  tl : W64
  deriving DecidableEq, Repr

/-- The Bright Tank's tables. -/
structure Pix where
  disps : Tbl Display
  surfs : Tbl Surface
  rvals : Tbl Rgba
  cts : Tbl Consent
  pqs : Tbl PresQ
  deriving DecidableEq, Repr

/-- Empty tables. -/
def Pix.reset : Pix := { disps := [], surfs := [], rvals := [], cts := [], pqs := [] }

end Sys2Proof.Machine
end

