-- ==== Sys2Proof/Machine/StatePass.lean ====
section
/-! DEFINITION. The state of a render pass (R205 to R217, R224, R290, R299). -/

namespace Sys2Proof.Machine

/-- A draw item (R224): the descriptors of its fragment and vertex kernels with their addresses, its index buffer, triangles, depth and stencil word
and blend words. -/
structure Draw where
  fk : Desc
  fkAddr : W64
  vk : Desc
  vkAddr : W64
  ib : W64
  nprim : Nat
  ds : W32
  bl : List Half
  deriving DecidableEq, Repr

/-- An item of a pass (R224). -/
inductive PassItem where
  | draw (d : Draw)
  | disp (d : Desc) (addr : W64)
  deriving DecidableEq, Repr

/-- One sample of a lane's LAST export, not yet committed (R208, R299): the fragment's depth unless EARLY tested it, the staged planes with
their components, and the register that receives the samples that passed. -/
structure Commit where
  gid : Nat
  lane : Nat
  item : Nat
  prim : Nat
  tile : Nat
  pix : Nat
  sample : Nat
  early : Bool
  depth : W32
  planes : List (Nat × List W32)
  reg : Nat
  deriving DecidableEq, Repr

/-- What the front-end has binned of a draw (R207): the vertex indices of its primitives, in order, and the seed of its vertices' places. -/
structure Bin where
  seed : Nat
  prims : List (Nat × Nat × Nat)
  deriving DecidableEq, Repr

/-- A pass that has begun (R205, R217, R223): the four surface table entries; the items taken, in order; those whose launches have retired; what is
binned of each draw; the item at which a tile without progress of its own stands (R217); per tile the next item, primitive and quad to raster; the
tile that each logical core of the pass holds; the buffers of the tiles begun, by the tile address of R213; the tiles whose buffers lie in the spill
area, and whether the bin area has overflowed (R207); the touched pixels; per tile the pixels and planes still to store (R291); the tiles stored; the
commits due, in the order of their exports; whether an item was refused and waits for the slot's restart (R226); the words of the tile buffers with a double-bit
error, by tile and word (R158). -/
structure PassSt where
  ctx : Nat
  surf : List (BitVec 128)
  taken : List PassItem
  done : List Nat
  bins : Tbl Bin
  base : Nat
  prog : Tbl (Nat × Nat × Nat)
  cur : Tbl (Option Nat)
  bufs : Tbl (SMap 32)
  spilled : List Nat
  binFull : Bool
  touched : Tbl (SMap 8)
  storing : Tbl (List (Nat × Nat))
  stored : List Nat
  commits : List Commit
  refused : Bool
  bad : List (Nat × Nat) := []
  deriving DecidableEq, Repr

end Sys2Proof.Machine
end

