-- ==== Sys2Proof/Machine/StateSys.lean ====
section
/-! DEFINITION. The state of clusters, VFs, the mailboxes, attestation, the fabric, migration and pre-emption (R227, R233, R237, R352 to R363, R386 to R396). -/

namespace Sys2Proof.Machine

/-- A reservation of current units (R353 to R356): `want` units are not yet granted, `held` count in LEVEL; `asked` is the step it was requested
at, `full` the step at which it came to hold its whole amount; `ended` while it ramps down; `gid` the group of a vector burst. -/
structure KilnRes where
  who : KilnWho
  ctx : Nat
  gid : Nat
  want : Nat
  held : Nat
  asked : Nat
  full : Nat
  ended : Bool
  deriving DecidableEq, Repr

/-- A cluster (R233, R354, R358, R360 to R364): `kset` is a KILN_SET that waits for a step; `temp` in quarter degrees; `hot` while a temperature
throttle lasts, `hotSince` the time from which it stayed above TJ_MIG; `idleFrom` since when Milsal has seen it idle; `mhz` the FLL's target, which
it moves to from `mhzFrom`, where it stood at time `mhzAt`; `rr` the slot that the front-end last chose. -/
structure Cluster where
  cap : Nat
  deny : Bool
  ramp : List (Nat × Nat)
  res : List KilnRes
  kstep : Nat
  kset : Option (Nat × List (Nat × Nat))
  mhz : Nat
  mhzFrom : Nat
  mhzAt : Nat
  mv : Nat
  temp : Nat
  hot : Bool
  hotSince : Option Nat
  idleFrom : Option Nat
  retained : Bool
  fenced : Bool
  rr : Nat
  deriving DecidableEq, Repr

/-- A cluster after reset (R354; the FLL at 800 MHz, R19; the rest DESIGN CHOICE, log 4). -/
def Cluster.reset : Cluster :=
  { cap := 136, deny := false, ramp := List.replicate 8 (16, 8), res := [], kstep := 0, kset := none, mhz := 800, mhzFrom := 800, mhzAt := 0, mv := 0, temp := 0,
    hot := false, hotSince := none, idleFrom := none, retained := false, fenced := false, rr := 0 }

/-- A function's mailbox (R387): the holding port; `got` GOT of the last read of MBSEM; MBARG as written; `answer` the values that the last
command returned. (DESIGN CHOICE, log 8) -/
structure Mailbox where
  held : Option Nat
  busy : Bool
  viol : Bool
  tag : Half
  res : Nat
  arg : SMap 8
  answer : List W64
  got : Bool := false
  deriving DecidableEq, Repr

/-- A mailbox at reset. -/
def Mailbox.reset : Mailbox := { held := none, busy := false, viol := false, tag := 0, res := 0, arg := [], answer := [] }

/-- An SPDM response (R392): code, the two parameter bytes, and the payload's words. -/
structure SpdmResp where
  code : Byte
  param1 : Byte
  param2 : Byte
  body : List W64
  deriving DecidableEq, Repr

/-- A function's SPDM responder (R392): how far the connection is negotiated (0 nothing, 1 version, 2 capabilities, 3 algorithms), sessions
in their handshake, sessions established, and the last response. -/
structure Spdm where
  conn : Nat
  opening : List Nat
  sessions : List Nat
  resp : Option SpdmResp
  deriving DecidableEq, Repr

/-- A responder at reset. -/
def Spdm.reset : Spdm := { conn := 0, opening := [], sessions := [], resp := none }

/-- An allotted world (R392). -/
structure World where
  vf : Nat
  token : BitVec 128
  fails : Nat
  sealed : Bool
  deriving DecidableEq, Repr

/-- A collective posted and not retired (R395). -/
structure Coll where
  ctx : Nat
  a : CollArgs
  id : Nat := 0
  sent : Bool := false
  deriving DecidableEq, Repr

/-- What the PF sets for a VF, and its paging state (R227, R237, R240, R241, R275, R277); `owed` is ladder time to deduct from its next slice,
`turn` the step after which its last slice started. -/
structure VfSt where
  enabled : Bool
  qs : Nat
  qd : Nat
  cores : List Nat
  sliceNs : Nat
  drainUs : Nat
  coopClk : Nat
  preemptUs : Nat
  gf : W32
  bf : W32
  hf : W32
  back : Option (Nat × Nat)
  dirtyA : Nat
  dirtyB : Nat
  activeB : Bool
  dirtyEn : Bool
  sliceEnd : Option Nat
  owed : Nat
  turn : Nat
  timeOff : Nat
  deriving DecidableEq, Repr

/-- A VF that nothing has set; DRAIN_T, COOP_B and PREEMPT_T at their defaults (R237, R241). -/
def VfSt.reset : VfSt :=
  { enabled := false, qs := 0, qd := 0, cores := [], sliceNs := 0, drainUs := 100, coopClk := 200000, preemptUs := 50,
    gf := 0, bf := 0, hf := 0, back := none, dirtyA := 0, dirtyB := 0, activeB := false, dirtyEn := false,
    sliceEnd := none, owed := 0, turn := 0, timeOff := 0 }

/-- What goes over the fabric for a VF (R396): its settings and tables, under the numbers that the device they are on gives them, with its frames by
VPA frame; `last` its last reading of TIME; `units` the control store units it holds, and `wcs` their words. -/
structure MigImage where
  vf : Nat
  st : VfSt
  last : Nat
  ctxs : Tbl Ctx
  slots : Tbl QSlot
  recs : Tbl Rec
  launches : Tbl Launch
  blocks : Tbl Block
  groups : Tbl Group
  saves : Tbl SavedEng
  passes : Tbl PassSt
  frames : Tbl Paged
  worlds : Tbl World
  keys : Tbl (BitVec 512)
  units : List Nat
  wcs : SMap 64
  spdm : Spdm
  deriving DecidableEq, Repr

/-- A migration on its source (R396): its peer, ticket, the outcome reported, and what has been copied to the peer. -/
structure Mig where
  peer : Nat
  ticket : BitVec 128
  started : Nat
  done : Option Bool
  sent : MigImage
  deriving DecidableEq, Repr

/-- What follows when a ladder is done (R237, R240 to R243, R393, R396). -/
inductive LadderEnd where
  /-- PREEMPT -/
  | none
  /-- a VF's slice has ended; the time it ended -/
  | slice (at_ : Nat)
  /-- phase 1 of a context switch commanded by a function -/
  | switch (fn : Nat)
  /-- pre-emption by priority -/
  | prio
  /-- MIG_OUT to a peer, commanded by a function, with the frames copied so far (R396) -/
  | migrate (fn peer : Nat) (copied : Tbl Paged)
  /-- cores left the VF's set: the logical cores of the target are mapped anew -/
  | resize
  deriving DecidableEq, Repr

/-- A pre-emption ladder under way (R237): the step entered last, and when; `cores` the cores it clears, where not all. -/
structure Ladder where
  tgt : Target
  cores : Option (List Nat)
  step : Nat
  since : Nat
  next : LadderEnd
  deriving DecidableEq, Repr

/-- What the host is told through a mailbox beside the answers to its commands (R19, R149, R239, R364). -/
inductive HostNote where
  /-- a context stopped at its first record, having no handler kernel -/
  | stopped (ctx : Nat)
  /-- a context was reset by a fault during its save -/
  | reset (ctx : Nat)
  /-- a cluster was fenced -/
  | fenced (cluster : Nat)
  /-- the configuration record failed verification -/
  | unverified
  deriving DecidableEq, Repr

/-- The management core's state: `staged` and `patch` the patch staged and the active one, each with its SVN and its image (R390); `told` what each
function's mailbox has told the host, oldest first (R387 gives it no register: DESIGN CHOICE, log 122); `ended` the job counters of contexts that the passage to full service ended, which report cancelled (R19). -/
structure Sys where
  cfg : Option (List Byte)
  staged : Option (Nat × List Byte)
  patch : Option (Nat × List Byte)
  activating : Option (Nat × Nat)
  boxes : Tbl Mailbox
  spdm : Tbl Spdm
  worlds : Tbl World
  links : Tbl Nat
  colls : List Coll
  migs : Tbl Mig
  down : List Nat
  ladders : List Ladder
  unfit : Tbl (Nat × Nat)
  told : List (Nat × HostNote)
  ended : Tbl W64
  deriving DecidableEq, Repr

/-- The management core's state at reset. -/
def Sys.reset : Sys :=
  { cfg := none, staged := none, patch := none, activating := none, boxes := [], spdm := [], worlds := [], links := [], colls := [],
    migs := [], down := [], ladders := [], unfit := [], told := [], ended := [] }

end Sys2Proof.Machine
end

