-- ==== Sys2Proof/Machine/State.lean ====
section
/-! DEFINITION. The state of the whole device (R6, INVENTORY.md), its faults and refusals, and the state after reset. -/

namespace Sys2Proof.Machine

/-- Why a step stops the run. -/
inductive Fault where
  /-- raised by the meaning of an instruction of a group's stream, or of a micro-op, when no group is at issue: the step
  never executes one then. Safe. -/
  | noIssuingGroup
  deriving DecidableEq, Repr

/-- Why an instruction has no meaning. -/
inductive Refusal where
  /-- raised by an arm of `exec` for an instruction the model has no meaning for yet. Safe. -/
  | notModelled (mnemonic : String)
  deriving DecidableEq, Repr

/-- The whole device. -/
structure State where
  full : Bool
  time : Nat
  steps : Nat
  freeCtr : Nat
  agenda : List Turn
  ready : List Nat
  groups : Tbl Group
  blocks : Tbl Block
  ctxs : Tbl Ctx
  launches : Tbl Launch
  recs : Tbl Rec
  slots : Tbl QSlot
  vfs : Tbl VfSt
  claimq : Tbl (List Nat)
  mem : Mem
  tables : Tables
  errs : Tbl ErrRing
  depc : SMap 16
  depcVf : SMap 16
  nextRec : Nat
  nextBsn : Nat
  nextLaunch : Nat
  wcs : SMap 64
  wcsUnits : SMap 16
  cores : Tbl Core
  sealKeys : Tbl (BitVec 512)
  pix : Pix
  saves : Tbl SavedEng
  clusters : Tbl Cluster
  sys : Sys
  passes : Tbl PassSt
  deriving DecidableEq, Repr

/-- The machine right after device reset: reduced service (R19). -/
def State.reset : State :=
  { full := false, time := 0, steps := 0, freeCtr := 0, agenda := [], ready := [], groups := [], blocks := [], ctxs := [],
    launches := [], recs := [], slots := [], vfs := [], claimq := [], mem := Mem.reset,
    tables := { frames := [], pot := [], age := [], paged := [], veiled := [] }, errs := [], depc := [], depcVf := [],
    nextRec := 0, nextBsn := 1, nextLaunch := 0, wcs := [], wcsUnits := [], cores := [], sealKeys := [], pix := Pix.reset, saves := [],
    clusters := [], sys := Sys.reset, passes := [] }

end Sys2Proof.Machine
end

