-- ==== Sys2Proof/Machine/Mem.lean ====
section
/-! DEFINITION. Memory: bytes and words, worlds, the page walk and the TLB, the shared cache, accesses in flight (R18, R156 to R166, R264 to R274, R277). -/

namespace Sys2Proof.Machine

/-! Bytes and numbers. -/

/-- Little-endian bytes as a number (R38, R70). -/
def leNat (bs : List Byte) : Nat :=
  match bs with
  | [] => 0
  | b :: r => b.toNat + 256 * leNat r

/-- The `n` low bytes of a number, little-endian. -/
def natLE (n w : Nat) : List Byte :=
  match n with
  | 0 => []
  | n + 1 => BitVec.ofNat 8 w :: natLE n (w / 256)

/-- The canonical form of a byte memory. -/
def Memory.wf (m : SMap 8) : Bool := SMap.wf m

/-- A number read at an address. -/
def rdNat (m : SMap 8) (a n : Nat) : Nat := leNat (SMap.getList m a n)
/-- A number written at an address. -/
def wrNat (m : SMap 8) (a n w : Nat) : SMap 8 := SMap.setList m a (natLE n w)

/-! Free values. -/

/-- A fresh free number and the state after taking it (DESIGN CHOICE, log 2). -/
def freshNat (s : State) : Nat × State := (Config.freeNat s.freeCtr, { s with freeCtr := s.freeCtr + 1 })

/-! Worlds, frames and ownership. -/

/-- A context of world `cw` reaches pages of world `pw` (R18). -/
def worldOk (cw pw : Nat) : Bool := pw != 63 && cw != 63 && (pw == 0 || pw == cw)

/-- A VF's frame map entry: STATE and PFN (R269); the PF's map is the identity. -/
def frameEntry (s : State) (vf frame : Nat) : Nat × Nat :=
  if vf = 0 then (1, frame) else (Tbl.get? s.tables.frames (vf * 2 ^ 37 + frame)).getD (0, 0)

/-- The key of a VF's frame. -/
def frameKey (vf frame : Nat) : Nat := vf * 2 ^ 37 + frame
/-- The listed frames of a VF, with their entries. -/
def vfFrames (s : State) (vf : Nat) : List (Nat × (Nat × Nat)) :=
  (s.tables.frames.filter fun e => e.1 / 2 ^ 37 == vf).map fun e => (e.1 % 2 ^ 37, e.2)

/-- A physical frame's POT entry (R270); outside stack 0, which a frame across its end is, it is fenced in reduced service (R19; DESIGN CHOICE, log 114). -/
def potEntry (s : State) (pfn : Nat) : PotEntry :=
  let e := (Tbl.get? s.tables.pot pfn).getD { vf := 0, state := 0, world := 63 }
  if !s.full && Config.stack0Bytes < (pfn + 1) * 32768 then { e with state := 3 } else e

/-- The POT lets a VF and world reach a frame (R271). -/
def potOk (s : State) (vf world pfn : Nat) : Bool :=
  let p := potEntry s pfn
  p.state == 1 && p.vf == vf && worldOk world p.world

/-- FRAME of a table's VPA (R271). -/
inductive TablePa where
  | at_ (pa : Nat)
  /-- the frame is in transit or paged out -/
  | wait (frame : Nat)
  | refused
  deriving DecidableEq, Repr

/-- The physical address of a VPA of a table, checked as R271's FRAME: a frame in transit or paged out is awaited as for a page. -/
def tablePa (s : State) (c : Ctx) (vpa : Nat) : TablePa :=
  let m := frameEntry s c.vf (vpa / 32768)
  if m.1 == 2 || m.1 == 3 then .wait (vpa / 32768)
  else if m.1 == 1 && potOk s c.vf c.world m.2 then .at_ (m.2 * 32768 + vpa % 32768)
  else .refused

/-! The page walk (R265 to R271). -/

/-- The entry's V bit. -/
def pteV (e : Nat) : Bool := e % 2 == 1
/-- LEAF. -/
def pteLeaf (e : Nat) : Bool := e / 2 % 2 == 1
/-- W. -/
def pteW (e : Nat) : Bool := e / 8 % 2 == 1
/-- X. -/
def pteX (e : Nat) : Bool := e / 16 % 2 == 1
/-- TGT. -/
def pteTgt (e : Nat) : Nat := e / 32 % 4
/-- KIND. -/
def pteKind (e : Nat) : Nat := e / 128 % 4
/-- ADDR, as an address. -/
def pteAddr (e : Nat) : Nat := e % 2 ^ 52 / 512 * 512
/-- PEER. -/
def ptePeer (e : Nat) : Nat := e / 2 ^ 56 % 256

/-- Offset bits of a leaf at a level (R265). -/
def levelBits (level : Nat) : Nat :=
  match level with
  | 0 => 15
  | 1 => 21
  | 2 => 30
  | _ => 39

/-- The index of an address at a level (R265). -/
def levelIndex (va level : Nat) : Nat :=
  match level with
  | 0 => va / 2 ^ 15 % 64
  | n => va / 2 ^ levelBits n % 512

/-- A malformed valid entry (R267). -/
def malformed (e level : Nat) : Bool :=
  e / 2 ^ 52 % 16 != 0 || e / 4 % 2 != 0 ||
  (if pteLeaf e then
    (pteTgt e ≤ 1 && ptePeer e != 0) || pteKind e == 3 || pteTgt e == 3
      || pteAddr e % 2 ^ levelBits level != 0 || level == 3
   else e / 8 % 64 != 0 || ptePeer e != 0 || level == 0)

/-- What a walk answers. -/
inductive Xlat where
  | ok (e : TlbEntry)
  /-- a fault code and subcode (R272) -/
  | fault (code sub : Nat)
  /-- the frame is in transit or paged out: the access waits (R271) -/
  | wait (frame : Nat)
  deriving DecidableEq, Repr

/-- The leaf a walk reaches from a table, with its level. -/
inductive Leaf where
  | leaf (e level : Nat)
  | fault (code sub : Nat)
  /-- a table's frame is awaited -/
  | wait (frame : Nat)
  deriving DecidableEq, Repr

/-- Walk from a table at a level down (R271). -/
def walkFrom (s : State) (c : Ctx) (va t : Nat) (level : Nat) : Leaf :=
  match tablePa s c t with
  | .refused => .fault 0x024 7
  | .wait f => .wait f
  | .at_ pa =>
    let e := rdNat s.mem.loc (pa + 8 * levelIndex va level) 8
    if !pteV e then .fault 0x022 level
    else if malformed e level then .fault 0x022 5
    else if pteLeaf e then .leaf e level
    else
      match level with
      | 0 => .fault 0x022 5
      | l + 1 => walkFrom s c va (pteAddr e) l

/-- The VPA of a logical core's accumulator image: the save area holds the frontier area, then an image of U × 4 KiB for each logical core (DESIGN
CHOICE, DESIGN CHOICE, log 49). -/
def Ctx.imageVpa (c : Ctx) (lcore : Nat) : Nat := c.saveArea + (c.frontierBytes + 4095) / 4096 * 4096 + lcore * (4096 * c.u)
/-- The end of a save area. -/
def Ctx.saveEnd (c : Ctx) : Nat := c.imageVpa c.cores.length
/-- A VPA frame holds bytes of the save area of a context of a VF, which no instruction reaches (R222, R229, R253; DESIGN CHOICE, log 140). -/
def saveFrame (s : State) (vf frame : Nat) : Bool :=
  s.ctxs.any fun e => e.2.vf == vf && e.2.saveArea < e.2.saveEnd && frame * 32768 < e.2.saveEnd && e.2.saveArea < (frame + 1) * 32768

/-- The ordering kind of a code (R266). -/
def kindOf (k : Nat) : PageKind :=
  match k with
  | 0 => .strong
  | 1 => .release
  | _ => .loose

/-- Fill a translation (R271). -/
def fill (s : State) (cid : Nat) (c : Ctx) (va : Nat) (needW needX : Bool) : Xlat :=
  if 2 ^ 48 ≤ va then .fault 0x022 4
  else
    match walkFrom s c va c.tbase.toNat 3 with
    | .fault code sub => .fault code sub
    | .wait f => .wait f
    | .leaf e level =>
      if (needW && !pteW e) || (needX && !pteX e) then
        .fault 0x023 ((if needW then 1 else 0) + (if needX then 2 else 0))
      else
        let pb := levelBits level
        let addr := pteAddr e + va % 2 ^ pb
        let ent : TlbEntry :=
          { ctx := cid, page := va / 2 ^ pb, bits := pb, pbits := pb, base := pteAddr e, space := .host,
            kind := kindOf (pteKind e), w := pteW e, x := pteX e, world := 0, vpa := pteAddr e }
        match pteTgt e with
        | 0 =>
          let m := frameEntry s c.vf (addr / 32768)
          if m.1 == 2 || m.1 == 3 then .wait (addr / 32768)
          else if m.1 == 0 then .fault 0x022 6
          else if !potOk s c.vf c.world m.2 || saveFrame s c.vf (addr / 32768) then .fault 0x024 0
          else .ok { ent with page := va / 32768, bits := 15, base := m.2 * 32768, space := .loc,
                              world := (potEntry s m.2).world, vpa := addr / 32768 * 32768 }
        | 1 => .ok ent
        | _ =>
          if Config.peerRefuses (ptePeer e) addr c.world s.freeCtr then .fault 0x024 0
          else .ok { ent with space := .peer (ptePeer e) }

/-- An entry translates an address of a context. -/
def TlbEntry.hits (e : TlbEntry) (cid va : Nat) : Bool := e.ctx == cid && e.page == va / 2 ^ e.bits

/-- The first entry of a list that hits. -/
def tlbFind (l : List TlbEntry) (cid va : Nat) : Option TlbEntry :=
  match l with
  | [] => none
  | e :: r => if e.hits cid va then some e else tlbFind r cid va

/-- The number of the page that a span belongs to. -/
def TlbEntry.pageNo (e : TlbEntry) : Nat := e.page * 2 ^ e.bits / 2 ^ e.pbits
/-- Two spans are of one page of a context, and so of one TLB entry (R273). -/
def TlbEntry.samePage (a b : TlbEntry) : Bool := a.ctx == b.ctx && a.pbits == b.pbits && a.pageNo == b.pageNo

/-- Put a span first in a TLB of a number of sets and ways, most recently used first: the spans of a page are one entry, and where its set is full
the least recently used page of the set goes whole (R273). Which set a page takes is not given (DESIGN CHOICE, log 116). -/
def tlbPut (l : List TlbEntry) (e : TlbEntry) (sets ways : Nat) : List TlbEntry :=
  let mine := l.filter fun x => x.samePage e && x != e
  let rest := l.filter fun x => !x.samePage e
  let pages := (rest.filter fun x => x.pageNo % sets == e.pageNo % sets).foldl
    (fun (a : List TlbEntry) x => if a.any x.samePage then a else a ++ [x]) []
  e :: mine ++ (if pages.length < ways then rest else
    match pages.getLast? with | some v => rest.filter fun x => !x.samePage v | none => rest)

/-- Entries of a core's TLB. -/
def tlbOf (s : State) (core : Nat) : List TlbEntry := (Tbl.get? s.mem.tlb core).getD []

/-- The state with an entry most recent in a core's TLB. -/
def tlbUse (s : State) (core : Nat) (e : TlbEntry) : State :=
  { s with mem := { s.mem with tlb := Tbl.set s.mem.tlb core (tlbPut (tlbOf s core) e 256 8) } }

/-- The frames of a surface's VF that it covers, first and one past the last (R288). -/
def surfFrames (a : SurfArgs) : Nat × Nat := (a.base / 32768, (a.base + a.pitch * a.h + 32767) / 32768)

/-- A surface's frames hold a physical frame (R289): the VF's frame that does. -/
def surfHolds (s : State) (a : SurfArgs) (pfn : Nat) : Option Nat :=
  let r := surfFrames a
  ((List.range (r.2 - r.1)).map fun i => r.1 + i).find? fun f => frameEntry s a.vf f == (1, pfn)

/-- The surface whose frames hold a physical frame, with the frame. -/
def surfOf (s : State) (pfn : Nat) : Option (Nat × Surface × Nat) :=
  s.pix.surfs.findSome? fun e => (surfHolds s e.2.a pfn).map fun f => (e.1, e.2, f)

/-- A physical address lies in a frame of an output surface, which only the Bright Tank writes (R288). -/
def outputFrame (s : State) (pa : Nat) : Bool := match surfOf s (pa / 32768) with | some (_, sf, _) => sf.a.kind == 3 | none => false

/-- A lane or Grist access of a context to a translation's frame is refused: a surface of another owner, or an output surface (R289). (DEDUCED, log 53) -/
def surfRefuses (s : State) (c : Ctx) (e : TlbEntry) : Bool :=
  e.space == .loc &&
    (match surfOf s (e.base / 32768) with
     | some (_, sf, _) => sf.a.kind == 3 || sf.a.oid != c.oid
     | none => false)

/-- Translate through a core's TLB (R273): a hit checks only the permission it holds. Fetches and the texture path stop here. -/
def translateRaw (s : State) (core cid : Nat) (c : Ctx) (va : Nat) (needW needX : Bool) : Xlat × State :=
  match tlbFind (tlbOf s core) cid va with
  | some e =>
    if (needW && !e.w) || (needX && !e.x) then
      (.fault 0x023 ((if needW then 1 else 0) + (if needX then 2 else 0)), s)
    else (.ok e, tlbUse s core e)
  | none =>
    match fill s cid c va needW needX with
    | .ok e => (.ok e, tlbUse s core e)
    | x => (x, s)

/-- Translate for a lane or an engine: surfaces of other owners are refused (R289). -/
def translate (s : State) (core cid : Nat) (c : Ctx) (va : Nat) (needW needX : Bool) : Xlat × State :=
  match translateRaw s core cid c va needW needX with
  | (.ok e, s) => if !needX && surfRefuses s c e then (.fault 0x024 8, s) else (.ok e, s)
  | x => x

/-! The shared cache (R159). -/

/-- The line of a physical address. -/
def lineOf (pa : Nat) : Nat := pa / 128

/-- Least recently used of the lines of a set, with how many there are. -/
def setVictim (c : Tbl Line) (line : Nat) : Nat × Option (Nat × Line) :=
  c.foldl (fun a e =>
    if e.1 % 49152 == line % 49152 then
      (a.1 + 1, match a.2 with | none => some e | some v => if e.2.stamp < v.2.stamp then some e else some v)
    else a) (0, none)

/-- An access moves a line to C or D, evicting the least recently used of 16 ways (R159). -/
def touchLine (m : Mem) (line world : Nat) (write : Bool) : Mem :=
  let m := { m with tick := m.tick + 1 }
  match Tbl.get? m.cache line with
  | some l => { m with cache := Tbl.set m.cache line { l with dirty := l.dirty || write, stamp := m.tick } }
  | none =>
    let v := setVictim m.cache line
    let c := match v with | (n, some w) => if 16 ≤ n then Tbl.erase m.cache w.1 else m.cache | (_, none) => m.cache
    { m with cache := Tbl.set c line { dirty := write, world := world, stamp := m.tick } }

/-- The lines an access touches. -/
def touchAcc (m : Mem) (pa n world : Nat) (write : Bool) : Mem :=
  let m := touchLine m (lineOf pa) world write
  if lineOf (pa + n - 1) = lineOf pa then m else touchLine m (lineOf (pa + n - 1)) world write

/-- The lines of a physical frame are written back: D becomes C (R159). -/
def cleanLines (m : Mem) (pfn : Nat) : Mem :=
  { m with cache := m.cache.map fun e => if e.1 / 256 == pfn then (e.1, { e.2 with dirty := false }) else e }

/-- The lines of a physical frame leave the cache, written back before (R159). -/
def dropLines (m : Mem) (pfn : Nat) : Mem :=
  let m := cleanLines m pfn
  { m with cache := m.cache.filter fun e => e.1 / 256 != pfn }

/-- An access to local memory: its lines, and the access age of its frames in milliseconds (R159, R276). -/
def touchLoc (s : State) (pa n world : Nat) (write : Bool) : State :=
  let age := fun (t : Tbl Nat) (a : Nat) => Tbl.set t (a / 32768) (s.time / 1000000)
  { s with mem := touchAcc s.mem pa n world write, tables := { s.tables with age := age (age s.tables.age pa) (pa + n - 1) } }

/-- An engine's access to `n` bytes of local memory: every line of them, and the age of their frames (R8, R159, R276). -/
def touchRange (s : State) (pa n world : Nat) (write : Bool) : State :=
  if n = 0 then s
  else (List.range (lineOf (pa + n - 1) + 1 - lineOf pa)).foldl (fun s i => touchLoc s (max pa ((lineOf pa + i) * 128)) 1 world write) s

/-- A cached line's world refuses a context (R159). -/
def lineRefuses (m : Mem) (cw pa n : Nat) : Bool :=
  let bad := fun l => match Tbl.get? m.cache l with | some x => !worldOk cw x.world | none => false
  bad (lineOf pa) || bad (lineOf (pa + n - 1))

/-- The array id of a poisoned line that an access reads (R158, R383). -/
def poisonOf (m : Mem) (pa n : Nat) : Option Nat :=
  (m.poison.find? fun p => p.1 == lineOf pa || p.1 == lineOf (pa + n - 1)).map (·.2)

/-! One access of one lane. -/

/-- What the checks of an access answer (R164). -/
inductive Checked (α : Type) where
  | ok (x : α)
  /-- a fault code, subcode and TRAPADDR -/
  | fault (code sub addr : Nat)
  /-- the access waits for a page-in -/
  | wait
  deriving DecidableEq, Repr

/-- The first bytes of an access that one cached translation covers. -/
def partOf (e : TlbEntry) (va off n : Nat) : Part :=
  let room := 2 ^ e.bits - va % 2 ^ e.bits
  { off := off, n := min n room, pa := e.base + va % 2 ^ e.bits, space := e.space, kind := e.kind,
    vpa := e.vpa + va % 2 ^ e.bits, world := e.world, tied := none }

/-- Translate an access of `n` bytes, at most 8, by a translation of one byte: one part, or two where it crosses (R162). -/
def accessBy (tr : State → Nat → Xlat × State) (s : State) (va n : Nat) : Checked (List Part) × State :=
  match tr s va with
  | (.fault code sub, s) => (.fault code sub va, s)
  | (.wait _, s) => (.wait, s)
  | (.ok e, s) =>
    let p := partOf e va 0 n
    if p.n = n then (.ok [p], s)
    else
      let va2 := (va + p.n) % 2 ^ 64
      match tr s va2 with
      | (.fault code sub, s) => (.fault code sub va2, s)
      | (.wait _, s) => (.wait, s)
      | (.ok e2, s) =>
        let q := partOf e2 va2 p.n (n - p.n)
        if va / 2 ^ e.pbits == va2 / 2 ^ e.pbits then
          if q.pa == p.pa + p.n && q.space == p.space then (.ok [{ p with n := n }], s)
          else (.ok [{ p with tied := some va }, { q with tied := some va }], s)
        else (.ok [p, q], s)

/-- Translate an access of a context on a core. -/
def accessParts (s : State) (core cid : Nat) (c : Ctx) (va n : Nat) (needW : Bool) : Checked (List Part) × State :=
  accessBy (fun s va => translate s core cid c va needW false) s va n

/-- An array's ring. -/
def ringOf (s : State) (array : Nat) : ErrRing := (Tbl.get? s.errs array).getD { entries := [], lost := 0, inject := 0 }

/-- The words of an array of memory with an injected error of a number of bits that bytes reach (R385). -/
def plantedIn (s : State) (array bits pa n : Nat) : List Nat :=
  ((ringOf s array).planted.filter fun e => e.2 == bits && pa < e.1 + 8 && e.1 < pa + n).map (·.1)

/-- The array whose uncorrectable error a read of local memory meets: a poisoned line, or an injected error of two bits (R158, R159, R383, R385). -/
def errorOf (s : State) (pa n : Nat) : Option Nat :=
  match poisonOf s.mem pa n with
  | some a => some a
  | none => [0, 1].find? fun a => !(plantedIn s a 2 pa n).isEmpty

/-- The checks after translation: the lines' worlds, then errors for a reader (R159, R164). -/
def partsFault (s : State) (c : Ctx) (va : Nat) (reads : Bool) (ps : List Part) : Option (Nat × Nat × Nat) :=
  match ps.find? fun p => p.space == .loc && lineRefuses s.mem c.world p.pa p.n with
  | some p => some (0x024, 0, (va + p.off) % 2 ^ 64)
  | none =>
    ps.findSome? fun p =>
      (if p.space == .loc && reads then errorOf s p.pa p.n else none).map fun a => (0x025, a, (va + p.off) % 2 ^ 64)

/-- Every check of an access in virtual memory (R164): translation, worlds, errors. -/
def checkVirtual (s : State) (core cid : Nat) (c : Ctx) (va n : Nat) (reads writes : Bool) : Checked (List Part) × State :=
  match accessParts s core cid c va n writes with
  | (.ok ps, s) =>
    match partsFault s c va reads ps with
    | some f => (.fault f.1 f.2.1 f.2.2, s)
    | none => (.ok ps, s)
  | r => r

/-! The error log (R384). -/

/-- Log an error (R384): merged into the newest entry where it repeats it within 1 ms; the oldest of 64 is replaced. -/
def logErr (s : State) (array : Nat) (e : ErrEntry) : State :=
  let r := ringOf s array
  let r' :=
    match r.entries.getLast? with
    | some l =>
      if l.addr == e.addr && l.syn == e.syn && l.kind == e.kind && e.time ≤ l.time + 1000000 then
        { r with entries := r.entries.dropLast ++ [{ l with count := min 255 (l.count + 1) }] }
      else if 64 ≤ r.entries.length then { r with entries := r.entries.drop 1 ++ [e], lost := r.lost + 1 }
      else { r with entries := r.entries ++ [e] }
    | none => { r with entries := [e] }
  { s with errs := Tbl.set s.errs array r' }

/-! Rechecks at the memory controller (R274). -/

/-- Bytes at a physical address fixed earlier still belong to the VF and a permitted world of a context. -/
def recheckOk (s : State) (cid : Nat) (sp : Space) (pa n : Nat) : Bool :=
  match sp, Tbl.get? s.ctxs cid with
  | .loc, some c => potOk s c.vf c.world (pa / 32768) && potOk s c.vf c.world ((pa + n - 1) / 32768)
  | .loc, none => false
  | _, _ => true

/-- The event that R274 logs. -/
def logDrop (s : State) (cid : Nat) (pa : Nat) : State :=
  logErr s 1 { addr := BitVec.ofNat 64 pa, syn := 0, time := s.time, ctx := some cid,
               vf := (match Tbl.get? s.ctxs cid with | some c => c.vf | none => 0), inj := false, kind := 4, core := 0, count := 1 }

/-! Performing accesses (R163, R170, R277, R351). -/

/-- The state of a VF. -/
def vfOf (s : State) (vf : Nat) : VfSt := (Tbl.get? s.vfs vf).getD VfSt.reset

/-- The state with a VF changed. -/
def setVf (s : State) (vf : Nat) (f : VfSt → VfSt) : State := { s with vfs := Tbl.set s.vfs vf (f (vfOf s vf)) }

/-- Set one dirty bit in the ACTIVE bitmap (R277). -/
def dirtyBit (s : State) (vf vpa : Nat) : State :=
  let v := vfOf s vf
  if !v.dirtyEn then s
  else
    let n := vpa / 65536
    let a := (if v.activeB then v.dirtyB else v.dirtyA) + n / 8
    { s with mem := { s.mem with loc := SMap.set s.mem.loc a (SMap.get s.mem.loc a ||| BitVec.ofNat 8 (2 ^ (n % 8))) } }

/-- The dirty bits of a write of `n` bytes. -/
def dirtyAcc (s : State) (vf vpa n : Nat) : State :=
  let s := dirtyBit s vf vpa
  if (vpa + n - 1) / 65536 = vpa / 65536 then s else dirtyBit s vf (vpa + n - 1)

/-- The bytes at a physical address of local or host memory; a peer's memory is not the device's (DESIGN CHOICE, log 2). -/
def readPhys (m : Mem) (sp : Space) (pa n : Nat) : List Byte :=
  match sp with
  | .loc => SMap.getList m.loc pa n
  | .host => SMap.getList m.host pa n
  | .peer p => (List.range n).map fun i => Config.peerByte p (pa + i) m.tick

/-- Write bytes at a physical address of local or host memory. -/
def writePhys (m : Mem) (sp : Space) (pa : Nat) (bs : List Byte) : Mem :=
  match sp with
  | .loc => { m with loc := SMap.setList m.loc pa bs }
  | .host => { m with host := SMap.setList m.host pa bs }
  | .peer _ => m

/-- The new value of an atomic (R170). -/
def atmNew (op : AtmOp) (ty : Ty) (old data cmp : Nat) : Nat :=
  let n := ty.width
  let sx := fun (x : Nat) => if ty.signed && 2 ^ (n - 1) ≤ x then (x : Int) - 2 ^ n else (x : Int)
  match op with
  | .add => (old + data) % 2 ^ n
  | .min => if sx data < sx old then data else old
  | .max => if sx old < sx data then data else old
  | .and => old &&& data
  | .or => old ||| data
  | .xor => old ^^^ data
  | .xchg => data
  | .cas => if old = cmp then data else old
  | .fadd => (fmtOf ty).add .rne old data

/-- The entry of an injected error that a context's access has met in a word (R384, R385). -/
def injEntry (s : State) (cid : Nat) (word kind : Nat) : ErrEntry :=
  { addr := BitVec.ofNat 64 word, syn := BitVec.ofNat 32 (freshNat s).1, time := s.time, ctx := some cid,
    vf := (match Tbl.get? s.ctxs cid with | some c => c.vf | none => 0), inj := true, kind := kind, core := 0, count := 1 }

/-- A word that holds an injected error, listed once. -/
def plantOnce (l : List (Nat × Nat)) (a mode : Nat) : List (Nat × Nat) := l.filter (fun e => e.1 != a) ++ [(a, mode)]

/-- One of the writes that an injection register corrupts is over: REP falls, and at its last the register disarms (R385). -/
def injectDown (r : ErrRing) : ErrRing :=
  let w := r.inject.toNat
  { r with inject := BitVec.ofNat 128 (if w / 2 ^ 40 % 256 = 1 then w - w / 2 ^ 48 % 4 * 2 ^ 48 - 2 ^ 40 else w - 2 ^ 40) }

/-- Log injected errors in words of an array of memory. -/
def logInj (s : State) (cid array kind : Nat) (l : List Nat) : State :=
  l.foldl (fun s w => logErr (freshNat s).2 array (injEntry s cid w kind)) s

/-- A write to memory: an injected error goes where its word is overwritten whole; the next writes to an armed word store the flipped bits, and the
register then disarms (R385). (DEDUCED, log 91) -/
def injectWrite (s : State) (arr pa n : Nat) : State :=
  match Tbl.get? s.errs arr with
  | none => s
  | some r =>
    let w := r.inject.toNat
    let a := w / 2 ^ 64 / 8 * 8
    let mode := w / 2 ^ 48 % 4
    let rep := w / 2 ^ 40 % 256
    let kept := r.planted.filter fun e => !(pa ≤ e.1 && e.1 + 8 ≤ pa + n)
    if mode = 0 || rep = 0 || pa + n ≤ a || a + 8 ≤ pa then { s with errs := Tbl.set s.errs arr { r with planted := kept } }
    else { s with errs := Tbl.set s.errs arr (injectDown { r with planted := plantOnce kept a mode }) }

/-- Injected errors of one bit in an array of memory that a read meets are corrected, in the array too, and logged (R383, R385). -/
def correctIn (s : State) (cid array pa n : Nat) : State :=
  let l := plantedIn s array 1 pa n
  if l.isEmpty then s
  else
    let r := ringOf s array
    logInj { s with errs := Tbl.set s.errs array { r with planted := r.planted.filter fun e => !(e.2 == 1 && l.contains e.1) } } cid array 0 l

/-- A read of local memory by a context: cache lines, access age, injected errors of one bit (R159, R276, R385). -/
def readLoc (s : State) (cid pa n world : Nat) : State := touchLoc (correctIn (correctIn s cid 0 pa n) cid 1 pa n) pa n world false

/-- Bytes of local memory are written: cache lines, injected errors, dirty bits (R159, R277, R385). -/
def writeLoc (s : State) (vf pa vpa world : Nat) (bs : List Byte) : State :=
  let n := bs.length
  let s := touchLoc s pa n world true
  dirtyAcc (injectWrite (injectWrite { s with mem := writePhys s.mem .loc pa bs } 0 pa n) 1 pa n) vf vpa n

/-- Write bytes of local or host memory for a context; dropped and logged where R274 refuses. -/
def writeFor (s : State) (cid : Nat) (sp : Space) (pa vpa : Nat) (bs : List Byte) : State :=
  if !recheckOk s cid sp pa bs.length then logDrop s cid pa
  else
    match sp, Tbl.get? s.ctxs cid with
    | .loc, some c => writeLoc s c.vf pa vpa (potEntry s (pa / 32768)).world bs
    | _, _ => { s with mem := writePhys s.mem sp pa bs }

/-- Read bytes of local or host memory for a context; zeros, logged, where R274 refuses. -/
def readFor (s : State) (cid : Nat) (sp : Space) (pa n : Nat) : List Byte × State :=
  if !recheckOk s cid sp pa n then (List.replicate n 0, logDrop s cid pa)
  else (readPhys s.mem sp pa n, if sp == .loc then readLoc s cid pa n (potEntry s (pa / 32768)).world else s)

/-- The access writes. -/
def Acc.writes (a : Acc) : Bool := match a.op with | .load => false | _ => true

/-- Perform an access of local or host memory: the state after, and the bytes it read. A write to a frame that the POT no longer lets its context
reach is dropped and logged (R274). -/
def performAcc (s : State) (a : Acc) : State × List Byte :=
  let old := readPhys s.mem a.space a.pa a.n
  if a.writes && !recheckOk s a.ctx a.space a.pa a.n then (logDrop s a.ctx a.pa, List.replicate a.n 0)
  else
    let vf := match Tbl.get? s.ctxs a.ctx with | some c => c.vf | none => 0
    let wr := fun (bs : List Byte) =>
      if a.space == .loc then writeLoc s vf a.pa a.vpa a.world bs else { s with mem := writePhys s.mem a.space a.pa bs }
    match a.op with
    | .load => (if a.space == .loc then readLoc s a.ctx a.pa a.n a.world else s, old)
    | .store bs => (wr bs, [])
    | .rmw op ty data cmp =>
      (wr (natLE a.n (atmNew op ty (leNat old) (data.toNat % 2 ^ ty.width) (cmp.toNat % 2 ^ ty.width))), old)

/-- The access reads. -/
def Acc.reads (a : Acc) : Bool := match a.op with | .store _ => false | _ => true
/-- The access targets a peer device. -/
def Acc.isPeer (a : Acc) : Bool := match a.space with | .peer _ => true | _ => false
/-- Two accesses share a byte. -/
def Acc.overlaps (a b : Acc) : Bool := a.space == b.space && a.pa < b.pa + b.n && b.pa < a.pa + a.n

/-- Two accesses are of one instruction: the halves of a straddling access, or lanes (R162, R163). -/
def Acc.together (a b : Acc) : Bool := a.gid == b.gid && a.seq == b.seq

/-- The kinds of the pages of two accesses of a lane order them (R371, R372): strong pages, and the release pages of local memory, whose pairs are
ordered below the system level alone (R367). -/
def Acc.kindsOrder (e l : Acc) : Bool :=
  (e.kind == .strong && l.kind == .strong)
    || (e.kind == .release && l.kind == .release && e.space == .loc && l.space == .loc && (l.writes || e.reads))

/-- The lane number of an access that is no lane's: a store of `acc.st`, in the order of every lane of its group (DESIGN CHOICE, log 119). -/
def groupLane : Nat := 64
/-- Two accesses of a group are of one lane, or one of them is of every lane. -/
def Acc.laneMeets (a b : Acc) : Bool := a.lane == b.lane || a.lane == groupLane || b.lane == groupLane

/-- The earlier access must be performed before the later one (R163, R166, R366, R369 to R373): a shared byte, of one lane or one instruction; the
pages' kinds, of one lane. (DESIGN CHOICE, log 7) -/
def Acc.before (e l : Acc) : Bool :=
  e.gid == l.gid && e.val.isNone &&
  (((e.laneMeets l || e.together l) && e.overlaps l) || (e.laneMeets l && !e.together l && e.kindsOrder l))

/-- A texture read as accesses, one for each of its four destination registers: reads, of no byte that an access names (R95). -/
def TexDue.reads (x : TexDue) : List Acc :=
  (List.range 4).map fun c =>
    { gid := x.gid, pc := x.pc, ctx := x.ctx, lane := groupLane, seq := x.seq, space := .loc, pa := 2 ^ 64, n := 0, kind := .loose, vpa := 2 ^ 64,
      world := 0, op := .load, dst := some { reg := .vec (x.rd + c) 0, off := 0, size := 4, sext := false }, val := none, micro := none, tied := none }

/-- No earlier entry of the list has to be performed first: a texture read of the group completes before what the group issued behind it (DESIGN CHOICE,
DESIGN CHOICE, log 157). -/
def free (earlier : List Pend) (a : Acc) : Bool :=
  earlier.all fun p => match p with | .acc e => !e.before a | .tex x => x.gid != a.gid | _ => true

/-- Replace byte `i` of a number. -/
def putByte (x i : Nat) (b : Byte) : Nat := x - x / 256 ^ i % 256 * 256 ^ i + b.toNat * 256 ^ i

/-- Replace bytes from `i` on. -/
def putBytes (x i : Nat) (bs : List Byte) : Nat :=
  match bs with
  | [] => x
  | b :: r => putBytes (putByte x i b) (i + 1) r

/-- Put a lane's element of a group register. -/
def setVreg (g : Group) (reg lane : Nat) (v : W32) : Group :=
  { g with regs := { g.regs with vreg := SMap.set g.regs.vreg (reg * 64 + lane) v } }
/-- A lane's element of a group register. -/
def getVreg (g : Group) (reg lane : Nat) : W32 := SMap.get g.regs.vreg (reg * 64 + lane)
/-- Put a scalar. -/
def setSreg (g : Group) (n : Nat) (v : W64) : Group := { g with regs := { g.regs with sreg := SMap.set g.regs.sreg n v } }
/-- A scalar. -/
def getSreg (g : Group) (n : Nat) : W64 := SMap.get g.regs.sreg n
/-- A hidden vector temporary in a lane (R331). -/
def getHv (g : Group) (k lane : Nat) : W64 := SMap.get g.regs.hv (k * 64 + lane)
/-- Put one. -/
def setHv (g : Group) (k lane : Nat) (v : W64) : Group := { g with regs := { g.regs with hv := SMap.set g.regs.hv (k * 64 + lane) v } }

/-- A loaded element extended above its size. -/
def extendElem (size : Nat) (sx : Bool) (x : Nat) : Nat :=
  let v := x % 256 ^ size
  if sx && 2 ^ (8 * size - 1) ≤ v then v + (2 ^ 64 - 256 ^ size) else v

/-- Write bytes read into their place of a destination (R166). -/
def writeDst (g : Group) (d : Dst) (bs : List Byte) : Group :=
  let upd := fun (old : Nat) => extendElem d.size d.sext (putBytes (old % 256 ^ d.size) d.off bs)
  match d.reg with
  | .vec reg lane =>
    if d.size = 8 then
      let x := upd ((getVreg g reg lane).toNat + (getVreg g (reg + 1) lane).toNat * 2 ^ 32)
      setVreg (setVreg g reg lane (BitVec.ofNat 32 x)) (reg + 1) lane (BitVec.ofNat 32 (x / 2 ^ 32))
    else setVreg g reg lane (BitVec.ofNat 32 (upd (getVreg g reg lane).toNat))
  | .scalar n => setSreg g n (BitVec.ofNat 64 (upd (getSreg g n).toNat))
  | .hv k lane => setHv g k lane (BitVec.ofNat 64 (upd (getHv g k lane).toNat))
  | .hs fib k =>
    { g with fibres := Tbl.modify g.fibres fib fun f =>
        { f with hs := SMap.set f.hs k (BitVec.ofNat 64 (upd (SMap.get f.hs k).toNat)) } }

/-- Return data to a group's register. -/
def returnData (s : State) (gid : Nat) (d : Option Dst) (bs : List Byte) : State :=
  match d with
  | none => s
  | some d => { s with groups := Tbl.modify s.groups gid fun g => writeDst g d bs }

/-- Change a context. -/
def modCtx (s : State) (cid : Nat) (f : Ctx → Ctx) : State := { s with ctxs := Tbl.modify s.ctxs cid f }

/-- Change a context's counters. -/
def modCounts (s : State) (cid : Nat) (f : CtxCounts → CtxCounts) : State :=
  modCtx s cid fun c => { c with counts := f c.counts }

/-- Send an access to its peer (R351): a write raises the outstanding-acknowledgement counter. -/
def sendPeer (s : State) (a : Acc) : State :=
  let s := { s with mem := { s.mem with fab := s.mem.fab ++ [{ a with left := s.time }] } }
  if a.writes then modCounts s a.ctx fun k => { k with ack := k.ack + 1 } else s

/-- A context's acknowledgement counter has room for `n` more writes to peer pages beside those still to leave (R351). -/
def ackRoom (s : State) (cid n : Nat) : Bool :=
  let held := (s.mem.pend.filter fun p => match p with | .acc a => a.ctx == cid && a.writes && a.isPeer && a.val.isNone | _ => false).length
  match Tbl.get? s.ctxs cid with
  | some c => c.counts.ack.toNat + held + n < 2 ^ 32
  | none => true

/-- A peer access may leave: nothing of its context that it must follow is unacknowledged, and the counter does not overflow
(R351, R371, R376). -/
def peerMayLeave (s : State) (a : Acc) : Bool :=
  !(s.mem.fab.any fun e => e.ctx == a.ctx && ((e.writes && e.overlaps a)
      || (e.gid == a.gid && e.laneMeets a && e.kind == .strong && a.kind == .strong)))
  && (!a.writes || (match Tbl.get? s.ctxs a.ctx with | some c => c.counts.ack != BitVec.allOnes 32 | none => true))

/-- Take entry `k` out of what is in flight. -/
def dropPend (s : State) (k : Nat) : State := { s with mem := { s.mem with pend := removeAt s.mem.pend k } }

/-- Finish an access: perform it and return its data at once (R95). -/
def finishAcc (s : State) (a : Acc) : State :=
  match a.val with
  | some bs => returnData s a.gid a.dst bs
  | none =>
    let r := performAcc s a
    returnData r.1 a.gid a.dst r.2

/-- The block that a group's number names. -/
def bsnOf (gid : Nat) : Nat := gid / 256

/-- An access that a release fence orders for its group or block alone must be performed before one of that group or block that shares a byte with it
and that the same or an older fence does not order as well (R182, R372, R377; DEDUCED, log 15). -/
def Acc.markedBefore (e a : Acc) : Bool :=
  match e.mark with
  | none => false
  | some (level, step) =>
    e.val.isNone && e.overlaps a && (if level = 0 then e.gid == a.gid else bsnOf e.gid == bsnOf a.gid)
      && (match a.mark with | none => true | some (_, t) => step < t)

/-- No access of a list that a fence has marked must be performed first. -/
def unmarked (l : List Pend) (a : Acc) : Bool := l.all fun p => match p with | .acc e => !e.markedBefore a | _ => true

/-- A transaction of a context at an address, lost, is logged against array 15 (R384). -/
def logLostAt (s : State) (cid pa : Nat) : State :=
  logErr s 15 { addr := BitVec.ofNat 64 pa, syn := 0, time := s.time, ctx := some cid,
                vf := (match Tbl.get? s.ctxs cid with | some c => c.vf | none => 0), inj := false, kind := 6, core := 0, count := 1 }
/-- An access lost is logged. -/
def logLost (s : State) (a : Acc) : State := logLostAt s a.ctx a.pa

/-- An access may be performed now: nothing it must follow is kept back or on the fabric, a peer access may leave, and host memory is reached
through a port (R163, R351, R393). -/
def mayPerform (s : State) (kept : List Pend) (a : Acc) : Bool :=
  a.val.isSome || ((a.space != .host || s.sys.down.length < 2) && free kept a && unmarked s.mem.pend a && s.mem.fab.all (fun e => !e.before a)
    && (!a.isPeer || peerMayLeave s a))

/-- Two accesses are the halves of one that lies in one page, whose bytes no read sees apart (R366). -/
def Acc.halves (a b : Acc) : Bool := a.tied.isSome && a.tied == b.tied && a.together b && a.lane == b.lane && a != b

/-- No entry of a list is the other half of an access, or that half may go with it. -/
def withHalf (l : List Pend) (a : Acc) (p : Acc → Bool) : Bool :=
  l.all fun q => match q with | .acc b => !a.halves b || p b | _ => true

/-- Finish, in order, every access in a list that `p` chooses and that may be performed; peer accesses leave for the fabric,
others stay. A texture read completes with the results it has. -/
def settleList (p : Acc → Bool) (l : List Pend) (s : State) : State :=
  match l with
  | [] => s
  | .acc a :: r =>
    if p a && mayPerform s s.mem.pend a && (a.val.isSome || unmarked r a) && withHalf s.mem.pend a (fun _ => false)
        && withHalf r a (fun b => p b && mayPerform s s.mem.pend b) then
      settleList p r (if a.isPeer && a.val.isNone then sendPeer s a else finishAcc s a)
    else settleList p r { s with mem := { s.mem with pend := s.mem.pend ++ [.acc a] } }
  | .tex x :: r => settleList p r (if x.reads.any p then s else { s with mem := { s.mem with pend := s.mem.pend ++ [.tex x] } })
  | q :: r => settleList p r { s with mem := { s.mem with pend := s.mem.pend ++ [q] } }

/-- Finish every access in flight that `p` chooses. -/
def settle (s : State) (p : Acc → Bool) : State :=
  settleList p s.mem.pend { s with mem := { s.mem with pend := [] } }

/-- Finish every access of a group. -/
def drainGroup (s : State) (gid : Nat) : State := settle s fun a => a.gid == gid

/-- Some access in flight, here or on the fabric, satisfies a test. -/
def inFlight (s : State) (p : Acc → Bool) : Bool :=
  s.mem.fab.any p || s.mem.pend.any (fun q => match q with | .acc a => p a | .tex x => x.reads.any p | _ => false)

/-- A group still waits on the fabric. -/
def groupOnFabric (s : State) (gid : Nat) : Bool := s.mem.fab.any fun a => a.gid == gid

/-- Some access in flight is ordered by a fence for its block alone, or for its group alone (R182). -/
def blockMarked (s : State) (gid : Nat) : Bool :=
  s.mem.pend.any fun p => match p with
    | .acc e => e.val.isNone && (match e.mark with | some (level, _) => if level = 0 then e.gid == gid else bsnOf e.gid == bsnOf gid | none => false)
    | _ => false

/-- The texture reads of a group are over. -/
def texOver (s : State) (gid : Nat) : State :=
  { s with mem := { s.mem with pend := s.mem.pend.filter fun p => match p with | .tex x => x.gid != gid | _ => true } }

/-- Add accesses in flight. -/
def pushPend (s : State) (l : List Pend) : State := { s with mem := { s.mem with pend := s.mem.pend ++ l } }

end Sys2Proof.Machine
end

