-- ==== Sys2Proof/Machine/Kiln.lean ====
section
/-! DEFINITION. The Kiln arbiter of a cluster: requests, reclaims, releases and grants of current units (R353 to R357). -/

namespace Sys2Proof.Machine

/-- The cluster of a core (R7). -/
def clusterOf (core : Nat) : Nat := core / 4
/-- A cluster's state. -/
def clusterSt (s : State) (n : Nat) : Cluster := (Tbl.get? s.clusters n).getD Cluster.reset
/-- Change a cluster. -/
def modCluster (s : State) (n : Nat) (f : Cluster → Cluster) : State := { s with clusters := Tbl.set s.clusters n (f (clusterSt s n)) }

/-- The present frequency of a cluster's FLL: it moves 25 MHz per µs to its target (R358). -/
def presentMhz (s : State) (n : Nat) : Nat :=
  let c := clusterSt s n
  let d := 25 * ((s.time - c.mhzAt) / 1000)
  if c.mhzFrom ≤ c.mhz then min c.mhz (c.mhzFrom + d) else max c.mhz (c.mhzFrom - d)

/-- The FLL takes a new target. -/
def aimFll (s : State) (n mhz : Nat) : State :=
  let f := presentMhz s n
  modCluster s n fun c => { c with mhz := mhz, mhzFrom := f, mhzAt := s.time }

/-- Work is placed on a core: its cluster is not idle (R363). -/
def wakeCluster (s : State) (core : Nat) : State := modCluster s (clusterOf core) fun c => { c with idleFrom := none }

/-- The core of a requester. -/
def whoCore (w : KilnWho) : Nat :=
  match w with
  | .mash c => c
  | .grist c => c
  | .vector c _ => c

/-- The units of a requester (R353). -/
def whoUnits (w : KilnWho) : Nat :=
  match w with
  | .mash _ => 16
  | .grist _ => 2
  | .vector _ _ => 2

/-- Kind and partition, as R355 orders requests. -/
def whoKind (w : KilnWho) : Nat :=
  match w with
  | .mash _ => 0
  | .grist _ => 1
  | .vector _ p => 2 + p

/-- LEVEL (R354). -/
def Cluster.level (c : Cluster) : Nat := c.res.foldl (fun n r => n + r.held) 0

/-- GRANT of a context rises (R355). -/
def addGrant (s : State) (cid n : Nat) : State := modCounts s cid fun k => { k with grant := k.grant + BitVec.ofNat 32 n }

/-- A requester's reservation that has not ended. -/
def kilnRes (s : State) (w : KilnWho) : Option KilnRes :=
  (clusterSt s (clusterOf (whoCore w))).res.find? fun r => r.who == w && !r.ended

/-- The requester holds its whole amount. -/
def kilnHeld (s : State) (w : KilnWho) : Bool :=
  match kilnRes s w with
  | some r => r.want == 0
  | none => false

/-- A requester makes a reservation: it reclaims what its ended one still holds and requests the rest (R353, R356). One that has a reservation
makes none. -/
def kilnAsk (s : State) (w : KilnWho) (cid gid : Nat) : State :=
  if (kilnRes s w).isSome then s
  else
    let n := clusterOf (whoCore w)
    let c := clusterSt s n
    let back := (c.res.filter fun r => r.who == w).foldl (fun m r => m + r.held) 0
    let r : KilnRes :=
      { who := w, ctx := cid, gid := gid, want := whoUnits w - back, held := back, asked := c.kstep, full := c.kstep, ended := false }
    addGrant (modCluster s n fun c => { c with res := (c.res.filter fun r => r.who != w) ++ [r] }) cid back

/-- A reservation of a requester ends: what it holds ramps down (R355). -/
def kilnEnd (s : State) (w : KilnWho) : State :=
  modCluster s (clusterOf (whoCore w)) fun c =>
    { c with res := (c.res.map fun r => if r.who == w then { r with ended := true, want := 0 } else r).filter fun r => !(r.ended && r.held == 0) }

/-- The bursts of a group end as it leaves its partition (R357). -/
def endBurst (s : State) (core gid : Nat) : State :=
  modCluster s (clusterOf core) fun c =>
    { c with res := (c.res.map fun r =>
        match r.who with
        | .vector _ _ => if r.gid = gid then { r with ended := true, want := 0 } else r
        | _ => r).filter fun r => !(r.ended && r.held == 0) }

/-! One step of the arbiter (R355). -/

/-- Order of releases: grant time, then core. -/
def relLe (a b : KilnRes) : Bool := a.full < b.full || (a.full == b.full && whoCore a.who ≤ whoCore b.who)
/-- Order of grants. -/
def reqLe (a b : KilnRes) : Bool :=
  a.asked < b.asked || (a.asked == b.asked &&
    (whoCore a.who < whoCore b.who || (whoCore a.who == whoCore b.who && whoKind a.who ≤ whoKind b.who)))

/-- Insert by an order. -/
def insertRes (le : KilnRes → KilnRes → Bool) (x : KilnRes) (l : List KilnRes) : List KilnRes :=
  match l with
  | [] => [x]
  | y :: r => if le x y then x :: y :: r else y :: insertRes le x r

/-- Sorted by an order. -/
def sortRes (le : KilnRes → KilnRes → Bool) (l : List KilnRes) : List KilnRes := l.foldr (insertRes le) []

/-- Release up to `n` units of ended reservations, in order. -/
def release (n : Nat) (l : List KilnRes) : List KilnRes :=
  match l with
  | [] => []
  | r :: t =>
    if r.ended then { r with held := r.held - n } :: release (n - r.held) t
    else r :: release n t

/-- Grant up to `rise` units to pending requests in order, `room` more units fitting under CAP; the first that does not fit ends the grants.
Answers the reservations and what each grant gave. -/
def grantRes (rise room now : Nat) (l : List KilnRes) : List KilnRes × List (Nat × Nat) :=
  match l with
  | [] => ([], [])
  | r :: t =>
    if r.ended || r.want = 0 then
      let x := grantRes rise room now t
      (r :: x.1, x.2)
    else
      let n := min r.want (min rise room)
      if n = r.want then
        let x := grantRes (rise - n) (room - n) now t
        ({ r with want := 0, held := r.held + n, full := now } :: x.1, (r.ctx, n) :: x.2)
      else ({ r with want := r.want - n, held := r.held + n } :: t, [(r.ctx, n)])

/-- Count the grants of a step. -/
def countGrants (s : State) (l : List (Nat × Nat)) : State :=
  match l with
  | [] => s
  | g :: r => countGrants (addGrant s g.1 g.2) r

/-- The arbiter acts: a waiting KILN_SET is written, units of ended reservations are released, pending requests are granted unless DENY
(R355, R358, R360). -/
def kilnStep (s : State) (n : Nat) : State :=
  let c := clusterSt s n
  let c := match c.kset with | some k => { c with cap := k.1, ramp := k.2, kset := none } | none => c
  let b := nth c.ramp (c.level / 32) (16, 8)
  let l := (release b.2 (sortRes relLe c.res)).filter fun r => !(r.ended && r.held == 0)
  let lvl := l.foldl (fun m r => m + r.held) 0
  let g := if c.deny then (l, []) else grantRes b.1 (c.cap - lvl) c.kstep (sortRes reqLe l)
  countGrants (modCluster s n fun _ => { c with res := g.1, kstep := c.kstep + 1 }) g.2

/-- Sixteen clocks have passed on a port without a burst instruction: its burst ends (R353). -/
def execVectorBurstEnd (core part : Nat) (s : State) : Host.Outcome State Fault Refusal :=
  .next (if (kilnRes s (.vector core part)).isSome then kilnEnd s (.vector core part) else s)

end Sys2Proof.Machine
end

