-- ==== Sys2Proof/Machine/TileOrder.lean ====
section
/-! DEFINITION. The order of commits in a tile (R208, R215, R216). -/

namespace Sys2Proof.Machine

/-- Lanes of a group that have not exited. (DEDUCED, log 63) -/
def liveLanes (g : Group) : W64 :=
  g.frames.foldl (fun m e => m ||| e.2.arr) (g.fibres.foldl (fun m e => m ||| e.2.pred) 0)

/-- Item and primitive a comes before b (R208). -/
def primLt (a b : Nat × Nat) : Bool := a.1 < b.1 || (a.1 == b.1 && a.2 < b.2)

/-- A live lane of a fragment group, no helper, covers a sample of a pixel. -/
def coversSample (g : Group) (f : FragInfo) (pix sample : Nat) : Bool :=
  let live := liveLanes g &&& ~~~f.helper
  (List.range 64).any fun l => live.getLsbD l && (SMap.get f.pix l).toNat == pix && (SMap.get f.cover l).getLsbD sample

/-- An earlier primitive of a tile has still to commit or discard a sample. -/
def sampleDue (s : State) (pid tile : Nat) (at_ : Nat × Nat) (pix sample : Nat) : Bool :=
  (match Tbl.get? s.passes pid with
   | none => false
   | some p => p.commits.any fun c => c.tile == tile && c.pix == pix && c.sample == sample && primLt (c.item, c.prim) at_)
  || s.groups.any fun e =>
    match e.2.frag with
    | some f => f.pass == pid && f.tile == tile && primLt (f.item, f.prim) at_ && coversSample e.2 f pix sample
    | none => false

/-- A commit of a draw listed before an item has still to be made to a tile (R216). -/
def drawsDue (s : State) (pid tile item : Nat) : Bool :=
  (match Tbl.get? s.passes pid with
   | none => false
   | some p => p.commits.any fun c => c.tile == tile && decide (c.item < item))
  || s.groups.any fun e =>
    match e.2.frag with
    | some f => f.pass == pid && f.tile == tile && decide (f.item < item) && liveLanes e.2 &&& ~~~f.helper != 0
    | none => false

/-- A block of a dispatch listed before an item has not retired on a tile (R215). (DEDUCED, log 64) -/
def dispatchDue (s : State) (pid tile item : Nat) : Bool :=
  s.launches.any fun e => e.2.recId == pid && e.2.tiled && decide (e.2.member < item) && e.2.flying.contains tile

/-- The pass, item and tile of a group of a tile dispatch. -/
def dispatchOf (s : State) (gid : Nat) : Option (Nat × Nat × Nat) :=
  match Tbl.get? s.blocks (gid / 256) with
  | none => none
  | some b =>
    match b.of with
    | .point lid rank =>
      match Tbl.get? s.launches lid with
      | some l => if l.tiled then some (l.recId, l.member, rank) else none
      | none => none
    | _ => none

/-- What a group's `tb.fence` waits for has still to happen (R216). -/
def fenceDue (s : State) (gid : Nat) (g : Group) : Bool :=
  match g.frag with
  | some f =>
    (List.range f.n).any fun l => (List.range 4).any fun k => sampleDue s f.pass f.tile (f.item, f.prim) (SMap.get f.pix l).toNat k
  | none =>
    match dispatchOf s gid with
    | some (p, i, t) => drawsDue s p t i
    | none => false

/-- A commit of a group has still to write one of a set of its registers (R296). -/
def commitHolds (s : State) (gid : Nat) (regs : List Nat) : Bool :=
  s.passes.any fun e => e.2.commits.any fun c => c.gid == gid && regs.contains c.reg

/-- Work on a tile of a pass has still to end. -/
def tileBusy (s : State) (pid : Nat) (p : PassSt) (tile : Nat) : Bool :=
  p.commits.any (fun c => c.tile == tile)
    || s.blocks.any (fun e => match e.2.of with | .pass q _ t => q == pid && t == tile | _ => false)
    || s.launches.any (fun e => e.2.recId == pid && e.2.tiled && e.2.flying.contains tile)

end Sys2Proof.Machine
end

