-- ==== Sys2Proof/Machine/SaveArea.lean ====
section
/-! DEFINITION. The save area of a context as memory of its VF: its layout, its bytes, accumulator images (R185, R201 to R204, R253, R274, R277). -/

namespace Sys2Proof.Machine

/-! Ranges of bytes. -/

/-- Entries of a range, moved to another base. -/
def rangeAt {w : Nat} (m : SMap w) (a n b : Nat) : SMap w := (m.filter fun e => a ≤ e.1 && e.1 < a + n).map fun e => (b + (e.1 - a), e.2)
/-- Replace a range by entries that lie in it. -/
def putRange {w : Nat} (m : SMap w) (b n : Nat) (l : SMap w) : SMap w :=
  m.filter (fun e => e.1 < b) ++ l ++ m.filter fun e => b + n ≤ e.1

/-- The bytes of words, little-endian, from word `lo` on, by offset, in canonical form. -/
def wordBytes (m : SMap 32) (lo n : Nat) : SMap 8 :=
  m.foldr (fun e l => if lo ≤ e.1 && e.1 < lo + n then SMap.setList l (4 * (e.1 - lo)) (natLE 4 e.2.toNat) else l) []

/-- The words that bytes by offset make, from word 0 on. -/
def byteWords (m : SMap 8) : SMap 32 :=
  match m with
  | [] => []
  | (k, b) :: r =>
    let v := BitVec.ofNat 32 (b.toNat * 256 ^ (k % 4))
    match byteWords r with
    | (j, w) :: t => if j = k / 4 then (j, v ||| w) :: t else (k / 4, v) :: (j, w) :: t
    | [] => [(k / 4, v)]

/-- The physical address of a VPA of a save area; none where its VF does not hold the frame with a permitted world. -/
def savePa (s : State) (c : Ctx) (vpa : Nat) : Option Nat :=
  let m := frameEntry s c.vf (vpa / 32768)
  if m.1 == 1 && potOk s c.vf c.world m.2 then some (m.2 * 32768 + vpa % 32768) else none

/-- Write `n` bytes of a save area, given by offset from `off` on, a frame at a time, through the shared cache; a frame not held drops them,
logged (R159, R274, R277). -/
def putSave (s : State) (cid : Nat) (c : Ctx) (vpa off n : Nat) (l : SMap 8) (fuel : Nat) : State :=
  match fuel with
  | 0 => s
  | k + 1 =>
    let m := min n (32768 - vpa % 32768)
    if m = 0 then s
    else
      let s :=
        match savePa s c vpa with
        | none => logDrop s cid vpa
        | some pa =>
          let s := touchRange s pa m c.world true
          dirtyAcc { s with mem := { s.mem with loc := putRange s.mem.loc pa m (rangeAt l off m pa) } } c.vf vpa m
      putSave s cid c (vpa + m) (off + m) (n - m) l k

/-- Read `n` bytes of a save area, by offset from `off` on; those of a frame not held are free (DESIGN CHOICE, log 49). -/
def getSave (s : State) (c : Ctx) (vpa off n : Nat) (fuel : Nat) : SMap 8 × State :=
  match fuel with
  | 0 => ([], s)
  | k + 1 =>
    let m := min n (32768 - vpa % 32768)
    if m = 0 then ([], s)
    else
      let f := freshNat s
      let x := match savePa s c vpa with
        | some pa => (rangeAt s.mem.loc pa m off, touchRange s pa m c.world false)
        | none => (SMap.setList [] off (natLE m f.1), f.2)
      let r := getSave x.2 c (vpa + m) (off + m) (n - m) k
      (x.1 ++ r.1, r.2)

/-- Put the bytes of an accumulator image. -/
def putImage (s : State) (cid : Nat) (c : Ctx) (lcore : Nat) (l : SMap 8) : State :=
  putSave s cid c (c.imageVpa lcore) 0 (4096 * c.u) l (c.u / 8 + 2)

/-- The elements of an accumulator image, element e of unit n at 1024 n + e. -/
def getImage (s : State) (c : Ctx) (lcore : Nat) : SMap 32 × State :=
  let r := getSave s c (c.imageVpa lcore) 0 (4096 * c.u) (c.u / 8 + 2)
  (byteWords r.1, r.2)

/-- The images of a new context are all +0.0 (R185). -/
def zeroImages (s : State) (cid : Nat) (c : Ctx) : State := (List.range c.cores.length).foldl (fun s l => putImage s cid c l []) s

end Sys2Proof.Machine
end

