-- ==== Sys2Proof/Machine/Backing.lean ====
section
/-! DEFINITION. Points and rows of a launch, its backing record and its resident pages (R246, R247, R251 to R256, R401). -/

namespace Sys2Proof.Machine

/-- Insert a number in a rising list without repeats. -/
def insertUp (x : Nat) (l : List Nat) : List Nat :=
  match l with
  | [] => [x]
  | y :: r => if x < y then x :: y :: r else if x = y then y :: r else y :: insertUp x r

/-! Sets of 64 as bits. -/

/-- The set of one lane. -/
def oneLane (l : Nat) : W64 := BitVec.ofNat 64 (2 ^ l)
/-- The lanes 0 to n − 1 that satisfy a test, as a set. -/
def laneSet (n : Nat) (p : Nat → Bool) : W64 :=
  match n with
  | 0 => 0
  | n + 1 => if p n then laneSet n p ||| oneLane n else laneSet n p

/-! Points (R246). -/

/-- NI. -/
def Desc.ni (d : Desc) : Nat := d.kr.ext.1
/-- NJ. -/
def Desc.nj (d : Desc) : Nat := d.kr.ext.2.1
/-- NK. -/
def Desc.nk (d : Desc) : Nat := d.kr.ext.2.2
/-- Points of the launch. -/
def Desc.points (d : Desc) : Nat := d.ni * d.nj * d.nk
/-- NROW. -/
def Desc.nrow (d : Desc) : Nat := d.nj * d.nk
/-- The rank of a point. -/
def Desc.rankOf (d : Desc) (i j k : Nat) : Nat := i + d.ni * (j + d.nj * k)
/-- The coordinates of a rank. -/
def Desc.ptOf (d : Desc) (r : Nat) : Nat × Nat × Nat := (r % d.ni, r / d.ni % d.nj, r / d.ni / d.nj)
/-- A coordinate lies in the space. -/
def Desc.inside (d : Desc) (i j k : Int) : Bool := 0 ≤ i && i < d.ni && 0 ≤ j && j < d.nj && 0 ≤ k && k < d.nk
/-- The launch has dependence vectors. -/
def Desc.vectors (d : Desc) : Bool := !d.kr.dep.isEmpty

/-- Change a launch. -/
def modLaunch (s : State) (lid : Nat) (f : Launch → Launch) : State := { s with launches := Tbl.modify s.launches lid f }

/-! Rows (R247). -/

/-- The in-flight points of a row, by i. -/
def rowFlying (l : Launch) (r : Nat) : List Nat :=
  (l.flying.filter fun x => x / l.desc.ni == r).map fun x => x % l.desc.ni

/-- A row after the cut: every point not in flight is retired (R262). -/
def cutRow (l : Launch) (r : Nat) : FrRow :=
  match rowFlying l r with
  | [] => { pfx := l.desc.ni, win := 0 }
  | i :: t => { pfx := i, win := laneSet 64 fun b => i + 1 + b < l.desc.ni && !(i :: t).contains (i + 1 + b) }

/-- A row's entry, of a resident page. -/
def rowAt (l : Launch) (r : Nat) : FrRow :=
  if l.cut then cutRow l r else (Tbl.get? l.rows r).getD { pfx := 0, win := 0 }

/-! The place of a record in the frontier area (R253). -/

/-- Bytes of a launch's backing record in the frontier area (R253). -/
def areaBytes (d : Desc) : Nat := (64 + 16 * d.nrow + 4095) / 4096 * 4096

/-- The areas of a context's launches. -/
def areasOf (s : State) (cid : Nat) : List (Nat × Nat) :=
  (s.launches.filter fun e => e.2.ctx == cid).filterMap fun e => e.2.area

/-- An offset in the frontier area is free for `n` bytes. -/
def areaFree (l : List (Nat × Nat)) (lim n off : Nat) : Bool := off + n ≤ lim && l.all fun a => a.1 + a.2 ≤ off || off + n ≤ a.1

/-- First fit: offset 0, or the end of an area. -/
def firstFit (l : List (Nat × Nat)) (lim n : Nat) : Option Nat :=
  (0 :: l.map fun a => a.1 + a.2).foldl (fun m off =>
    if areaFree l lim n off then (match m with | some x => some (min x off) | none => some off) else m) none

/-- The area of a launch that begins; none where no range fits. A launch without vectors needs none. -/
def allotArea (s : State) (c : Ctx) (l : Launch) : Option (Option (Nat × Nat)) :=
  if !l.desc.vectors then some none
  else (firstFit (areasOf s l.ctx) c.frontierBytes (areaBytes l.desc)).map fun off => some (off, areaBytes l.desc)

/-! The bytes of a record (R254, R401). -/

/-- A signed byte. -/
def byteOfInt (x : Int) : Byte := BitVec.ofInt 8 x

/-- The header of a record, 64 bytes. -/
def headerBytes (l : Launch) : List Byte :=
  let dep := l.desc.kr.dep.flatMap fun v => [byteOfInt v.1, byteOfInt v.2.1, byteOfInt v.2.2]
  natLE 8 0 ++ natLE 8 (match l.area with | some a => a.2 | none => 0) ++ natLE 8 l.lser ++ natLE 2 1 ++ natLE 1 (if l.cut then 1 else 0)
    ++ natLE 1 l.desc.kr.dep.length ++ natLE 4 l.desc.ni ++ natLE 4 l.desc.nj ++ natLE 4 l.desc.nk
    ++ dep ++ List.replicate (12 - dep.length) 0 ++ natLE 4 l.desc.nrow ++ natLE 8 l.retn

/-- A row's entry, 16 bytes: DONE, PFX, WIN. -/
def rowBytes (l : Launch) (r : Nat) : List Byte :=
  let e := rowAt l r
  natLE 4 (if e.pfx = l.desc.ni then 2 ^ 31 else 0) ++ natLE 4 e.pfx ++ natLE 8 e.win.toNat

/-- The rows of a page (R251). -/
def pageRows (d : Desc) (p : Nat) : List Nat := (List.range (min 64 (d.nrow - 64 * p))).map fun i => 64 * p + i
/-- The page of a row. -/
def pageOf (r : Nat) : Nat := r / 64

/-- Write bytes of a launch's record from an offset on. -/
def putRecord (s : State) (l : Launch) (off n : Nat) (bs : SMap 8) : State :=
  match l.area, Tbl.get? s.ctxs l.ctx with
  | some a, some c => putSave s l.ctx c (c.saveArea + a.1 + off) 0 n bs (n / 32768 + 2)
  | _, _ => s

/-- A page is written to its place in the record. -/
def writePage (s : State) (l : Launch) (p : Nat) : State :=
  let bs := (pageRows l.desc p).flatMap (rowBytes l)
  putRecord s l (64 + 1024 * p) bs.length (SMap.setList [] 0 bs)

/-- The header is written. -/
def writeHeader (s : State) (l : Launch) : State := putRecord s l 0 64 (SMap.setList [] 0 (headerBytes l))

/-- A launch that begins: its record has every row at PFX 0 and WIN 0 (R253). -/
def newRecord (s : State) (l : Launch) : State :=
  match l.area with
  | none => s
  | some a => writeHeader (putRecord s l 0 a.2 []) l

/-- The rows of a page as its record has them. -/
def readPage (s : State) (l : Launch) (p : Nat) : Tbl FrRow × State :=
  match l.area, Tbl.get? s.ctxs l.ctx with
  | some a, some c =>
    let n := 16 * (pageRows l.desc p).length
    let r := getSave s c (c.saveArea + a.1 + 64 + 1024 * p) 0 n (n / 32768 + 2)
    ((pageRows l.desc p).map fun x =>
      (x, { pfx := rdNat r.1 (16 * (x % 64) + 4) 4, win := BitVec.ofNat 64 (rdNat r.1 (16 * (x % 64) + 8) 8) }), r.2)
  | _, _ => ([], s)

/-! Page frames (R251, R252). -/

/-- Put every entry of a table. -/
def setAll {α : Type} (t l : Tbl α) : Tbl α :=
  match l with
  | [] => t
  | e :: r => setAll (Tbl.set t e.1 e.2) r

/-- Page frames in use. -/
def framesUsed (s : State) : Nat := s.launches.foldl (fun n e => n + e.2.pages.length) 0
/-- Launches that hold an entry. -/
def entriesHeld (s : State) : Nat := (s.launches.filter fun e => e.2.entry).length

/-- A page holds the row of a point in flight. -/
def pagePinned (l : Launch) (p : Nat) : Bool := l.flying.any fun x => pageOf (x / l.desc.ni) == p

/-- Every row of a page is retired. -/
def pageDone (l : Launch) (p : Nat) : Bool := (pageRows l.desc p).all fun r => (rowAt l r).pfx == l.desc.ni

/-- The launch that gives up a frame: the one with most above its entitlement, else the one that needs the frame (R252). -/
def frameLaunch (s : State) (lid : Nat) : Nat :=
  let due := 1024 / max 1 (entriesHeld s)
  match s.launches.foldl (fun (m : Option (Nat × Nat)) e =>
      let excess := e.2.pages.length - due
      if excess = 0 then m else match m with | some x => if x.2 < excess then some (e.1, excess) else m | none => some (e.1, excess)) none with
  | some x => x.1
  | none => lid

/-- The page of a launch that is evicted: one whose rows are all retired, else the highest not pinned; never one of those kept (R252). -/
def victimPage (l : Launch) (keep : List Nat) : Option Nat :=
  let free := l.pages.filter fun p => !pagePinned l p && !keep.contains p
  match free.find? (pageDone l) with
  | some p => some p
  | none => free.getLast?

/-- A page goes to its record, and its frame is free. -/
def evictPage (s : State) (lid p : Nat) : State :=
  match Tbl.get? s.launches lid with
  | none => s
  | some l =>
    modLaunch (writePage s l p) lid fun l =>
      { l with pages := l.pages.filter (· != p), changed := l.changed.filter (· != p), rows := l.rows.filter fun e => pageOf e.1 != p }

/-- A page of a launch is loaded into a free frame. -/
def loadPage (s : State) (lid p : Nat) : State :=
  match Tbl.get? s.launches lid with
  | none => s
  | some l =>
    let r := readPage s l p
    modLaunch r.2 lid fun l => { l with pages := insertUp p l.pages, changed := l.changed.filter (· != p), rows := setAll l.rows r.1 }

/-- Make one page of a launch resident; none where every frame that could be freed is pinned. -/
def needPage (s : State) (lid p : Nat) (keep : List Nat) : Option State :=
  match Tbl.get? s.launches lid with
  | none => none
  | some l =>
    if l.pages.contains p then some s
    else if framesUsed s < 1024 then some (loadPage s lid p)
    else
      let v := frameLaunch s lid
      match Tbl.get? s.launches v with
      | none => none
      | some x => (victimPage x (if v = lid then keep else [])).map fun q => loadPage (evictPage s v q) lid p

/-- Make the pages of a list resident, together. -/
def needPages (s : State) (lid : Nat) (l keep : List Nat) : Option State :=
  match l with
  | [] => some s
  | p :: r => (needPage s lid p keep).bind fun s => needPages s lid r keep

/-- The pages that hold a point's row and the rows of its dependences inside the space (R252). -/
def pointPages (d : Desc) (rank : Nat) : List Nat :=
  let p := d.ptOf rank
  let deps := d.kr.dep.filterMap fun v =>
    let i : Int := p.1 - v.1
    let j : Int := p.2.1 - v.2.1
    let k : Int := p.2.2 - v.2.2
    if d.inside i j k then some (pageOf (d.rankOf i.toNat j.toNat k.toNat / d.ni)) else none
  (pageOf (rank / d.ni) :: deps).eraseDups

/-- A launch as its whole frontier stands, resident or not: residency is visible only as time (R252). -/
def wholeLaunch (s : State) (l : Launch) : Launch :=
  if !l.desc.vectors || l.cut then l
  else
    { l with rows := setAll l.rows (((List.range ((l.desc.nrow + 63) / 64)).filter fun p => !l.pages.contains p).flatMap fun p => (readPage s l p).1) }

/-- A save of a launch's frontier: its resident pages, or every page after a cut, and its header go to the record, and its entry and frames are free (R255). -/
def saveFrontier (s : State) (lid : Nat) : State :=
  match Tbl.get? s.launches lid with
  | none => s
  | some l =>
    if !l.entry then s
    else
      let ps := if l.cut then List.range ((l.desc.nrow + 63) / 64) else l.pages
      modLaunch (writeHeader (ps.foldl (fun s p => writePage s l p) s) l) lid fun l => { l with entry := false, pages := [], changed := [], rows := [] }

/-- Save the frontiers of every launch of a list. -/
def saveFrontiers (s : State) (l : List Nat) : State := l.foldl saveFrontier s

end Sys2Proof.Machine
end

