-- ==== Sys2Proof/Machine/Ladder.lean ====
section
/-! DEFINITION. Events to the host, spills, and the pre-emption ladder: who may start work, slices, and what follows a ladder (R201, R202, R232, R237 to R243). -/

namespace Sys2Proof.Machine

/-- The engines of a core. -/
def coreOf (s : State) (core : Nat) : Core := (Tbl.get? s.cores core).getD Core.reset
/-- Change a core's engines. -/
def modCore (s : State) (core : Nat) (f : Core → Core) : State := { s with cores := Tbl.set s.cores core (f (coreOf s core)) }

/-! The event queue (R232). -/

/-- An event record reaches the context's event queue, or is counted as lost (R232). -/
def pushEvent (s : State) (cid : Nat) (r : EvRec) : State :=
  modCtx s cid fun c =>
    if 4096 ≤ c.queues.evq.length then { c with queues := { c.queues with lost := c.queues.lost + 1 } }
    else { c with queues := { c.queues with evq := c.queues.evq ++ [r] } }

/-- TIME as the contexts of a VF read it (R154). -/
def timeFor (s : State) (vf : Nat) : Nat := s.time + (vfOf s vf).timeOff
/-- The VF of a context. -/
def ctxVf (s : State) (cid : Nat) : Nat := match Tbl.get? s.ctxs cid with | some c => c.vf | none => 0

/-- A device event. -/
def devEvent (s : State) (cid cls code : Nat) (pay : W64) : State :=
  pushEvent s cid { pay := pay, time := timeFor s (ctxVf s cid), src := 0, code := code, cls := cls }

/-- A device event whose class-specific PAY the spec does not state: a free value (R232). (DESIGN CHOICE, log 110) -/
def openEvent (s : State) (cid cls code : Nat) : State :=
  let f := freshNat s
  devEvent f.2 cid cls code (BitVec.ofNat 64 f.1)

/-! Spills (R201). -/

/-- Units from U on. -/
def unitsFrom (m : SMap 32) (u : Nat) : SMap 32 := SMap.keep m fun k => 1024 * u ≤ k

/-- A context's image of a logical core is marked lost (R203). -/
def setLost (s : State) (cid lcore : Nat) : State :=
  modCtx s cid fun c => { c with lost := if c.lost.contains lcore then c.lost else c.lost ++ [lcore] }

/-- The units of a core go to their owner's image (R201). -/
def spillUnits (s : State) (core : Nat) : State :=
  let k := coreOf s core
  match k.owner with
  | none => s
  | some (cid, lc) =>
    match Tbl.get? s.ctxs cid with
    | none => s
    | some c => putImage s cid c lc (wordBytes k.acc 0 (1024 * c.u))

/-! Who may start work (R233, R237, R240). -/

/-- Two core sets meet. -/
def coresMeet (a b : List Nat) : Bool := a.any fun x => b.contains x

/-- The enabled VFs other than one whose core sets meet its own (R240). -/
def sharers (s : State) (vf : Nat) : List Nat :=
  (s.vfs.filter fun e => e.1 != vf && e.1 != 0 && e.2.enabled && coresMeet e.2.cores (vfOf s vf).cores).map (·.1)

/-- A VF holds its cores: it is the PF, no other shares them, or its slice runs (R240). -/
def vfHolds (s : State) (vf : Nat) : Bool := vf == 0 || (sharers s vf).isEmpty || (vfOf s vf).sliceEnd.isSome

/-- A context is a ladder's target. -/
def targetHas (t : Target) (cid : Nat) (c : Ctx) : Bool :=
  match t with
  | .ctx n => n == cid
  | .vf n => n == c.vf

/-- A block is resident, for a target, on some of a set of cores, or at all. -/
def resident (s : State) (t : Target) (cores : Option (List Nat)) (b : Block) : Bool :=
  !b.saved &&
    match Tbl.get? s.ctxs b.ctx with
    | some c => targetHas t b.ctx c && (match cores with | some l => b.lcores.any fun i => l.contains (nth c.cores i 0) | none => true)
    | none => false

/-- The physical cores that a pass holds (R205). -/
def passCores (s : State) (p : PassSt) : List Nat :=
  match Tbl.get? s.ctxs p.ctx with | some c => p.cur.map (fun x => nth c.cores x.1 0) | none => []

/-- A pass is of a ladder's target, and holds some of the cores that the ladder clears (R217, R237). -/
def ladderPass (s : State) (t : Target) (cores : Option (List Nat)) (p : PassSt) : Bool :=
  (match Tbl.get? s.ctxs p.ctx with | some c => targetHas t p.ctx c | none => false)
    && (match cores with | some l => coresMeet (passCores s p) l | none => true)

/-- A ladder with a property runs against a pass. -/
def passUnder (s : State) (p : PassSt) (q : Ladder → Bool) : Bool := s.sys.ladders.any fun l => ladderPass s l.tgt l.cores p && q l

/-- A ladder with a property runs against a context on all its cores. -/
def underLadder (s : State) (cid : Nat) (c : Ctx) (p : Ladder → Bool) : Bool :=
  s.sys.ladders.any fun l => l.cores.isNone && targetHas l.tgt cid c && p l

/-- A world is sealed: a hot reset has sealed it, and no session has unsealed it since (R393). -/
def worldSealed (s : State) (w : Nat) : Bool := match Tbl.get? s.sys.worlds w with | some x => x.sealed | none => false

/-- A context may run: it is not stopped, held, replaced, of a sealed world, out of its VF's turn, or quiesced by a migration (R150, R240, R242, R393,
R396). -/
def mayRun (s : State) (c : Ctx) : Bool :=
  !c.stopped && !c.held && c.current && !worldSealed s c.world && vfHolds s c.vf && (Tbl.get? s.sys.migs c.vf).isNone

/-- A context may start work: it may run and is no ladder's target (R233, R237). (DEDUCED, log 80) -/
def mayStart (s : State) (cid : Nat) (c : Ctx) : Bool := mayRun s c && !underLadder s cid c fun _ => true

/-- A context may go on with what it has begun: no ladder has reached its forced save (R217). -/
def mayFinish (s : State) (cid : Nat) (c : Ctx) : Bool := mayRun s c && !underLadder s cid c fun l => decide (3 ≤ l.step)

/-- A pass may start a tile: its context may start work, and no ladder clears a core that it holds (R217, R237). -/
def passStarts (s : State) (p : PassSt) (c : Ctx) : Bool := mayStart s p.ctx c && !passUnder s p fun _ => true
/-- A pass may go on with a tile in progress: no ladder that it is under has reached its forced save (R217). -/
def passFinishes (s : State) (p : PassSt) (c : Ctx) : Bool := mayFinish s p.ctx c && !passUnder s p fun l => decide (3 ≤ l.step)

/-! Slices (R240). -/

/-- A VF's turn is before another's: its last slice started earlier, or, of two that started none, its number is lower (R240). -/
def turnBefore (s : State) (a b : Nat) : Bool := (vfOf s a).turn < (vfOf s b).turn || ((vfOf s a).turn == (vfOf s b).turn && a < b)

/-- A VF has blocks on some of a set of cores. -/
def vfResident (s : State) (vf : Nat) (cores : List Nat) : Bool := s.blocks.any fun e => resident s (.vf vf) (some cores) e.2

/-- A VF's next slice may start: no VF that shares its cores runs or has blocks left on them, or has its turn before it (R240). -/
def sliceFree (s : State) (vf : Nat) : Bool :=
  (vfOf s vf).enabled && !(sharers s vf).isEmpty && (vfOf s vf).sliceEnd.isNone
    && (sharers s vf).all fun w => (vfOf s w).sliceEnd.isNone && turnBefore s vf w && !vfResident s w (vfOf s vf).cores

/-- A VF's slice starts: its length less what it owes, at least a tenth of it (R240). -/
def startSlice (s : State) (vf : Nat) : State :=
  if sliceFree s vf then
    setVf s vf fun v => { v with sliceEnd := some (s.time + max (v.sliceNs - v.owed) (v.sliceNs / 10)), owed := 0, turn := s.steps + 1 }
  else s

/-- The VFs after one, by number and round again, that one last. -/
def vfsAfter (vf : Nat) : List Nat := (List.range 16).map fun i => (vf + i) % 16 + 1

/-- Every slice that may start does, in round robin after a VF (R240). -/
def startSlices (s : State) (vf : Nat) : State := (vfsAfter vf).foldl startSlice s

/-! Mailboxes (R387). -/

/-- A function's mailbox. -/
def boxOf (s : State) (fn : Nat) : Mailbox := (Tbl.get? s.sys.boxes fn).getD Mailbox.reset
/-- Change a mailbox. -/
def modBox (s : State) (fn : Nat) (f : Mailbox → Mailbox) : State :=
  { s with sys := { s.sys with boxes := Tbl.set s.sys.boxes fn (f (boxOf s fn)) } }

/-- A command ends with a result and what it returns. Results overwrite MBARG, whose bytes are then free: their places are not given (DESIGN CHOICE, log 2). -/
def finishBox (s : State) (fn res : Nat) (answer : List W64) : State :=
  if answer.isEmpty then modBox s fn fun b => { b with busy := false, res := res, answer := [] }
  else
    let f := freshNat s
    modBox f.2 fn fun b => { b with busy := false, res := res, answer := answer, arg := SMap.setList [] 0 (natLE 192 f.1) }

/-- The host is told something through a function's mailbox. -/
def tellHost (s : State) (fn : Nat) (n : HostNote) : State := { s with sys := { s.sys with told := s.sys.told ++ [(fn, n)] } }

/-- A pre-emption of a VF rolls back the context switches in their first phase (R242). -/
def rollback (s : State) (vf : Nat) : State :=
  let mine := fun (l : Ladder) =>
    match l.next, l.tgt with
    | .switch _, .ctx c => (match Tbl.get? s.ctxs c with | some x => x.vf == vf | none => false)
    | _, _ => false
  let fns := (s.sys.ladders.filter mine).filterMap fun l => match l.next with | .switch fn => some fn | _ => none
  fns.foldl (fun s fn => finishBox s fn 6 []) { s with sys := { s.sys with ladders := s.sys.ladders.filter fun l => !mine l } }

/-! Logical cores (R185, R202, R243). -/

/-- Spill a core's units where a logical core of a context owns them, and clear V (R202). -/
def spillOwned (s : State) (core cid lcore : Nat) : State :=
  if (coreOf s core).owner == some (cid, lcore) then modCore (spillUnits s core) core fun k => { k with owner := none } else s

/-- Spill every unit that a context's logical cores own (R202). -/
def spillAll (s : State) (cid : Nat) (c : Ctx) : State :=
  (List.range c.cores.length).foldl (fun s l => spillOwned s (nth c.cores l 0) cid l) s

/-- The physical core for a logical core whose core left the set, or is carried already: the lowest core of the set that carries none, else its own,
else one chosen freely (DESIGN CHOICE, log 2). -/
def newCore (set used : List Nat) (old pick : Nat) : Nat :=
  match set.find? fun x => !used.contains x with
  | some x => x
  | none => if set.contains old || set.isEmpty then old else nth set (pick % set.length) old

/-- The map of logical cores under a core set: a core of the set that no lower logical core uses stays. -/
def newMap (set old used : List Nat) (pick : Nat) : List Nat :=
  match old with
  | [] => []
  | x :: r =>
    let keep := set.contains x && !used.contains x
    let y := if keep then x else newCore set (used ++ r) x pick
    y :: newMap set r (used ++ [y]) pick

/-- A context's logical cores take a new map; images of those that move are spilled (R202, R243). -/
def setMap (s : State) (cid : Nat) (c : Ctx) (m : List Nat) : State :=
  let moved := (List.range c.cores.length).filter fun l => nth c.cores l 0 != nth m l 0
  modCtx (moved.foldl (fun s l => spillOwned s (nth c.cores l 0) cid l) s) cid fun c => { c with cores := m }

/-- Map a context's logical cores onto its VF's set. (DEDUCED, log 81) -/
def resizeMap (s : State) (cid : Nat) (c : Ctx) : State :=
  let f := freshNat s
  setMap f.2 cid c (newMap (vfOf s c.vf).cores c.cores [] f.1)

/-! The end of a ladder (R237). -/

/-- The header of a pass. -/
def passHdr (s : State) (pid : Nat) : Option PassHdr :=
  match Tbl.get? s.recs pid with
  | some r => (match r.body with | .pass h _ => some h | _ => none)
  | none => none

/-- Where a tile of a pass stands: item, primitive, quad. -/
def tilePos (p : PassSt) (tile : Nat) : Nat × Nat × Nat := (Tbl.get? p.prog tile).getD (p.base, 0, 0)

/-- The tiles of a pass that are not stored. -/
def unstored (p : PassSt) (h : PassHdr) : List Nat := (List.range (h.tx * h.ty)).filter fun t => !p.stored.contains t

/-- The item before which every unstored tile of a pass stands, with no commit due: a draw or a tile boundary (R217). -/
def passBoundary (p : PassSt) (h : PassHdr) : Option Nat :=
  let n := match unstored p h with | [] => h.nitem | t :: _ => (tilePos p t).1
  if p.commits.isEmpty && (unstored p h).all fun t => tilePos p t == (n, 0, 0) then some n else none

/-- A pass may be pre-empted: it stands at a boundary, and no tile buffer is left in a scratchpad (R217). -/
def passOut (s : State) (pid : Nat) (p : PassSt) : Bool :=
  match passHdr s pid with
  | some h => (passBoundary p h).isSome && p.bufs.isEmpty
  | none => true

/-- Work of a ladder's target is on the cores it clears: a block is resident until it retires, its groups gone or not (R11, R237). -/
def ladderBusy (s : State) (l : Ladder) : Bool :=
  (s.blocks.any fun e => resident s l.tgt l.cores e.2)
  || (l.step ≤ 2 && s.passes.any fun e => ladderPass s l.tgt l.cores e.2 && !passOut s e.1 e.2)

/-- The contexts of a target. -/
def targetCtxs (s : State) (t : Target) : List (Nat × Ctx) := s.ctxs.filter fun e => targetHas t e.1 e.2

/-! What a migration copies (R396). -/

/-- The VF that holds the control store unit of an address (R322). -/
def unitVf (s : State) (addr : Nat) : Option Nat :=
  let e := (SMap.get s.wcsUnits (addr / 256)).toNat
  if e / 128 % 2 = 1 then some (e % 32) else none

/-- A VF's frame is copied to the peer: its lines are written back first (R159), a protected world's bytes travel as the ciphertext of an encryption
of their own, and a frame paged out is read from the backing area (R276, R396). -/
def sendFrame (vf frame : Nat) (r : Tbl Paged × State) : Tbl Paged × State :=
  let s := r.2
  let e := frameEntry s vf frame
  if e.1 == 1 then
    let f := freshNat s
    (Tbl.set r.1 frame { world := (potEntry s e.2).world, stamp := f.1, plain := rangeAt s.mem.loc (e.2 * 32768) 32768 0 },
      { f.2 with mem := cleanLines f.2.mem e.2 })
  else
    match Tbl.get? s.tables.paged (frameKey vf frame), (vfOf s vf).back with
    | some p, some b => (Tbl.set r.1 frame (if p.world = 0 then { p with plain := rangeAt s.mem.host (b.1 + 32768 * e.2) 32768 0 } else p), s)
    | _, _ => r

/-- The frames of a list are copied, over what has been copied of them before. -/
def sendFrames (s : State) (vf : Nat) (l : List Nat) (done : Tbl Paged) : Tbl Paged × State := l.foldl (fun r f => sendFrame vf f r) (done, s)

/-- A bitmap marks a frame, or no bitmap is kept: then every frame counts as marked (R277, R396; DESIGN CHOICE, log 142). -/
def frameDirty (s : State) (vf frame : Nat) : Bool :=
  let v := vfOf s vf
  let bit := fun (base : Nat) => (SMap.get s.mem.loc (base + frame / 16)).getLsbD (frame / 2 % 8)
  !v.dirtyEn || bit v.dirtyA || bit v.dirtyB

/-- The entries of a table that a test on the key chooses. -/
def keepKeys {α : Type} (t : Tbl α) (p : Nat → Bool) : Tbl α := t.filter fun e => p e.1

/-- Step 3 of R396: the frames marked since are copied again, and with them go the save areas and frontier records (in those frames, and in the tables of
the VF's contexts), the control store units, the seal keys and the SPDM configuration. -/
def migImageOf (s : State) (vf : Nat) (done : Tbl Paged) : MigImage × State :=
  let r := sendFrames s vf ((vfFrames s vf).map (·.1) |>.filter fun f => frameDirty s vf f || (Tbl.get? done f).isNone) done
  let s := r.2
  let ofCtx := fun (c : Nat) => match Tbl.get? s.ctxs c with | some x => x.vf == vf | none => false
  let ofBlock := fun (b : Nat) => match Tbl.get? s.blocks b with | some x => ofCtx x.ctx | none => false
  let worlds := s.sys.worlds.filter fun e => e.2.vf == vf
  let units := (List.range 16).filter fun u => unitVf s (256 * u) == some vf
  ({ vf := vf, st := vfOf s vf, last := timeFor s vf, ctxs := s.ctxs.filter (fun e => e.2.vf == vf),
     slots := s.slots.filter (fun e => e.2.st != 0 && e.2.vf == vf),
     recs := s.recs.filter (fun e => (match Tbl.get? s.slots e.2.slot with | some q => q.vf == vf | none => false)),
     launches := s.launches.filter (fun e => ofCtx e.2.ctx), blocks := s.blocks.filter (fun e => ofCtx e.2.ctx),
     groups := keepKeys s.groups (fun g => ofBlock (bsnOf g)), saves := keepKeys s.saves ofBlock, passes := s.passes.filter (fun e => ofCtx e.2.ctx),
     frames := r.1.filter (fun e => (vfFrames s vf).any fun x => x.1 == e.1), worlds := worlds,
     keys := keepKeys s.sealKeys (fun k => worlds.any fun e => e.1 == k / 2 ^ 8), units := units,
     wcs := SMap.keep s.wcs (fun a => units.contains (a / 256)), spdm := (Tbl.get? s.sys.spdm vf).getD Spdm.reset }, s)

/-- A migration that waits for its peer, with the ticket's two words (R396). -/
def newMig (s : State) (peer t0 t1 : Nat) (sent : MigImage) : Mig :=
  { peer := peer, ticket := BitVec.ofNat 128 (t0 % 2 ^ 64 + 2 ^ 64 * (t1 % 2 ^ 64)), started := s.time, done := none, sent := sent }
/-- Record a VF's migration. -/
def setMig (s : State) (vf : Nat) (m : Mig) : State := { s with sys := { s.sys with migs := Tbl.set s.sys.migs vf m } }

/-- What follows a ladder. -/
def ladderNext (s : State) (l : Ladder) : State :=
  match l.next with
  | .none => (match l.tgt with | .vf n => startSlices s n | .ctx _ => s)
  | .prio => s
  | .slice at_ =>
    match l.tgt with
    | .vf n => startSlices (setVf s n fun v => { v with sliceEnd := none, owed := s.time - at_ }) n
    | .ctx _ => s
  | .switch fn =>
    (targetCtxs s l.tgt).foldl (fun s e => modCtx s e.1 fun c => { c with current := false }) (finishBox s fn 0 [])
  | .resize => (targetCtxs s l.tgt).foldl (fun s e => resizeMap s e.1 e.2) s
  | .migrate fn peer copied =>
    match l.tgt with
    | .vf n =>
      let r := migImageOf ((targetCtxs s l.tgt).foldl (fun s e => spillAll s e.1 e.2) s) n copied
      let f := freshNat r.2
      let g := freshNat f.2
      finishBox (setMig g.2 n (newMig s peer f.1 g.1 r.1)) fn 0 [BitVec.ofNat 64 f.1, BitVec.ofNat 64 g.1]
    | .ctx _ => s

/-- A pass leaves its cores, or those of a set; the tile buffers that are not in the spill area are kept. At a boundary it leaves them all, and its
position is one item, with the stored tiles (R205, R217). (DEDUCED, log 34) -/
def savePass (s : State) (cores : Option (List Nat)) (pid : Nat) (p : PassSt) : PassSt :=
  match (passHdr s pid).bind fun h => passBoundary p h with
  | some n => { p with cur := [], base := n, prog := [] }
  | none =>
    match cores, Tbl.get? s.ctxs p.ctx with
    | some l, some c => { p with cur := p.cur.filter fun x => !l.contains (nth c.cores x.1 0) }
    | _, _ => { p with cur := [] }

/-- The passes of a target that hold cores to be cleared leave them (R217). -/
def savePasses (s : State) (t : Target) (cores : Option (List Nat)) : State :=
  { s with passes := s.passes.map fun e => (e.1, if ladderPass s t cores e.2 then savePass s cores e.1 e.2 else e.2) }

/-- The launches of a target that hold an entry of the frontier table. -/
def targetLaunches (s : State) (t : Target) : List Nat :=
  (s.launches.filter fun e => e.2.entry && (match Tbl.get? s.ctxs e.2.ctx with | some c => targetHas t e.2.ctx c | none => false)).map (·.1)

/-- A target whose blocks have left a ladder's cores: its passes leave them, and where it has left them all, its launches' frontiers are saved (R217,
R255). -/
def saveTarget (s : State) (t : Target) (cores : Option (List Nat)) : State :=
  let s := savePasses s t cores
  if cores.isNone then saveFrontiers s (targetLaunches s t) else s

/-- A ladder is done: every context of the target gets an event of class 3 with the last step reached (R237). -/
def endLadder (s : State) (l : Ladder) : State :=
  let s := { s with sys := { s.sys with ladders := s.sys.ladders.filter fun x => x != l } }
  let s := saveTarget s l.tgt l.cores
  ladderNext ((targetCtxs s l.tgt).foldl (fun s e => openEvent s e.1 3 l.step) s) l

/-- The ladders of a list that are done end. -/
def endLadders (s : State) (l : List Ladder) : State :=
  match l with
  | [] => s
  | x :: r => endLadders (if ladderBusy s x then s else endLadder s x) r

/-- After work has left its cores. -/
def checkLadders (s : State) : State := endLadders s s.sys.ladders

/-- A ladder starts (R237). -/
def startLadder (s : State) (t : Target) (cores : Option (List Nat)) (next : LadderEnd) : State :=
  checkLadders { s with sys := { s.sys with ladders := s.sys.ladders ++ [{ tgt := t, cores := cores, step := 1, since := s.time, next := next }] } }

end Sys2Proof.Machine
end

