-- ==== Sys2Proof/Machine/Groups.lean ====
section
/-! DEFINITION. Fibres, join frames, waits, barriers and claims of groups, and the end of a group (R80 to R90, R120 to R130, R341). -/

namespace Sys2Proof.Machine

/-! Lane sets. -/

/-- The lane set of the W lowest lanes (R80). -/
def lanesOf (w : Nat) : W64 := BitVec.ofNat 64 (2 ^ w - 1)
/-- Lane `l` is in a set. -/
def inSet (m : W64) (l : Nat) : Bool := m.getLsbD l
/-- The lowest lane of a set, from `l` up. -/
def lowestFrom (m : W64) (l fuel : Nat) : Nat :=
  match fuel with
  | 0 => l
  | f + 1 => if inSet m l then l else lowestFrom m (l + 1) f
/-- The lowest lane of a set; 64 where it is empty. -/
def lowest (m : W64) : Nat := lowestFrom m 0 64

/-! Fibre slots. -/

/-- The lowest free slot from `n` up. -/
def freeSlot (fs : Tbl Fibre) : Nat := Tbl.freshFrom fs 0 64

/-- A new runnable fibre. -/
def newFibre (pc pred : W64) (wb : Nat) : Fibre :=
  { pc := pc, pred := pred, wb := wb, st := .runnable, sc := 0, micro := none, hs := [] }

/-- Create a fibre in the lowest free slot (R120). -/
def addFibre (g : Group) (f : Fibre) : Group := { g with fibres := Tbl.set g.fibres (freeSlot g.fibres) f }

/-- Change a fibre. -/
def modFibre (g : Group) (k : Nat) (h : Fibre → Fibre) : Group := { g with fibres := Tbl.modify g.fibres k h }

/-- End a fibre: its slot is free and it leaves STARVED (R120, R122). -/
def endFibre (g : Group) (k : Nat) : Group :=
  { g with fibres := Tbl.erase g.fibres k, starved := g.starved.filter (· != k) }

/-- A fibre leaves STARVED when it parks or waits (R122). -/
def unstarve (g : Group) (k : Nat) : Group := { g with starved := g.starved.filter (· != k) }

/-- A fibre that may be merged (R121). -/
def Fibre.mergeable (f : Fibre) : Bool := f.st == .runnable && f.micro.isNone

/-- Merge fibre `k` into an earlier one of equal PC and WB, where there is one (R121). -/
def mergeInto (done : Tbl Fibre) (starved : List Nat) (k : Nat) (f : Fibre) : Tbl Fibre × List Nat :=
  match done.find? fun e => e.2.mergeable && f.mergeable && e.2.pc == f.pc && e.2.wb == f.wb with
  | some e =>
    (Tbl.set done e.1 { e.2 with pred := e.2.pred ||| f.pred, sc := max e.2.sc f.sc },
      (starved.map fun x => if x = k then e.1 else x))
  | none => (done ++ [(k, f)], starved)

/-- Drop repeats, keeping the first. -/
def dedup (l : List Nat) : List Nat := (l.foldl (fun acc x => if acc.contains x then acc else x :: acc) []).reverse

/-- Merge every set of equal runnable fibres (R121). -/
def mergeFibres (g : Group) : Group :=
  let r := g.fibres.foldl (fun (a : Tbl Fibre × List Nat) e => mergeInto a.1 a.2 e.1 e.2) ([], g.starved)
  { g with fibres := r.1, starved := dedup r.2 }

/-- The better of two candidates: smaller PC, then WB, then number (R122). -/
def betterFibre (a b : Nat × Fibre) : Bool :=
  b.2.pc.toNat < a.2.pc.toNat || (b.2.pc == a.2.pc && (b.2.wb < a.2.wb || (b.2.wb == a.2.wb && b.1 < a.1)))

/-- The best candidate. -/
def bestFibre (l : List (Nat × Fibre)) : Option (Nat × Fibre) :=
  match l with
  | [] => none
  | x :: r => match bestFibre r with | none => some x | some y => if betterFibre x y then some y else some x

/-- The candidates: runnable fibres, less a yielder that is not alone (R122). Where the yielder merged at its own switch point, the merged fibre is
the yielder if it stands in the yielder's slot (DESIGN CHOICE, log 125: the spec does not say who the yielder is after a merge). -/
def candidates (g : Group) (yielder : Option Nat) : List (Nat × Fibre) :=
  let run : List (Nat × Fibre) := g.fibres.filter fun e => e.2.st == .runnable
  match yielder with
  | some y => if run.any (fun e => e.1 != y) then run.filter (fun e => e.1 != y) else run
  | none => run

/-- The picked candidate: the first of STARVED, else the best (R122). -/
def pickFibre (starved : List Nat) (cand : List (Nat × Fibre)) : Option Nat :=
  match starved.find? fun k => cand.any fun e => e.1 == k with
  | some k => some k
  | none => (bestFibre cand).map fun e => e.1

/-- The starvation count after a choice (R122). -/
def bumpSc (pick : Nat) (cand : List (Nat × Fibre)) (e : Nat × Fibre) : Nat × Fibre :=
  if e.1 = pick then (e.1, { e.2 with sc := 0 })
  else if cand.any (fun o => o.1 == e.1) then (e.1, { e.2 with sc := min (e.2.sc + 1) 16 }) else e

/-- Candidates that reach a count of 16 (R122). -/
def newlyStarved (pick : Nat) (cand : List (Nat × Fibre)) : List Nat :=
  (cand.filter fun e => e.1 != pick && e.2.sc == 15).map fun e => e.1

/-- Select the fibre that issues next; `yielder` follows `fib.yield` (R122). -/
def selectFibre (g : Group) (yielder : Option Nat) : Group :=
  let cand := candidates g yielder
  match pickFibre g.starved cand with
  | none => { g with cur := none }
  | some k =>
    { g with cur := some k,
             starved := (g.starved ++ newlyStarved k cand).filter (· != k),
             fibres := g.fibres.map (bumpSc k cand) }

/-- A switch point: merge, then select (R121, R122). -/
def switchPoint (g : Group) (yielder : Option Nat) : Group := selectFibre (mergeFibres g) yielder

/-! Join frames (R123). -/

/-- The innermost frame of a lane: its index and the frame. -/
def innermost (fr : Tbl Frame) (lane : Nat) : Option (Nat × Frame) :=
  fr.foldl (fun a e => if inSet e.2.mem lane then
      (match a with | some b => if b.2.seq < e.2.seq then some e else a | none => some e) else a) none

/-- Close a frame: higher frames move down; its arrived lanes go on as one fibre (R123). -/
def closeFrame (g : Group) (k : Nat) (fr : Frame) : Group :=
  let frames := (Tbl.erase g.frames k).map fun e => if fr.seq < e.2.seq then (e.1, { e.2 with seq := e.2.seq - 1 }) else e
  let g := { g with frames := frames }
  if fr.arr = 0 then g else addFibre g (newFibre (fr.jpc + 4) fr.arr fr.jwb)

/-- Complete the frame of sequence `n − 1`, and then those below it, where every member has arrived (R123). -/
def completeFrom (g : Group) (n : Nat) : Group :=
  match n with
  | 0 => g
  | n + 1 =>
    match g.frames.find? fun e => e.2.seq == n with
    | some e => completeFrom (if e.2.mem &&& ~~~e.2.arr = 0 then closeFrame g e.1 e.2 else g) n
    | none => completeFrom g n

/-- The completion checks, innermost frame first. -/
def completeFrames (g : Group) : Group := completeFrom g 16

/-- Lanes exit: they leave every frame (R130). (DEDUCED, log 43) -/
def exitLanes (g : Group) (lanes : W64) : Group :=
  completeFrames { g with frames := g.frames.map fun e => (e.1, { e.2 with mem := e.2.mem &&& ~~~lanes, arr := e.2.arr &&& ~~~lanes }) }

/-- No lane remains in any fibre or frame. -/
def Group.empty (g : Group) : Bool := g.fibres.isEmpty && g.frames.isEmpty

/-! Groups in the state. -/

/-- Change a group. -/
def modGroup (s : State) (gid : Nat) (h : Group → Group) : State := { s with groups := Tbl.modify s.groups gid h }
/-- Change a block. -/
def modBlock (s : State) (bsn : Nat) (h : Block → Block) : State := { s with blocks := Tbl.modify s.blocks bsn h }
/-- GIDX of a group. -/
def gidxOf (gid : Nat) : Nat := gid % 256
/-- The groups of a block that have not retired. -/
def groupsOf (s : State) (bsn : Nat) : List (Nat × Group) := s.groups.filter fun e => bsnOf e.1 == bsn
/-- The block core index of a group (R234). -/
def coreIdx (b : Block) (gid : Nat) : Nat := gidxOf gid % b.foot.bcores

/-- A core forgets what a group waited for at issue. -/
def Core.forget (c : Core) (gid : Nat) : Core :=
  { c with fragWait := c.fragWait.filter fun e => e.1.1 != gid, fragDead := c.fragDead.filter fun e => e.1 != gid,
           wantOwn := c.wantOwn.filter (· != gid) }

/-- A group leaves its active slot: its latches are lost (R92). -/
def leaveSlot (s : State) (gid : Nat) : State :=
  let s := { s with ready := s.ready.filter (· != gid), cores := s.cores.map fun e => (e.1, e.2.forget gid) }
  modGroup s gid fun g => { g with place := { g.place with slot := none }, regs := { g.regs with ring := [] } }

/-- A group waits: every runnable fibre is in the waiting state (R120, R340). -/
def beginWait (s : State) (gid : Nat) (w : Wait) : State :=
  let s := leaveSlot s gid
  modGroup s gid fun g =>
    { g with wait := some w, cur := none, starved := [],
             fibres := g.fibres.map fun e => if e.2.st == .runnable then (e.1, { e.2 with st := .waiting }) else e }

/-- The wait ends: the issuing fibre goes on at the next instruction, and the others become runnable. -/
def endWait (s : State) (gid : Nat) : State :=
  modGroup s gid fun g =>
    match g.wait with
    | none => g
    | some w =>
      { g with wait := none, readyAt := s.steps,
               fibres := g.fibres.map fun e =>
                 if e.2.st == .waiting then
                   (e.1, { e.2 with st := .runnable, pc := if e.1 = w.fib then e.2.pc + BitVec.ofNat 64 w.len else e.2.pc })
                 else e }

/-- The wait ends writing a scalar. -/
def endWaitWith (s : State) (gid : Nat) (v : W64) : State :=
  match Tbl.get? s.groups gid with
  | none => s
  | some g =>
    match g.wait with
    | some w => endWait (match w.dst with | some d => modGroup s gid (fun g => setSreg g d v) | none => s) gid
    | none => s

/-- The wait is withdrawn: the fibres become runnable, the issuing one at its instruction (R90, R139). -/
def dropWait (s : State) (gid : Nat) : State :=
  modGroup s gid fun g =>
    { g with wait := none, readyAt := s.steps,
             fibres := g.fibres.map fun e => if e.2.st == .waiting then (e.1, { e.2 with st := .runnable }) else e }

/-- The groups of a list whose `tb.fence` has nothing more to wait for go on (R216). -/
def recheckFences (s : State) (l : List Nat) : State :=
  match l with
  | [] => s
  | gid :: r =>
    match Tbl.get? s.groups gid with
    | some g =>
      match g.wait with
      | some w => recheckFences (if w.kind == .tbFence && !fenceDue s gid g then endWait s gid else s) r
      | none => recheckFences s r
    | none => recheckFences s r

/-- After fragments have exited or committed. -/
def checkFences (s : State) : State := if s.passes.isEmpty then s else recheckFences s (s.groups.map (·.1))

/-! The registers of a core (R77, R82, R234). -/

/-- A block is placed. -/
def blockResident (s : State) (bsn : Nat) : Bool := match Tbl.get? s.blocks bsn with | some b => !b.saved | none => false

/-- The groups on a core. -/
def residents (s : State) (core : Nat) : List (Nat × Group) :=
  s.groups.filter fun e => e.2.place.core == core && blockResident s (bsnOf e.1)

/-- The vector registers held in each partition of a core: base sets of its groups, and extended registers of any group of the core. -/
def partRegs (s : State) (core : Nat) : List Nat :=
  (List.range 8).map fun p =>
    (residents s core).foldl (fun n e => n + (if e.2.place.part == p then e.2.base else 0) + 8 * (e.2.ext.filter (· == p)).length) 0

/-- Partitions for `n` runs of 8 extended registers, each one with room, chosen freely (R77, R82; DESIGN CHOICE, log 18). -/
def placeExt (use : List Nat) (n ctr : Nat) : List Nat :=
  match n with
  | 0 => []
  | n + 1 =>
    let free := (List.range 8).filter fun p => nth use p 512 + 8 ≤ 512
    let p := nth free (Config.freeNat ctr % free.length) 0
    p :: placeExt (modifyAt use p (· + 8)) n (ctr + 1)

/-! Claims (R82 to R86). -/

/-- FREE(core) of a block. -/
def freeOf (b : Block) (gid : Nat) : Nat := (SMap.get b.free (coreIdx b gid)).toNat
/-- The allotment word (R88). -/
def allotWord (free total base : Nat) : W64 := BitVec.ofNat 64 (free * 2 ^ 32 + total * 2 ^ 16 + base)

/-- Change FREE(core). -/
def setFree (s : State) (gid v : Nat) : State :=
  modBlock s (bsnOf gid) fun b => { b with free := SMap.set b.free (coreIdx b gid) (BitVec.ofNat 16 v) }

/-- The claim queue of a core. -/
def claimsOf (s : State) (core : Nat) : List Nat := (Tbl.get? s.claimq core).getD []

/-- The head claim of a core, with its registers and the FREE it meets. -/
def headClaim (s : State) (core : Nat) : Option (Nat × Nat × Nat) :=
  match claimsOf s core with
  | [] => none
  | gid :: _ =>
    match Tbl.get? s.groups gid, Tbl.get? s.blocks (bsnOf gid) with
    | some g, some b =>
      match g.wait with
      | some w => match w.kind with | .claim n => some (gid, n, freeOf b gid) | _ => none
      | none => none
    | _, _ => none

/-- Grant the head claim: its registers lie in partitions of the core with free registers, chosen freely (R77, R82, R84). -/
def grantOne (s : State) (core gid n free : Nat) : State :=
  let s := setFree s gid (free - n)
  let e := placeExt (partRegs s core) (n / 8) s.freeCtr
  let s := modGroup { s with freeCtr := s.freeCtr + n / 8 } gid fun g =>
    { g with total := g.total + n, ext := g.ext ++ e,
             regs := { g.regs with vreg := SMap.keep g.regs.vreg fun k => k < g.total * 64 || (g.total + n) * 64 ≤ k } }
  let s := { s with claimq := Tbl.set s.claimq core ((claimsOf s core).drop 1) }
  match Tbl.get? s.groups gid with
  | some g => endWaitWith s gid (allotWord (free - n) g.total g.base)
  | none => s

/-- Grant head claims one after another while they are satisfiable (R85). -/
def grantClaims (s : State) (core fuel : Nat) : State :=
  match fuel with
  | 0 => s
  | k + 1 =>
    match headClaim s core with
    | some (gid, n, free) => if n ≤ free then grantClaims (grantOne s core gid n free) core k else s
    | none => s

/-- Grants on a core after a rise of FREE. -/
def grantHead (s : State) (core : Nat) : State := grantClaims s core (claimsOf s core).length

/-! Block and team barriers (R341). -/

/-- Live groups of a block, or of the team of a core index. -/
def liveOf (s : State) (bsn : Nat) (b : Block) (team : Option Nat) : Nat :=
  ((groupsOf s bsn).filter fun e => match team with | none => true | some c => coreIdx b e.1 == c).length

/-- A group waits at barrier n of the block, or of a team. -/
def waitsAt (b : Block) (team : Option Nat) (n gid : Nat) (g : Group) : Bool :=
  match g.wait with
  | none => false
  | some w =>
    match w.kind, team with
    | .barSync m, none => m == n
    | .barTeam m, some c => m == n && coreIdx b gid == c
    | _, _ => false

/-- A barrier's state. -/
def barOf (b : Block) (team : Option Nat) (n : Nat) : Barrier :=
  match team with
  | none => (Tbl.get? b.bars n).getD ⟨0, 0⟩
  | some c => (Tbl.get? b.teams (4 * c + n)).getD ⟨0, 0⟩

/-- Write a barrier's state. -/
def setBar (s : State) (bsn : Nat) (team : Option Nat) (n : Nat) (x : Barrier) : State :=
  modBlock s bsn fun b =>
    match team with
    | none => { b with bars := Tbl.set b.bars n x }
    | some c => { b with teams := Tbl.set b.teams (4 * c + n) x }

/-- Resume every group of a list. -/
def resumeAll (s : State) (l : List Nat) : State :=
  match l with
  | [] => s
  | gid :: r => resumeAll (endWait s gid) r

/-- COMPLETE(n): GEN rises, ARR is 0, the waiting groups go on. -/
def completeBar (s : State) (bsn : Nat) (b : Block) (team : Option Nat) (n : Nat) : State :=
  let x := barOf b team n
  let s := setBar s bsn team n ⟨x.gen + 1, 0⟩
  resumeAll s (((groupsOf s bsn).filter fun e => waitsAt b team n e.1 e.2).map (·.1))

/-- A barrier completes when its arrivals equal the live groups and are not none. -/
def recheckBar (s : State) (bsn : Nat) (team : Option Nat) (n : Nat) : State :=
  match Tbl.get? s.blocks bsn with
  | none => s
  | some b =>
    let x := barOf b team n
    if x.arr != 0 && x.arr == liveOf s bsn b team then completeBar s bsn b team n else s

/-- Every barrier of a block is rechecked when a group of it retires. -/
def recheckBars (s : State) (bsn gid : Nat) : State :=
  match Tbl.get? s.blocks bsn with
  | none => s
  | some b =>
    [0, 1, 2, 3].foldl (fun s n => recheckBar (recheckBar s bsn none n) bsn (some (coreIdx b gid)) n) s

/-! The Mash engine's side of a group: pending operations, flags, the rendezvous latch (R192, R193, R198). -/

/-- The status word of `mm.wait` (R198). -/
def statusWord (e : EngFlags) : W64 :=
  BitVec.ofNat 64 ((if e.sealed then 2048 else 0) + (if e.reset then 512 else 0) + (if e.abort then 256 else 0) + e.pend)
/-- The flags cleared by a report. -/
def EngFlags.cleared (e : EngFlags) : EngFlags := { e with reset := false, abort := false, sealed := false }
/-- Some flag is set. -/
def EngFlags.flagged (e : EngFlags) : Bool := e.reset || e.abort || e.sealed

/-- A group that waits in `mm.wait` with at most its count pending goes on: with the status written, or at the next instruction, or at the
`mm.wait` again where it has a fault to raise (DEDUCED, log 16). -/
def checkMmWait (s : State) (gid : Nat) : State :=
  match Tbl.get? s.groups gid with
  | none => s
  | some g =>
    match g.wait with
    | none => s
    | some w =>
      match w.kind with
      | .mmWait n =>
        if n < g.eng.pend then s
        else if w.dst.isSome then
          modGroup (endWaitWith s gid (statusWord g.eng)) gid fun g => { g with eng := g.eng.cleared }
        else if g.eng.flagged then dropWait s gid
        else endWait s gid
      | _ => s

/-- An operation of a group is over: PEND falls, a flag may rise (R193, R195, R203). -/
def opOver (s : State) (gid : Nat) (f : EngFlags → EngFlags) : State :=
  checkMmWait (modGroup s gid fun g => { g with eng := f { g.eng with pend := g.eng.pend - 1 } }) gid

/-- The same for every member of a list. -/
def opOverAll (s : State) (l : List Nat) (f : EngFlags → EngFlags) : State :=
  match l with
  | [] => s
  | gid :: r => opOverAll (opOver s gid f) r f

/-- Latch entries of a core that wait for a group: it is listed and has not joined. -/
def LatchEntry.awaits (e : LatchEntry) (gid : Nat) : Bool :=
  !e.closed && e.bsn == bsnOf gid && e.set.contains (gidxOf gid) && !e.joined.contains (gidxOf gid)

/-- Abort each entry of a list for its joined members (R193). -/
def abortEntries (s : State) (l : List LatchEntry) : State :=
  match l with
  | [] => s
  | e :: r => abortEntries (opOverAll s (e.joined.map fun x => e.bsn * 256 + x) fun f => { f with abort := true }) r

/-- Abort the open entries, in the latch of a core or saved with the block, that a group can no longer join (R193, R199). -/
def abortGang (s : State) (core gid : Nat) : State :=
  let held : List LatchEntry := match Tbl.get? s.saves (bsnOf gid) with | some e => (e.latch.map (·.2)).filter fun x => x.awaits gid | none => []
  let bad := ((coreOf s core).latch.filter fun e => e.awaits gid) ++ held
  if bad.isEmpty then s
  else
    let s := { s with saves := Tbl.modify s.saves (bsnOf gid) fun e => { e with latch := e.latch.filter fun (x : Nat × LatchEntry) => !x.2.awaits gid } }
    abortEntries (modCore s core fun c => { c with latch := c.latch.filter fun e => !e.awaits gid }) bad

/-! The end of a group. -/

/-- Pending records enter the trap queue as it has room, in ascending TIME, then handle (R148). -/
def minRec (l : List TrapRec) : Option TrapRec :=
  l.foldl (fun a r => match a with
    | none => some r
    | some m => if r.time < m.time || (r.time == m.time && r.handle.toNat < m.handle.toNat) then some r else some m) none

/-- Handler invocations of a context now running. -/
def inService (s : State) (cid : Nat) : Nat :=
  (s.groups.filter fun e => e.2.handler.isSome &&
    (match Tbl.get? s.blocks (bsnOf e.1) with | some b => b.ctx == cid | none => false)).length

/-- Let pending records into the queue, at most `n`. -/
def refillTraps (q : CtxQueues) (n : Nat) : CtxQueues :=
  match n with
  | 0 => q
  | n + 1 =>
    match minRec q.pending with
    | none => q
    | some r => refillTraps { q with trapq := q.trapq ++ [r], pending := q.pending.erase r } n

/-- The record of a handler invocation is consumed (R149). -/
def consumeRecord (s : State) (cid : Nat) : State :=
  let n := inService s cid
  modCtx s cid fun c => { c with queues := refillTraps c.queues (256 - n - c.queues.trapq.length) }

/-! What engines hold for a block, and its end (R11, R188, R193, R199, R320). -/

/-- A slot is named by an operation or copy not yet over. -/
def slotBusy (c : Core) (n : Nat) : Bool :=
  c.mashq.any (fun o => o.slotsA.contains n || o.slotsB.contains n) || c.kicks.any (fun q => q.phys.contains n)

/-- The slots of a core whose block is gone and which nothing uses are free, and their bytes are lost (R188, R199). -/
def sweepSlots (s : State) (core : Nat) : State :=
  let c := coreOf s core
  let dead := (c.slots.filter fun e => (Tbl.get? s.blocks e.2.bsn).isNone && !slotBusy c e.1).map (·.1)
  if dead.isEmpty then s
  else
    modCore s core fun c =>
      { c with slots := c.slots.filter (fun e => !dead.contains e.1), opmem := SMap.keep c.opmem fun k => !dead.contains (k / 4096) }

/-- Something that R11 counts for a block is still due: accesses, peer acknowledgements, copies, `acc.st`. -/
def blockDue (s : State) (bsn : Nat) : Bool :=
  inFlight s (fun a => bsnOf a.gid == bsn)
    || s.cores.any fun e => e.2.kicks.any (fun q => bsnOf q.gid == bsn)
        || e.2.mashq.any fun o => o.members.any (fun g => bsnOf g == bsn) && (match o.kind with | .st _ _ => true | _ => false)

/-- Tag line bytes are kept by block core index. -/
def tagKey (idx off : Nat) : Nat := idx * 2 ^ 21 + off

/-- Where a block keeps a private byte of a group. (DESIGN CHOICE, log 32) -/
def privKey (gid o : Nat) : Nat := gid % 256 * 2 ^ 20 + o

/-- The bytes of the scratchpad of a block's core, by address, as its first group on that core names them (R157). -/
def scratchLeft (b : Block) (idx : Nat) : SMap 8 :=
  let line := fun (k : Nat) => k / 256 % b.foot.bcores == idx
  rangeAt b.priv (privKey idx 0) (2 ^ 20) 0 ++ (b.shared.filter fun e => line e.1).map (fun e => (0x40000000 + e.1, e.2))
    ++ rangeAt b.tlines (tagKey idx 0) (2 ^ 21) 0xC0000000

/-- A block leaves its cores, whose scratchpads keep its bytes until another is placed there (R157, R413; DESIGN CHOICE, log 32). -/
def leaveScratch (s : State) (bsn : Nat) : State :=
  match Tbl.get? s.blocks bsn with
  | none => s
  | some b =>
    match Tbl.get? s.ctxs b.ctx with
    | none => s
    | some c =>
      if b.saved then s
      else (List.range b.lcores.length).foldl (fun s j =>
        modCore s (nth c.cores (nth b.lcores j 0) 0) fun k => { k with spad := scratchLeft b j }) s

/-- A block that has ended leaves its cores; barrier updates that never came due go with it (R188). -/
def dropBlock (s : State) (bsn : Nat) : State :=
  let s := leaveScratch s bsn
  let s := { s with blocks := Tbl.erase s.blocks bsn, saves := Tbl.erase s.saves bsn,
                    mem := { s.mem with pend := s.mem.pend.filter fun p => match p with | .barrier g _ _ _ => bsnOf g != bsn | _ => true } }
  checkLadders ((s.cores.map (·.1)).foldl sweepSlots s)

/-- A group ends: its extended registers return (R82), barriers and claims are rechecked; a handler's record is consumed, and its block goes
once what it had issued is over; a point's block stays until POINT_RETIRE (R11, R130, R137). -/
def endGroup (s : State) (gid : Nat) : State :=
  match Tbl.get? s.groups gid with
  | none => s
  | some g =>
    let bsn := bsnOf gid
    let s := texOver s gid
    let s := { s with groups := Tbl.erase s.groups gid, ready := s.ready.filter (· != gid),
                      cores := s.cores.map (fun e => (e.1, e.2.forget gid)),
                      claimq := s.claimq.map fun e => (e.1, e.2.filter (· != gid)) }
    match Tbl.get? s.blocks bsn with
    | none => s
    | some b =>
      let s := if b.saved then s else setFree s gid (freeOf b gid + (g.total - g.base))
      let s := recheckBars s bsn gid
      let s := abortGang s g.place.core gid
      let s := if b.saved then s else endBurst s g.place.core gid
      let s := checkFences (grantHead s g.place.core)
      if g.handler.isSome then (let s := consumeRecord s b.ctx; if blockDue s bsn then checkLadders s else dropBlock s bsn) else checkLadders s

/-- The cores forget what fibres that a group no longer has waited for at a fragment read (R115). -/
def dropStale (s : State) (gid : Nat) (g : Group) : State :=
  let live := fun (e : Nat × Nat) => e.1 != gid || (Tbl.get? g.fibres e.2).isSome
  if s.cores.all fun e => e.2.fragWait.all (fun x => live x.1) && e.2.fragDead.all live then s
  else { s with cores := s.cores.map fun e =>
    (e.1, { e.2 with fragWait := e.2.fragWait.filter (fun x => live x.1), fragDead := e.2.fragDead.filter live }) }

/-- After the group's fibres changed at a switch point: it retires, selects a fibre, or leaves its slot (R92, R121, R130). -/
def afterSwitch (s : State) (gid : Nat) (yielder : Option Nat) : State :=
  match Tbl.get? s.groups gid with
  | none => s
  | some g =>
    if g.empty then endGroup s gid
    else if g.wait.isSome then s
    else
      let s := if g.frag.isSome then checkFences s else s
      let g := switchPoint g yielder
      let s := dropStale s gid g
      if g.place.slot.isNone then modGroup s gid fun _ => { g with cur := none }
      else
        let s := modGroup s gid fun _ => g
        if g.cur.isNone then leaveSlot s gid else s

end Sys2Proof.Machine
end

