-- ==== Sys2Proof/Machine/Work.lean ====
section
/-! DEFINITION. Records, launches and their retirement and cancel, events to the host, and the stop of a context (R11, R14, R220 to R232, R348 to R350). -/

namespace Sys2Proof.Machine

/-! Completion counter objects (R348, R349). -/

/-- STAT of a retirement. -/
def statCode (r : RetSt) : Nat :=
  match r with
  | .normal => 0
  | .cancelled => 1
  | .conflict => 2

/-- The bytes that an object takes: COUNT + 1, STAT, TSTAMP. -/
def objBytes (old : Nat) (st : RetSt) (time : Nat) : List Byte :=
  natLE 8 ((old % 2 ^ 62 + 1) % 2 ^ 62 + statCode st * 2 ^ 62) ++ natLE 8 time

/-- The group number of a launch's own writes to peer pages, and of no group. -/
def launchGid (lid : Nat) : Nat := 2 ^ 64 + lid
/-- The group number of the writes of objects to peer pages. -/
def objGid : Nat := 2 ^ 63

/-- COUNT + 1, STAT, TSTAMP (R349); an object on a peer page is written over the fabric. -/
def bumpObj (s : State) (cid : Nat) (o : Option ObjRef) (st : RetSt) : State :=
  match o with
  | none => s
  | some o =>
    let bs := objBytes (leNat (readPhys s.mem o.space o.pa 8)) st (timeFor s (ctxVf s cid))
    match o.space with
    | .peer _ =>
      sendPeer { s with mem := { s.mem with tick := s.mem.tick + 1 } }
        { gid := objGid, pc := 0, ctx := cid, lane := 0, seq := s.steps, space := o.space, pa := o.pa, n := 16, kind := .release, vpa := o.vpa,
          world := 0, op := .store bs, dst := none, val := none, micro := none, tied := none }
    | sp => writeFor s cid sp o.pa o.vpa bs

/-! Queue slots (R219). -/

/-- A free slot. -/
def QSlot.reset : QSlot :=
  { rbase := 0, tail := 0, head := 0, log2n := 0, pri := 0, vf := 0, ctx := 0, err := 0, st := 0, wake := 0, last := none }
/-- A slot's state. -/
def slotOf (s : State) (n : Nat) : QSlot := (Tbl.get? s.slots n).getD QSlot.reset
/-- Change a slot. -/
def modSlot (s : State) (n : Nat) (f : QSlot → QSlot) : State := { s with slots := Tbl.set s.slots n (f (slotOf s n)) }
/-- The records of a slot, oldest first. -/
def recsOf (s : State) (slot : Nat) : List (Nat × Rec) := s.recs.filter fun e => e.2.slot == slot
/-- Change a record. -/
def modRec (s : State) (rid : Nat) (f : Rec → Rec) : State := { s with recs := Tbl.modify s.recs rid f }

/-! Timelines (R318, R346, R347). -/

/-- The value of a timeline of a context: KIND 1 the copy timeline of a logical core, 2 the collective timeline, 3 a present queue's. -/
def timelineVal (s : State) (cid kind idx : Nat) : W64 :=
  match kind with
  | 3 => (match Tbl.get? s.pix.pqs idx with | some q => q.tl | none => 0)
  | k =>
    match Tbl.get? s.ctxs cid with
    | none => 0
    | some c => if k = 2 then c.counts.coll else SMap.get c.counts.copyTl idx

/-- The timeline waits of a list of groups that are satisfied end with the value (R347). -/
def recheckTls (s : State) (l : List Nat) : State :=
  match l with
  | [] => s
  | gid :: r =>
    match Tbl.get? s.groups gid, Tbl.get? s.blocks (bsnOf gid) with
    | some g, some b =>
      match g.wait with
      | some w =>
        match w.kind with
        | .tlWait k i v =>
          let t := timelineVal s b.ctx k i
          recheckTls (if v.toNat ≤ t.toNat then endWaitWith s gid t else s) r
        | _ => recheckTls s r
      | none => recheckTls s r
    | _, _ => recheckTls s r

/-- After a timeline has risen. -/
def checkTimelines (s : State) : State := recheckTls s (s.groups.map (·.1))

/-- The least number of an outstanding request of a context's logical core. -/
def leastCopy (s : State) (cid lcore : Nat) : Option Nat :=
  s.cores.foldl (fun a e => e.2.kicks.foldl (fun a q =>
    if q.ctx == cid && q.lcore == lcore then (match a with | some m => some (min m q.num) | none => some q.num) else a) a) none

/-- The copy timeline holds the greatest m with every request up to m retired (R318). -/
def markCopies (s : State) (cid lcore : Nat) : State :=
  let v := fun (k : CtxCounts) =>
    match leastCopy s cid lcore with
    | some m => BitVec.ofNat 64 (m - 1)
    | none => SMap.get k.ctr lcore
  checkTimelines (modCounts s cid fun k => { k with copyTl := SMap.set k.copyTl lcore (v k) })

/-- The same for every pair of a list. -/
def markAll (s : State) (l : List (Nat × Nat)) : State :=
  match l with
  | [] => s
  | e :: r => markAll (markCopies s e.1 e.2) r

/-! What engines hold for a block (R188, R193, R199, R320). -/

/-- A block's open latch entries go without ABORT, and its copies that have not begun retire failed (R199, R320). -/
def dropEngines (s : State) (bsn : Nat) : State :=
  let gone := fun (q : CopyReq) => bsnOf q.gid == bsn && q.moved == 0
  let l := s.cores.flatMap fun e => (e.2.kicks.filter gone).map fun q => (q.ctx, q.lcore)
  let ends := (s.cores.filter fun e => e.2.kicks.any gone && e.2.kicks.all gone).map (·.1)
  let s := ends.foldl (fun s c => kilnEnd s (.grist c)) s
  let s := { s with cores := s.cores.map fun e =>
    (e.1, { e.2 with latch := e.2.latch.filter (fun x => x.closed || x.bsn != bsn), kicks := e.2.kicks.filter fun q => !gone q }) }
  markAll s l

/-! Blocks. -/

/-- End every group of a list. -/
def endAll (s : State) (l : List Nat) : State :=
  match l with
  | [] => s
  | gid :: r => endAll (endGroup s gid) r

/-- End a block with all its groups at once; what it held is free. -/
def endBlock (s : State) (bsn : Nat) : State :=
  let s := dropEngines s bsn
  let s := leaveScratch (endAll s ((groupsOf s bsn).map (·.1))) bsn
  let s := { s with blocks := Tbl.erase s.blocks bsn, saves := Tbl.erase s.saves bsn }
  (s.cores.map (·.1)).foldl sweepSlots s

/-- End every block of a list at once. -/
def endBlocks (s : State) (l : List Nat) : State :=
  match l with
  | [] => s
  | b :: r => endBlocks (endBlock s b) r

/-- A cancelled block: its groups end and its engine work that has not begun is gone; it leaves its cores once what had begun is over (R14, R320). -/
def haltBlock (s : State) (bsn : Nat) : State :=
  let s := endAll (dropEngines s bsn) ((groupsOf s bsn).map (·.1))
  if blockDue s bsn then s else dropBlock s bsn

/-- The same for every block of a list. -/
def haltBlocks (s : State) (l : List Nat) : State :=
  match l with
  | [] => s
  | b :: r => haltBlocks (haltBlock s b) r

/-- A block runs a point of a launch. -/
def Block.ofLaunch (b : Block) (lid : Nat) : Bool := match b.of with | .point l _ => l == lid | _ => false
/-- A block works for a pass. -/
def Block.ofPass (b : Block) (pid : Nat) : Bool := match b.of with | .pass p _ _ => p == pid | _ => false
/-- The blocks of a launch. -/
def launchBlocks (s : State) (lid : Nat) : List Nat := (s.blocks.filter fun e => e.2.ofLaunch lid).map (·.1)
/-- The blocks of a pass. -/
def passBlocks (s : State) (pid : Nat) : List Nat := (s.blocks.filter fun e => e.2.ofPass pid).map (·.1)

/-! Retirement (R11, R220, R222, R230). -/

/-- The key order of tails (R229). -/
def tailLe (a b : Tail) : Bool :=
  a.rank < b.rank || (a.rank == b.rank && (a.lane < b.lane || (a.lane == b.lane && a.tc ≤ b.tc)))

/-- Insert a tail by key. -/
def insertTail (t : Tail) (l : List Tail) : List Tail :=
  match l with
  | [] => [t]
  | x :: r => if tailLe t x then t :: x :: r else x :: insertTail t r

/-- Tails in ascending key. -/
def sortTails (l : List Tail) : List Tail := l.foldr insertTail []

/-- A launch that begins: nothing fired. -/
def newLaunch (ctx slot rid member : Nat) (d : Desc) (addr : W64) (obj : Option ObjRef) (chain : List Tail) : Launch :=
  { ctx := ctx, slot := slot, recId := rid, member := member, desc := d, addr := addr, st := .running, status := .normal,
    flying := [], done := [], rows := [], retn := 0, lser := 0, cut := false, area := none, entry := false, pages := [], log := [], tails := [],
    chain := chain, obj := obj, tiled := false }

/-- A launch that can begin does: its record is written in the range allotted to it. Else it waits for a range (R253). -/
def tryBegin (s : State) (lid : Nat) : State :=
  match Tbl.get? s.launches lid with
  | none => s
  | some l =>
    match Tbl.get? s.ctxs l.ctx with
    | none => s
    | some c =>
      match allotArea s c l with
      | none => s
      | some a => newRecord (modLaunch s lid fun l => { l with st := .running, area := a }) { l with area := a }

/-- The turn of a launch to begin has come (R220, R253). -/
def beginLaunch (s : State) (l : Launch) : State :=
  tryBegin { s with launches := Tbl.set s.launches s.nextLaunch { l with lser := s.nextLaunch, st := .waiting }, nextLaunch := s.nextLaunch + 1 }
    s.nextLaunch

/-- A range is free again: the launches of a context that wait for one try, oldest first. -/
def beginWaiting (s : State) (cid : Nat) : State :=
  ((s.launches.filter fun e => e.2.ctx == cid && e.2.st == .waiting).map (·.1)).foldl tryBegin s

/-- A dependence counter rises by 1, saturating (R220). -/
def signalDepc (s : State) (sdc : Option Nat) : State :=
  match sdc with
  | none => s
  | some n =>
    let v := SMap.get s.depc n
    if v = BitVec.allOnes 16 then s else { s with depc := SMap.set s.depc n (v + 1) }

/-- Change what a context still owes. -/
def modDues (s : State) (cid : Nat) (f : List Due → List Due) : State :=
  modCtx s cid fun c => { c with queues := { c.queues with dues := f c.queues.dues } }
/-- An object's rise is owed, where there is one. -/
def oweObj (o : Option ObjRef) (st : RetSt) : List Due := match o with | some o => [.obj o st] | none => []
/-- A record's retirement waits for its object. -/
def recOwed (s : State) (rid : Nat) : Bool :=
  s.ctxs.any fun e => e.2.queues.dues.any fun d => match d with | .record r _ => r == rid | _ => false

/-- Every write of a context to a peer page is acknowledged, those still to leave among them (R349, R376). -/
def allAcked (s : State) (cid : Nat) : Bool :=
  (match Tbl.get? s.ctxs cid with | some c => c.counts.ack == 0 | none => true)
    && !(s.mem.pend.any fun p => match p with | .acc a => a.ctx == cid && a.writes && a.isPeer && a.val.isNone | _ => false)

/-- A record whose object has risen retires: the job counter counts it, SDC is signalled (R220, R350). -/
def recordGo (s : State) (rid : Nat) : State :=
  match Tbl.get? s.recs rid with
  | none => s
  | some r =>
    signalDepc (modCounts { s with recs := Tbl.erase s.recs rid } (slotOf s r.slot).ctx fun k => { k with job := k.job + 1 }) r.sdc

/-- A record retires: at once where it has no object (a launch record's is its launch's), else once the object's rise is acknowledged (R220, R349). -/
def oweRec (s : State) (rid : Nat) (st : RetSt) : State :=
  match Tbl.get? s.recs rid with
  | none => s
  | some r =>
    match r.obj with
    | none => recordGo s rid
    | some o => if recOwed s rid then s else modDues s (slotOf s r.slot).ctx fun l => l ++ [.obj o st, .record rid st]

/-- The launches of a graph whose predecessors have all retired and that have not begun. -/
def graphReady (r : Rec) (pm : List Nat) (n : Nat) : List Nat :=
  (List.range n).filter fun i =>
    !r.went.contains i && (List.range i).all fun j => !(nth pm i 0).testBit j || r.gone.contains j

/-- Begin the ready members of a graph (R222). -/
def beginMembers (s : State) (rid : Nat) (r : Rec) (ms : List (Desc × W64)) (l : List Nat) : State :=
  match l with
  | [] => s
  | i :: t =>
    match ms[i]? with
    | none => beginMembers s rid r ms t
    | some d =>
      let s := beginLaunch s (newLaunch (slotOf s r.slot).ctx r.slot rid i d.1 d.2 (nth r.objs i none) [])
      beginMembers (modRec s rid fun r => { r with went := r.went ++ [i] }) rid r ms t

/-- The launches of a record that have begun and not retired. -/
def recLaunches (s : State) (rid : Nat) : List Nat := (s.launches.filter fun e => e.2.recId == rid).map (·.1)

/-- A pass whose tiles are all stored and whose launches have retired is to retire (R220). -/
def passOver (s : State) (rid : Nat) : State :=
  match Tbl.get? s.recs rid, Tbl.get? s.passes rid with
  | some r, some p =>
    match r.body with
    | .pass h _ =>
      if p.stored.length == h.tx * h.ty && (recLaunches s rid).isEmpty then oweRec { s with passes := Tbl.erase s.passes rid } rid .normal
      else s
    | _ => s
  | _, _ => s

/-- A cancelled pass is to retire when its launches have, and the blocks that it had begun are over (R14, R349). -/
def cancelledOver (s : State) (rid : Nat) : State :=
  match Tbl.get? s.recs rid with
  | none => s
  | some r =>
    match r.body with
    | .pass _ _ => if r.status == .cancelled && (recLaunches s rid).isEmpty && (passBlocks s rid).isEmpty then oweRec s rid .cancelled else s
    | _ => s

/-- A member of a record has retired with its chain (R220, R222, R230). -/
def memberDone (s : State) (rid member : Nat) (st : RetSt) : State :=
  match Tbl.get? s.recs rid with
  | none => s
  | some r =>
    match r.body with
    | .launch _ _ => oweRec s rid st
    | .graph ms pm _ =>
      let st' := if r.status == .cancelled then RetSt.cancelled else .normal
      let r := { r with gone := r.gone ++ [member] }
      let s := { s with recs := Tbl.set s.recs rid r }
      if r.gone.length == ms.length then oweRec s rid st'
      else beginMembers s rid r ms (graphReady r pm ms.length)
    | .pass _ _ => cancelledOver (passOver { s with passes := Tbl.modify s.passes rid fun p => { p with done := p.done ++ [member] } } rid) rid
    | .wait _ => s

/-- A launch whose object has risen: its tails and the rest of its chain go on, else its member is done (R11, R230). -/
def launchGo (s : State) (lid : Nat) : State :=
  match Tbl.get? s.launches lid with
  | none => s
  | some l =>
    let s := beginWaiting { s with launches := Tbl.erase s.launches lid } l.ctx
    match sortTails l.tails ++ l.chain with
    | t :: r => beginLaunch s (newLaunch l.ctx l.slot l.recId l.member t.desc t.addr t.obj r)
    | [] => memberDone s l.recId l.member l.status

/-- One thing that a context owes is done. -/
def runDue (s : State) (cid : Nat) (d : Due) : State :=
  match d with
  | .obj o st => bumpObj s cid (some o) st
  | .launch lid => launchGo s lid
  | .record rid _ => recordGo s rid

/-- What a context's retirements owe, in order, each thing once no write of the context to a peer page waits for its acknowledgement: an object on
a peer page is waited for as well (R349, R376). -/
def runDues (s : State) (cid fuel : Nat) : State :=
  match fuel with
  | 0 => s
  | n + 1 =>
    match Tbl.get? s.ctxs cid with
    | none => s
    | some c =>
      match c.queues.dues with
      | [] => s
      | d :: r => if allAcked s cid then runDues (runDue (modDues s cid fun _ => r) cid d) cid n else s

/-- The length of a context's dues, with room for what each brings: a launch's end the retirement of its record. -/
def duesFuel (s : State) (cid : Nat) : Nat := match Tbl.get? s.ctxs cid with | some c => 4 * c.queues.dues.length + 4 | none => 0

/-- Do what a context owes, as far as it may be done. -/
def payDues (s : State) (cid : Nat) : State := runDues s cid (duesFuel s cid)

/-- The context of a record. -/
def recCtx (s : State) (rid : Nat) : Nat := match Tbl.get? s.recs rid with | some r => (slotOf s r.slot).ctx | none => 0

/-- A record retires: its object (graph, pass) rises, the job counter counts it, SDC is signalled (R220, R349, R350). -/
def retireRec (s : State) (rid : Nat) (st : RetSt) : State := payDues (oweRec s rid st) (recCtx s rid)
/-- A pass retires where it is over (R220). -/
def finishPass (s : State) (rid : Nat) : State := payDues (passOver s rid) (recCtx s rid)
/-- A cancelled pass retires where it is over (R14). -/
def finishCancelled (s : State) (rid : Nat) : State := payDues (cancelledOver s rid) (recCtx s rid)

/-- A launch retires: its object, if it has one, rises, and then its tails and the rest of its chain go on, else its member is done (R11, R230,
R349). -/
def retireLaunch (s : State) (lid : Nat) (st : RetSt) (tails chain : List Tail) : State :=
  match Tbl.get? s.launches lid with
  | none => s
  | some l =>
    let s := modLaunch s lid fun l => { l with st := .retiring, status := st, tails := tails, chain := chain }
    payDues (match l.obj with | some o => modDues s l.ctx (fun d => d ++ [.obj o st, .launch lid]) | none => launchGo s lid) l.ctx

/-! Cancel (R14). -/

/-- A cancelled launch whose blocks are gone retires (R14, R349). -/
def finishLaunch (s : State) (lid : Nat) : State :=
  match Tbl.get? s.launches lid with
  | none => s
  | some l => if l.st == .cancelled && (launchBlocks s lid).isEmpty then retireLaunch s lid .cancelled [] l.chain else s

/-- Cancel a launch: its groups end, its contributions, tails and frontier go, and it retires cancelled once the accesses and copies that had begun
are over; `whole` drops the rest of its chain. A launch whose commit has begun, or that retires, is left alone (R14, R349). The tails that it had
listed, cancelled before they begin, raise no object, though unbegun members of a graph do (DESIGN CHOICE, log 143). -/
def cancelLaunch (s : State) (lid : Nat) (whole : Bool) : State :=
  match Tbl.get? s.launches lid with
  | none => s
  | some l =>
    if l.st == .committed || l.st == .retiring then s
    else
      let s := modLaunch s lid fun l =>
        { l with st := .cancelled, status := .cancelled, log := [], tails := [], chain := if whole then [] else l.chain, rows := [], pages := [],
                 entry := false, area := none }
      finishLaunch (haltBlocks (beginWaiting s l.ctx) (launchBlocks s lid)) lid

/-- Cancel every launch of a list with its chain. -/
def cancelLaunches (s : State) (l : List Nat) : State :=
  match l with
  | [] => s
  | x :: r => cancelLaunches (cancelLaunch s x true) r

/-- The objects of launches that never began are to rise with cancelled status (R14). -/
def oweMembers (s : State) (cid : Nat) (l : List (Option ObjRef)) : State := modDues s cid fun d => d ++ l.flatMap fun o => oweObj o .cancelled

/-- Cancel a graph: its launches not begun never begin, those begun are cancelled, and it retires cancelled (R14). -/
def cancelGraph (s : State) (rid : Nat) (r : Rec) (n : Nat) : State :=
  let unbegun := (List.range n).filter fun i => !r.went.contains i
  let s := payDues (oweMembers s (slotOf s r.slot).ctx (unbegun.map fun i => nth r.objs i none)) (slotOf s r.slot).ctx
  let s := modRec s rid fun r => { r with status := .cancelled, went := List.range n, gone := r.gone ++ unbegun }
  let live := recLaunches s rid
  if live.isEmpty then retireRec s rid .cancelled else cancelLaunches s live

/-- Cancel a pass: its blocks and launches end and it retires cancelled (R14). -/
def cancelPass (s : State) (rid : Nat) : State :=
  let s := modRec s rid fun r => { r with status := .cancelled }
  let s := haltBlocks { s with passes := Tbl.erase s.passes rid } (passBlocks s rid)
  let l := recLaunches s rid
  finishCancelled (cancelLaunches s l) rid

/-- Cancel one begun record (R14, R225). -/
def cancelRec (s : State) (rid : Nat) : State :=
  match Tbl.get? s.recs rid with
  | none => s
  | some r =>
    if recOwed s rid then s
    else match r.body with
    | .launch _ _ => cancelLaunches s (recLaunches s rid)
    | .graph ms _ _ => cancelGraph s rid r ms.length
    | .pass _ _ => cancelPass s rid
    | .wait _ => retireRec (modSlot s r.slot fun q => { q with st := if q.st = 2 then 1 else q.st }) rid .cancelled

/-- Cancel every begun record of a list; discard the others. -/
def cancelRecs (s : State) (l : List (Nat × Rec)) : State :=
  match l with
  | [] => s
  | (rid, r) :: t => cancelRecs (if r.begun then cancelRec s rid else { s with recs := Tbl.erase s.recs rid }) t

/-- The slots of a context. -/
def slotsOf (s : State) (cid : Nat) : List Nat := (s.slots.filter fun e => e.2.st != 0 && e.2.ctx == cid).map (·.1)

/-- Cancel a slot's records; those not taken are discarded. -/
def cancelSlot (s : State) (slot : Nat) : State :=
  modSlot (cancelRecs s (recsOf s slot)) slot fun q => { q with head := q.tail }

/-- Cancel a context's job: every slot (R14). -/
def cancelJob (s : State) (cid : Nat) : State := (slotsOf s cid).foldl cancelSlot s

/-- The blocks of a context. -/
def ctxBlocks (s : State) (cid : Nat) : List Nat := (s.blocks.filter fun e => e.2.ctx == cid).map (·.1)

/-- Stop a context (R149, R150): its jobs are cancelled, its invocations end, and the host is told by an event of class 5 whose PAY is the image. (DEDUCED, log 111) -/
def stopContext (s : State) (cid : Nat) (image : W64) : State :=
  let s := cancelJob s cid
  let s := haltBlocks s (ctxBlocks s cid)
  let s := modCtx s cid fun c => { c with stopped := true }
  tellHost (devEvent s cid 5 0 image) (match Tbl.get? s.ctxs cid with | some c => c.vf | none => 0) (.stopped cid)

/-- A wait record retires when WAKE meets its mask (R225). -/
def checkWake (s : State) (slot : Nat) : State :=
  let q := slotOf s slot
  if q.st != 2 then s
  else
    match (recsOf s slot).find? fun e => e.2.begun && (match e.2.body with | .wait mw => q.wake &&& mw != 0 | _ => false) with
    | some e => retireRec (modSlot s slot fun q => { q with st := 1 }) e.1 .normal
    | none => s

end Sys2Proof.Machine
end

