-- ==== Sys2Proof/Machine/Ops.lean ====
section
/-! DEFINITION. The issuing fibre, its registers, and taking an exception: parking lanes, trap records, resuming (R58, R92, R94, R132 to R151, R380). -/

namespace Sys2Proof.Machine

/-- What a step answers. -/
abbrev Out := Host.Outcome State Fault Refusal

/-- The issuing fibre with its group, block and context. -/
structure Here where
  gid : Nat
  g : Group
  fid : Nat
  f : Fibre
  b : Block
  cid : Nat
  c : Ctx
  deriving DecidableEq, Repr

/-- The fibre at issue: the current fibre of the group at the head of the issue order. -/
def State.here (s : State) : Option Here :=
  match s.ready with
  | [] => none
  | gid :: _ =>
    match Tbl.get? s.groups gid, Tbl.get? s.blocks (bsnOf gid) with
    | some g, some b =>
      match g.cur with
      | none => none
      | some k =>
        match Tbl.get? g.fibres k, Tbl.get? s.ctxs b.ctx with
        | some f, some c => some { gid := gid, g := g, fid := k, f := f, b := b, cid := b.ctx, c := c }
        | _, _ => none
    | _, _ => none

/-- Run an instruction of the issuing fibre. (DESIGN CHOICE, log 108) -/
def issue (s : State) (k : Here → State) : Out :=
  match s.here with
  | none => .fault .noIssuingGroup
  | some h => .next (k h)

/-- The issuing core. -/
def Here.core (h : Here) : Nat := h.g.place.core
/-- The issuing block. -/
def Here.bsn (h : Here) : Nat := bsnOf h.gid
/-- The index of the issuing core in its block. -/
def Here.idx (h : Here) : Nat := coreIdx h.b h.gid
/-- The logical core of the issuing core (R185). -/
def Here.lcore (h : Here) : Nat := nth h.b.lcores h.idx 0
/-- The issuing group was entered as a handler. -/
def Here.isHandler (h : Here) : Bool := h.g.handler.isSome
/-- A mask register's lanes (R80). -/
def Group.maskOf (g : Group) (k : Nat) : W64 := if k = 0 then lanesOf g.w else SMap.get g.regs.kreg k
/-- The mask number of a prefix. -/
def mskOf (p : Option Prefix) : Nat := match p with | some q => q.msk.toNat | none => 0
/-- ZRO of a prefix. -/
def zroOf (p : Option Prefix) : Bool := match p with | some q => q.zro | none => false
/-- The active lanes under a mask number (R80). -/
def Here.act (h : Here) (msk : Nat) : W64 := h.f.pred &&& h.g.maskOf msk

/-- The launch of a block that runs a point, with its rank. -/
def pointOf (b : Block) : Option (Nat × Nat) := match b.of with | .point l r => some (l, r) | _ => none

/-- Length in bytes of a 32-bit form with its prefix (R38, R39). -/
def lenOf (p : Option Prefix) : Nat := match p with | some _ => 8 | none => 4

/-- Write the issuing fibre. -/
def Here.setFib (h : Here) (s : State) (f : Fibre → Fibre) : State := modGroup s h.gid fun g => modFibre g h.fid f

/-- The issuing fibre goes on `len` bytes further. -/
def Here.advance (h : Here) (s : State) (len : Nat) : State :=
  h.setFib s fun f => { f with pc := f.pc + BitVec.ofNat 64 len }

/-! Traps (R132, R133, R147 to R151). -/

/-- A parked-fibre handle (R133). -/
def handleOf (gid fnum : Nat) : W64 := BitVec.ofNat 64 (bsnOf gid % 2 ^ 32 * 65536 + gidxOf gid * 256 + fnum)
/-- The CAUSE image (R142, R147). -/
def causeOf (cls code sub : Nat) : W64 := BitVec.ofNat 64 (cls * 2 ^ 32 + code * 2 ^ 20 + sub)

/-- Place a trap record (R147 to R149): queued, or pending where the queue is full; a context with no handler kernel stops. A record that parks no
fibre is pending as any other is (DESIGN CHOICE, log 128: R148 speaks of a parked fibre's). -/
def placeRecord (s : State) (cid : Nat) (r : TrapRec) : State :=
  match Tbl.get? s.ctxs cid with
  | none => s
  | some c =>
    if c.handler.isNone then stopContext s cid r.cause
    else
      let full := 256 ≤ c.queues.trapq.length + inService s cid
      modCtx s cid fun c =>
        if full then { c with queues := { c.queues with pending := c.queues.pending ++ [r] } }
        else { c with queues := { c.queues with trapq := c.queues.trapq ++ [r] } }

/-- Park a set of lanes of the issuing fibre at an address (R132): the whole fibre, or a new parked fibre while the rest keeps the
slot. Answers the parked fibre's number. -/
def parkIn (g : Group) (fid : Nat) (f : Fibre) (p pc : W64) (micro : Option Micro) : Group × Nat :=
  let parked := { f with pc := pc, pred := p, st := .parked, micro := micro }
  if p = f.pred then (unstarve { g with fibres := Tbl.set g.fibres fid parked } fid, fid)
  else
    let k := freeSlot g.fibres
    let g := modFibre g fid fun x => { x with pred := x.pred &&& ~~~p }
    ({ g with fibres := Tbl.set g.fibres k { parked with sc := 0 } }, k)

/-- Park a set of lanes of a fibre at `pc`: the group loses its latches (R92), and what it issued before is performed first (R374). Answers the parked
fibre's number, and whether the whole fibre parked. -/
def parkLanes (s : State) (h : Here) (lanes pc : W64) (micro : Option Micro) : Option (State × Nat × Bool) :=
  match Tbl.get? s.groups h.gid with
  | none => none
  | some g0 =>
    match Tbl.get? g0.fibres h.fid with
    | none => none
    | some f0 =>
      let r := parkIn g0 h.fid f0 lanes pc micro
      let g := { r.1 with regs := { r.1.regs with ring := [] } }
      some (drainGroup (modGroup s h.gid fun _ => g) h.gid, r.2, lanes == f0.pred)

/-- The record of a parked fibre (R147). -/
def trapRec (s : State) (h : Here) (fnum : Nat) (tpc : W64) (cls code sub : Nat) (addr : W64) : TrapRec :=
  { handle := handleOf h.gid fnum, cause := causeOf cls code sub, pc := tpc &&& ~~~1, addr := addr, time := s.time,
    pt := h.b.pt, slot := h.b.slot, since := some (h.gid, s.steps) }

/-- Take an exception for a set of lanes: park them at `pc` (R132), lose the latches (R92), place the record (R147), or stop the
context where a handler faults (R150). `tpc` is TRAPPC. What the group issued before is performed first (R374). -/
def takeTrap (s : State) (h : Here) (lanes pc tpc : W64) (cls code sub : Nat) (addr : W64) (micro : Option Micro) : State :=
  match parkLanes s h lanes pc micro with
  | none => s
  | some (s, fnum, whole) =>
    if h.isHandler && cls == 1 then stopContext s h.cid (causeOf cls code sub)
    else
      let s := placeRecord s h.cid (trapRec s h fnum tpc cls code sub addr)
      if whole then afterSwitch s h.gid none else s

/-- A fault at issue on a set of lanes: with no lane it has no effect and the fibre goes on (R132); else the lanes park at the
instruction and any others go on with the next. -/
def raise (s : State) (h : Here) (lanes : W64) (len code sub : Nat) (addr : W64) : State :=
  if lanes = 0 then h.advance s len
  else
    let pc := h.f.pc
    let s := if lanes = h.f.pred then s else h.advance s len
    takeTrap s h lanes pc pc 1 code sub addr h.f.micro

/-- Effect A: every active lane parks (R380). -/
def raiseA (s : State) (h : Here) (msk len code sub : Nat) : State := raise s h (h.act msk) len code sub 0
/-- Effect P: the fibre's PRED parks (R380). -/
def raiseP (s : State) (h : Here) (len code sub : Nat) : State := raise s h h.f.pred len code sub 0
/-- Effect P with a TRAPADDR. -/
def raisePAt (s : State) (h : Here) (len code sub addr : Nat) : State := raise s h h.f.pred len code sub (BitVec.ofNat 64 addr)

/-- The illegal-instruction fault with the smallest of its subcodes (R58). -/
def illegal (s : State) (h : Here) (msk len sub : Nat) : State := raiseA s h msk len 0x001 sub

/-- Check the static causes, and reduced service, then go on (R19, R58). `svc` is true where full service is needed. -/
def checked (s : State) (h : Here) (causes : List Nat) (svc : Bool) (msk len : Nat) (k : State) : State :=
  match minCause (causes ++ cause (svc && !s.full) 8) with
  | some sub => illegal s h msk len sub
  | none => k

/-! Operand reading (R41, R78, R91). -/

/-- A selector's immediate. -/
def immOf (c : Byte) : Int := (c.toNat : Int) - 0x90

/-- A uniform operand's 64 bits: scalar, constants sign-extended (R41, R42). -/
def uniVal (g : Group) (p : Option Prefix) (c : Byte) : W64 :=
  if isScalar c then getSreg g (scalarNo p c)
  else if isOnes c then BitVec.allOnes 64
  else if isCount c then BitVec.ofNat 64 g.w
  else if isImm (-8) 47 c then BitVec.ofInt 64 (immOf c)
  else 0

/-- The register numbers a lane selector names within the window, for an element of one or two registers (R78). -/
def vecRegs (f : Fibre) (wide : Bool) (c : Byte) : List Nat :=
  if isVec c then
    let r := f.wb * 8 + c.toNat
    if wide then [r, r + 1] else [r]
  else []

/-- The latch numbers a selector names. -/
def latchNos (c : Byte) : List Nat := if isLatch c then [c.toNat - 0x80] else []

/-- The scalar numbers a selector names. -/
def scalarNos (p : Option Prefix) (c : Byte) : List Nat := if isScalar c then [scalarNo p c] else []

/-- What an instruction names: group registers, latches, scalars. -/
structure Named where
  vregs : List Nat := []
  latches : List Nat := []
  sregs : List Nat := []

/-- Two namings together. -/
def Named.and (a b : Named) : Named :=
  { vregs := a.vregs ++ b.vregs, latches := a.latches ++ b.latches, sregs := a.sregs ++ b.sregs }

/-- What a lane selector names. -/
def nameSel (h : Here) (p : Option Prefix) (wide : Bool) (c : Byte) : Named :=
  { vregs := vecRegs h.f wide c, latches := latchNos c, sregs := scalarNos p c }

/-- A destination register. -/
def nameVd (h : Here) (wide : Bool) (vd : BitVec 7) : Named :=
  let r := h.f.wb * 8 + vd.toNat
  { vregs := if wide then [r, r + 1] else [r] }

/-- Some named register is out of the window (R78). (DEDUCED, log 105) -/
def outOfWindow (h : Here) (n : Named) : Bool := n.vregs.any fun r => h.g.total ≤ r
/-- Some named latch is invalid (R92). -/
def badLatch (h : Here) (n : Named) : Bool := n.latches.any fun l => h.g.regs.ring.length ≤ l

/-- A destination is among what is named. -/
def dstNamed (n : Named) (d : Dst) : Bool :=
  match d.reg with
  | .vec r _ => n.vregs.contains r || (d.size == 8 && n.vregs.contains (r + 1))
  | .scalar k => n.sregs.contains k
  | .hv _ _ => false
  | .hs _ _ => false

/-- The access is a group's and will write something named. -/
def holds (gid : Nat) (n : Named) (a : Acc) : Bool :=
  a.gid == gid && (match a.dst with | some d => dstNamed n d | none => false)

/-- The scoreboard interlock (R95): where data still due to a named register is in flight, the group's accesses are finished
first. -/
def settleNamed (s : State) (h : Here) (n : Named) : State :=
  if inFlight s (holds h.gid n) then drainGroup s h.gid else s

/-- A fibre of the group other than the issuing one stands inside an xop whose destination is named: it is interlocked until UPV returns to 0 (R95,
R329). -/
def xopHolds (g : Group) (fid : Nat) (n : Named) : Bool :=
  g.fibres.any fun e => e.1 != fid && e.2.micro.any fun m => isVec m.dst && n.vregs.contains (e.2.wb * 8 + m.dst.toNat)

/-- After the interlock the issuing fibre's registers are read again; the instruction waits where the data is due from a peer,
or from a commit (R296). -/
def withRegs (s : State) (h : Here) (n : Named) (k : State → Here → State) : State :=
  let s' := settleNamed s h n
  if inFlight s' (holds h.gid n) || commitHolds s' h.gid n.vregs || xopHolds h.g h.fid n then s'
  else match s'.here with | some h' => k s' h' | none => s'

/-- An `acc.st` of the group has not executed: it performs as stores of the group (R197). -/
def accStoresDue (s : State) (gid : Nat) : Bool :=
  s.cores.any fun e => e.2.mashq.any fun o => o.members.contains gid && (match o.kind with | .st _ _ => true | _ => false)

/-! The latch ring (R91, R92). -/

/-- Lose the latches. -/
def loseLatches (s : State) (gid : Nat) : State := modGroup s gid fun g => { g with regs := { g.regs with ring := [] } }

/-- Push a result (R91). -/
def pushRing (g : Group) (l0 : SMap 64) : Group := { g with regs := { g.regs with ring := (l0 :: g.regs.ring).take 4 } }

/-! Parked fibres and handlers (R133 to R138). -/

/-- The fibre a handle names, where it is live and of the context (R133): that of a saved block too. A handle with reserved bits set names none
(DESIGN CHOICE, log 127). -/
def liveHandle (s : State) (cid : Nat) (hd : W64) : Option (Nat × Nat) :=
  let x := hd.toNat
  if 2 ^ 48 ≤ x || x / 64 % 4 != 0 then none
  else
    let fnum := x % 64
    match s.groups.find? fun e => bsnOf e.1 % 2 ^ 32 == x / 65536 && gidxOf e.1 == x / 256 % 256
        && (match Tbl.get? s.blocks (bsnOf e.1) with | some b => b.ctx == cid | none => false) with
    | none => none
    | some e =>
      match Tbl.get? e.2.fibres fnum with
      | some f => if f.st == .parked then some (e.1, fnum) else none
      | none => none

/-- A group as it stands while it waits: no fibre of it is runnable (R340). -/
def Group.calm (g : Group) : Group :=
  if g.wait.isNone then g else { g with fibres := g.fibres.map fun e => if e.2.st == .runnable then (e.1, { e.2 with st := .waiting }) else e }

/-- A group could issue: it waits for nothing and has a runnable fibre. -/
def issuable (s : State) (gid : Nat) : Bool :=
  match Tbl.get? s.groups gid with | some g => g.wait.isNone && g.fibres.any (fun f => f.2.st == .runnable) | none => false

/-- After a handler's edit of a group, which loses its latches: it may retire; a switch point follows where a fibre was resumed or a frame completed
(R92, R121, R136). A group that was ready before keeps its place among those that wait for an active slot (R235). -/
def settleGroup (s : State) (gid : Nat) (event was : Bool) : State :=
  match Tbl.get? s.groups gid with
  | none => s
  | some g =>
    let s := loseLatches s gid
    if g.empty then afterSwitch s gid none
    else if !event then s
    else
      afterSwitch (modGroup s gid fun g => { g.calm with readyAt := if g.wait.isNone && g.place.slot.isNone && !was then s.steps else g.readyAt }) gid none

/-- The pc of a fibre inside a group. -/
def fibrePc (s : State) (gid fnum : Nat) : W64 :=
  match Tbl.get? s.groups gid with
  | some g => (match Tbl.get? g.fibres fnum with | some f => f.pc | none => 0)
  | none => 0

end Sys2Proof.Machine
end

