-- ==== Sys2Proof/Machine/Access.lean ====
section
/-! DEFINITION. A read of virtual memory that an instruction makes as it issues: a scale, a record, a sequence (R110, R164). -/

namespace Sys2Proof.Machine

/-- Bytes that a peer's memory gives: free values (DESIGN CHOICE, log 2). -/
def freeBytes (s : State) (n : Nat) : List Byte × State :=
  let r := freshNat s
  (natLE n r.1, r.2)

/-- The access of one part of an issuing group's instruction. -/
def accOf (h : Here) (lane seq : Nat) (op : AccOp) (dst : Option Dst) (p : Part) : Acc :=
  { gid := h.gid, pc := h.f.pc, ctx := h.cid, lane := lane, seq := seq, space := p.space, pa := p.pa, n := p.n, kind := p.kind, vpa := p.vpa,
    world := p.world, op := op, dst := dst, val := none, micro := h.f.micro, tied := p.tied }

/-- Read the parts of a checked access at once. -/
def readParts (s : State) (h : Here) (ps : List Part) : List Byte × State :=
  match ps with
  | [] => ([], s)
  | p :: r =>
    let x := match p.space with
      | .peer _ => freeBytes s p.n
      | _ => (fun (y : State × List Byte) => (y.2, y.1)) (performAcc s (accOf h 0 s.steps .load none p))
    let y := readParts x.2 h r
    (x.1 ++ y.1, y.2)

/-- Something that the group has in flight must be performed before a read of some parts, which is every lane's (R166, R369, R371, R372), or a fence
orders an access of its block before it (R182). -/
def readHeld (s : State) (h : Here) (ps : List Part) : Bool :=
  inFlight s (fun e => ps.any fun p => e.before (accOf h groupLane s.steps .load none p)) || blockMarked s h.gid

/-- The first part of an access that a peer does not answer: which, is free (R394; DESIGN CHOICE, log 2). -/
def unanswered (s : State) (ps : List Part) : Option Part × State :=
  match ps.find? (fun p => match p.space with | .peer _ => true | _ => false) with
  | none => (none, s)
  | some p => let f := freshNat s; (if f.1 % 2 = 1 then some p else none, f.2)

/-- Read `n` bytes, at most 8, of virtual memory with the issuing context's translation, as a load does, after what the group has in flight (R163,
R166); it waits for what it must follow, and a read that a peer does not answer is lost (R383, R394). -/
def readNow (s : State) (h : Here) (va n : Nat) : Checked (List Byte) × State :=
  match checkVirtual s h.core h.cid h.c va n true false with
  | (.ok ps, s) =>
    let s := drainGroup s h.gid
    if readHeld s h ps then (.wait, s)
    else
      match unanswered s ps with
      | (some p, s) => (.fault 0x025 15 va, logLost s (accOf h 0 s.steps .load none p))
      | (none, s) =>
        let r := readParts s h ps
        (.ok r.1, r.2)
  | (.fault c b a, s) => (.fault c b a, s)
  | (.wait, s) => (.wait, s)

/-- A read at an address has met injected errors of two bits: they are logged as consumed (R384, R385). -/
def logBad (s : State) (h : Here) (code sub addr : Nat) : State :=
  if code != 0x025 || 1 < sub || (ringOf s sub).planted.isEmpty then s
  else
    match (translate s h.core h.cid h.c addr false false).1 with
    | .ok e => let p := partOf e addr 0 8; logInj s h.cid sub 1 (plantedIn s sub 2 p.pa p.n)
    | _ => s

end Sys2Proof.Machine
end

