-- ==== Sys2Proof/Machine/Flags.lean ====
section
/-! DEFINITION. Integer arithmetic, comparisons and their truth values; the device keeps no arithmetic flags (R20, R23, R97 to R103, R116). -/

namespace Sys2Proof.Machine

/-- An element read as a signed number. -/
def sxInt (n x : Nat) : Int := if 2 ^ (n - 1) ≤ x then (x : Int) - 2 ^ n else x
/-- An element read by its type's signedness (R20). -/
def valInt (t : Ty) (x : Nat) : Int := if t.signed then sxInt t.width x else x
/-- A number as an element of n bits. -/
def wrapN (n : Nat) (x : Int) : Nat := (x % (2 : Int) ^ n).toNat

/-- a + b. -/
def intAdd (t : Ty) (a b _c : Nat) : Nat := (a + b) % 2 ^ t.width
/-- a − b. -/
def intSub (t : Ty) (a b _c : Nat) : Nat := wrapN t.width ((a : Int) - b)
/-- The low half of a × b. -/
def intMul (t : Ty) (a b _c : Nat) : Nat := a * b % 2 ^ t.width
/-- The high half of a × b. -/
def intMulh (t : Ty) (a b _c : Nat) : Nat := wrapN t.width (valInt t a * valInt t b / (2 : Int) ^ t.width)
/-- a × b + c. -/
def intMad (t : Ty) (a b c : Nat) : Nat := (a * b + c) % 2 ^ t.width
/-- The smaller. -/
def intMin (t : Ty) (a b _c : Nat) : Nat := if valInt t b < valInt t a then b else a
/-- The larger. -/
def intMax (t : Ty) (a b _c : Nat) : Nat := if valInt t a < valInt t b then b else a
/-- |a − b|. -/
def intAbsd (t : Ty) (a b _c : Nat) : Nat := (valInt t a - valInt t b).natAbs
/-- AND. -/
def intAnd (_t : Ty) (a b _c : Nat) : Nat := a &&& b
/-- OR. -/
def intOr (_t : Ty) (a b _c : Nat) : Nat := a ||| b
/-- XOR. -/
def intXor (_t : Ty) (a b _c : Nat) : Nat := a ^^^ b
/-- a AND NOT b. -/
def intAndn (t : Ty) (a b _c : Nat) : Nat := a &&& (2 ^ t.width - 1 - b)
/-- Shift left by b mod n. -/
def intShl (t : Ty) (a b _c : Nat) : Nat := a * 2 ^ (b % t.width) % 2 ^ t.width
/-- Logical shift right. -/
def intShr (t : Ty) (a b _c : Nat) : Nat := a / 2 ^ (b % t.width)
/-- Arithmetic shift right. -/
def intSra (t : Ty) (a b _c : Nat) : Nat := wrapN t.width (sxInt t.width a / (2 : Int) ^ (b % t.width))
/-- Rotate left. -/
def intRot (t : Ty) (a b _c : Nat) : Nat :=
  (a * 2 ^ (b % t.width)) % 2 ^ t.width + a / 2 ^ (t.width - b % t.width)
/-- Saturating sum. -/
def intAdds (t : Ty) (a b _c : Nat) : Nat := wrapN t.width (clampInt (tyMin t) (tyMax t) (valInt t a + valInt t b))
/-- Saturating difference. -/
def intSubs (t : Ty) (a b _c : Nat) : Nat := wrapN t.width (clampInt (tyMin t) (tyMax t) (valInt t a - valInt t b))

/-- The field mask of a control value (R99): position, clipped length. -/
def bfField (n ctl : Nat) : Nat × Nat :=
  let pos := ctl % 256
  let len := ctl / 256 % 256
  (pos, if n ≤ pos then 0 else min len (n - pos))

/-- Bit-field extract (R99). -/
def intBfx (t : Ty) (a b _c : Nat) : Nat :=
  let (pos, len) := bfField t.width b
  let f := a / 2 ^ pos % 2 ^ len
  if len = 0 then 0 else if t.signed then wrapN t.width (sxInt len f) else f

/-- Bit-field insert (R99). -/
def intBfi (t : Ty) (a b c : Nat) : Nat :=
  let (pos, len) := bfField t.width b
  let m := (2 ^ len - 1) * 2 ^ pos
  (c &&& (2 ^ t.width - 1 - m)) ||| (a * 2 ^ pos % 2 ^ t.width &&& m)

/-- Requantisation (R102): sources read as `.i32`. -/
def intRq (t : Ty) (a b c : Nat) : Nat :=
  let p := sxInt 32 a * sxInt 32 b
  let s := 31 + c % 32
  let q : Int := (p.natAbs + 2 ^ (s - 1)) / 2 ^ s
  let r := (if p < 0 then -q else q) + sxInt 8 (c / 256 % 256)
  let n4 := c / 128 % 2 == 1
  let lo : Int := if t.signed then (if n4 then -8 else -128) else 0
  let hi : Int := if t.signed then (if n4 then 7 else 127) else (if n4 then 15 else 255)
  wrapN 32 (clampInt lo hi r)

/-- Number of 1 bits, counted over `n` bits. -/
def popN (n x : Nat) : Nat :=
  match n with
  | 0 => 0
  | n + 1 => x % 2 + popN n (x / 2)
/-- Trailing zero bits of n. -/
def ctzN (n x : Nat) : Nat :=
  match n with
  | 0 => 0
  | n + 1 => if x % 2 = 1 then 0 else 1 + ctzN n (x / 2)
/-- Leading zero bits of n. -/
def clzN (n x : Nat) : Nat := if x % 2 ^ n = 0 then n else n - 1 - Nat.log2 (x % 2 ^ n)
/-- Bits in reverse order. -/
def brevN (n x : Nat) : Nat :=
  match n with
  | 0 => 0
  | n + 1 => x % 2 * 2 ^ n + brevN n (x / 2)

/-- The conditions of the compares, CC 0 to 5, on an order (R45, R103). -/
def condInt (cc : Nat) (a b : Int) : Bool :=
  match cc with
  | 0 => a == b
  | 1 => a != b
  | 2 => a < b
  | 3 => a ≤ b
  | 4 => b < a
  | _ => b ≤ a

/-- The floating-point conditions: quiet, false with a NaN but for ne and uno (R103). -/
def condFp (cc : Nat) (o : FpOrd) : Bool :=
  match cc, o with
  | 0, .eq => true
  | 1, .eq => false
  | 1, _ => true
  | 2, .lt => true
  | 3, .lt => true
  | 3, .eq => true
  | 4, .gt => true
  | 5, .gt => true
  | 5, .eq => true
  | 6, .uno => false
  | 6, _ => true
  | 7, .uno => true
  | _, _ => false

end Sys2Proof.Machine
end

