-- ==== Sys2Proof/Machine/Narrow.lean ====
section
/-! DEFINITION. The narrow format: its register image, decoding and encoding, and scales (R24 to R31). -/

namespace Sys2Proof.Machine

/-- BIAS (R24). -/
def imgBias (im : W32) : Int := (im.extractLsb' 24 8).toInt
/-- POL. -/
def imgPol (im : W32) : Nat := (im.extractLsb' 22 2).toNat
/-- SGN. -/
def imgSgn (im : W32) : Nat := (im.extractLsb' 21 1).toNat
/-- EW. -/
def imgEw (im : W32) : Nat := (im.extractLsb' 18 3).toNat
/-- MW. -/
def imgMw (im : W32) : Nat := (im.extractLsb' 14 4).toNat
/-- The code width (R24). -/
def imgW (im : W32) : Nat := imgSgn im + imgEw im + imgMw im

/-- A legal image (R25). -/
def imgLegal (im : W32) : Bool :=
  1 ≤ imgW im && imgW im ≤ 8 && imgMw im ≤ 8 &&
  match imgPol im with
  | 0 => 2 ≤ imgEw im && 1 ≤ imgMw im && (2 : Int) ^ imgEw im - 2 - imgBias im ≤ 127
  | 3 => imgEw im == 0 && 1 ≤ imgMw im
  | _ => (2 : Int) ^ imgEw im - 1 - imgBias im ≤ 127

/-- Bits of a container (R26). -/
def imgContainer (im : W32) : Nat := if imgW im ≤ 4 then 4 else 8

/-- The code that is NaN under policy 1 (R27). -/
def imgNan1 (im : W32) : Nat := if imgSgn im = 1 then 2 ^ (imgW im - 1) else 2 ^ imgW im - 1

/-- Decode a code to FP32, exactly (R27). -/
def narrowDecode (im : W32) (code : Nat) : Nat :=
  let w := imgW im
  let c := code % 2 ^ w
  let mw := imgMw im
  let ew := imgEw im
  let b := imgBias im
  let neg := imgSgn im == 1 && c / 2 ^ (w - 1) % 2 == 1
  let e := c / 2 ^ mw % 2 ^ ew
  let m := c % 2 ^ mw
  if imgPol im == 3 then
    fmt32.ofInt .rne ((if neg then (c : Int) - 2 ^ w else c) - b)
  else if imgPol im == 0 && e == 2 ^ ew - 1 then
    if m == 0 then fmt32.infBits neg
    else fmt32.infBits neg + 2 ^ 22 + (if mw ≤ 22 then m * 2 ^ (22 - mw) else m)
  else if imgPol im == 1 && c == imgNan1 im then 0x7FC00000
  else if e == 0 then fmt32.roundMag .rne neg m (1 - b - mw) false
  else fmt32.roundMag .rne neg (m + 2 ^ mw) ((e : Int) - b - mw) false

/-- A value to encode: a NaN with sign and FP32 payload, an infinity, or ± num / den × 2 ^ e. -/
inductive NarrowIn where
  | nan (neg : Bool) (payload : Nat)
  | inf (neg : Bool)
  | fin (neg : Bool) (num den : Nat) (e : Int)
  deriving DecidableEq, Repr

/-- An FP32 code, divided by an FP32 scale where one applies (R31). -/
def narrowIn (x : Nat) (scale : Option Nat) : NarrowIn :=
  let dflt := NarrowIn.nan false (2 ^ 22)
  if fmt32.isNan x then .nan (fmt32.neg x) (fmt32.mant x)
  else
    match scale with
    | none =>
      if fmt32.isInf x then .inf (fmt32.neg x)
      else .fin (fmt32.neg x) (fmt32.value x).n.natAbs 1 (fmt32.value x).e
    | some s =>
      let neg := fmt32.neg x != fmt32.neg s
      if fmt32.isNan s then .nan (fmt32.neg s) (fmt32.mant s)
      else if fmt32.isInf x then (if fmt32.isInf s then dflt else .inf neg)
      else if fmt32.isInf s then .fin neg 0 1 0
      else if fmt32.isZero s then (if fmt32.isZero x then dflt else .inf neg)
      else .fin neg (fmt32.value x).n.natAbs (fmt32.value s).n.natAbs ((fmt32.value x).e - (fmt32.value s).e)

/-- num / den × 2 ^ k to the nearest integer, ties away from zero. -/
def roundAway (num den : Nat) (k : Int) : Nat :=
  let n := num * 2 ^ k.toNat
  let d := den * 2 ^ (-k).toNat
  (2 * n + d) / (2 * d)

/-- The largest finite magnitude code of policies 0 to 2. -/
def imgMaxMag (im : W32) : Nat :=
  let mw := imgMw im
  match imgPol im with
  | 0 => (2 ^ imgEw im - 2) * 2 ^ mw + (2 ^ mw - 1)
  | 1 => if imgSgn im = 1 then 2 ^ (imgEw im + mw) - 1 else 2 ^ (imgEw im + mw) - 2
  | _ => 2 ^ (imgEw im + mw) - 1

/-- The greatest k with num / den ≥ 2 ^ k, for num, den nonzero. -/
def floorLog2 (num den : Nat) : Int :=
  let k : Int := (Nat.log2 num : Int) - Nat.log2 den
  if den * 2 ^ k.toNat ≤ num * 2 ^ (-k).toNat then k else k - 1

/-- The magnitude code nearest num / den × 2 ^ e on the format's grid, its range unbounded above (R28 step 2). -/
def narrowMag (im : W32) (num den : Nat) (e : Int) : Nat :=
  if num == 0 then 0
  else
    let mw := imgMw im
    let b := imgBias im
    let q : Int := max (floorLog2 num den + e - mw) (1 - b - mw)
    let s := roundAway num den (e - q)
    let carry := s == 2 ^ (mw + 1)
    let s' := if carry then 2 ^ mw else s
    let q' := if carry then q + 1 else q
    if s' < 2 ^ mw then s' else (q' + b + mw).toNat * 2 ^ mw + (s' - 2 ^ mw)

/-- The signed bounds of policy 3 codes. -/
def imgLo3 (im : W32) : Int := if imgSgn im = 1 then -((2 : Int) ^ imgMw im) else 0
/-- The upper bound. -/
def imgHi3 (im : W32) : Int := (2 : Int) ^ imgMw im - 1

/-- A policy 3 code (R28). -/
def narrowEncode3 (im : W32) (x : NarrowIn) : Nat :=
  let c : Int :=
    match x with
    | .nan _ _ => imgBias im
    | .inf neg => if neg then imgLo3 im else imgHi3 im
    | .fin neg num den e =>
      let r := roundAway num den e
      (if neg then -(r : Int) else r) + imgBias im
  (clampInt (imgLo3 im) (imgHi3 im) c % (2 : Int) ^ imgW im).toNat

/-- A sign and a magnitude code. -/
def imgSigned (im : W32) (neg : Bool) (mag : Nat) : Nat :=
  mag + (if neg && imgSgn im == 1 then 2 ^ (imgW im - 1) else 0)

/-- A zero code: −0 where the policy has one (R28). -/
def imgZero (im : W32) (neg : Bool) : Nat := imgSigned im (neg && imgPol im != 1) 0

/-- Encode a value (R28). -/
def narrowEncode (im : W32) (x : NarrowIn) : Nat :=
  let mw := imgMw im
  let infMag := (2 ^ imgEw im - 1) * 2 ^ mw
  if imgPol im == 3 then narrowEncode3 im x
  else
    match x with
    | .nan neg p =>
      match imgPol im with
      | 0 =>
        let m := p % 2 ^ 22 / 2 ^ (22 - mw)
        imgSigned im neg (infMag + (if m == 0 then 1 else m))
      | 1 => imgNan1 im
      | _ => 0
    | .inf neg =>
      if neg && imgSgn im == 0 then 0
      else
        match imgPol im with
        | 0 => imgSigned im neg infMag
        | 1 => imgNan1 im
        | _ => imgSigned im neg (imgMaxMag im)
    | .fin neg num den e =>
      if neg && imgSgn im == 0 then 0
      else
        let g := narrowMag im num den e
        if g == 0 then imgZero im neg
        else if imgMaxMag im < g then
          if imgPol im == 0 then imgSigned im neg infMag
          else if imgMaxMag im == 0 then imgZero im neg else imgSigned im neg (imgMaxMag im)
        else imgSigned im neg g

end Sys2Proof.Machine
end

