-- ==== Sys2Proof/Machine/Fragment.lean ====
section
/-! DEFINITION. Accumulator ownership and fragments as a lane source (R51, R115, R201, R203). -/

namespace Sys2Proof.Machine

/-- An operation writes a unit. -/
def MashKind.writes (k : MashKind) (unit : Nat) : Bool :=
  match k with
  | .mm op => op.acc ≤ unit && unit < op.acc + (op.m * op.n + 1023) / 1024
  | .clr u n => u ≤ unit && unit < u + n
  | .mov d _ => d == unit
  | .ld u _ => u == unit
  | .st _ _ => false
  | .put u _ _ => u == unit

/-- Milsal serves the ownership trap: it spills the old owner and fills for the new one (R201). -/
def serveOwner (s : State) (core cid lcore : Nat) : State :=
  let s := spillUnits s core
  match Tbl.get? s.ctxs cid with
  | none => s
  | some c =>
    let r := getImage s c lcore
    modCore r.2 core fun k =>
      { k with acc := r.1 ++ unitsFrom k.acc c.u, owner := some (cid, lcore),
               wantOwn := k.wantOwn.filter fun gid => match Tbl.get? s.blocks (bsnOf gid) with | some b => b.ctx != cid | none => false }

/-- The issuing context owns its core's units. -/
def ownsUnits (s : State) (h : Here) : Bool := (coreOf s h.core).owner == some (h.cid, h.lcore)

/-- The old owner's accepted operations are over: the queue is empty, and no closed latch entry waits to enter it (R192, R201). -/
def Core.idle (c : Core) : Bool := c.mashq.isEmpty && c.latch.all fun e => !e.closed

/-- The trap of a use by a context that does not own the core: latches are lost; it is served once the queue is empty (R115, R201). (DEDUCED, log 51) -/
def ownTrap (s : State) (h : Here) : State :=
  let s := loseLatches s h.gid
  if (coreOf s h.core).idle then serveOwner s h.core h.cid h.lcore
  else modCore s h.core fun k => if k.wantOwn.contains h.gid then k else { k with wantOwn := k.wantOwn ++ [h.gid] }

/-- The issuing context's accumulator state was lost (R203). -/
def imageLost (h : Here) : Bool := h.c.lost.contains h.lcore

/-- Taking accumulator-lost: the image becomes all +0.0 and the mark is cleared (R203). -/
def clearLost (s : State) (h : Here) : State :=
  let s := modCtx (putImage s h.cid h.c h.lcore []) h.cid fun c => { c with lost := c.lost.filter (· != h.lcore) }
  modCore s h.core fun k => { k with acc := unitsFrom k.acc h.c.u }

/-- What the check of a fragment read answers (R115). -/
inductive FragAns where
  /-- the fragment may be read -/
  | ok (s : State)
  /-- the ownership trap is served first, and the instruction issues afresh -/
  | served (s : State)
  /-- a fault: the state where no lane is active to take it, and where one is -/
  | fault (free taken : State) (code : Nat)
  | wait (s : State)

/-- The checks of R115 on a unit. -/
def acquireFragment (s : State) (h : Here) (unit : Nat) : FragAns :=
  let k := coreOf s h.core
  let clear := fun (s : State) => modCore s h.core fun k =>
    { k with fragWait := k.fragWait.filter (fun e => e.1 != (h.gid, h.fid)), fragDead := k.fragDead.filter (· != (h.gid, h.fid)) }
  if k.fragDead.contains (h.gid, h.fid) then .fault (clear s) (clear s) 0x032
  else if !ownsUnits s h then .served (ownTrap s h)
  else if imageLost h then .fault s (clearLost s h) 0x031
  else if h.c.u ≤ unit then .fault s s 0x037
  else if k.mashq.any fun o => o.kind.writes unit then
    .wait (modCore s h.core fun k => { k with fragWait := k.fragWait.filter (fun e => e.1 != (h.gid, h.fid)) ++ [((h.gid, h.fid), unit)] })
  else .ok (if k.fragWait.any (fun e => e.1 == (h.gid, h.fid)) then clear s else s)

/-- FP32 element `64 × f + lane` of a unit (R51). -/
def fragElem (s : State) (h : Here) (unit f lane : Nat) : Nat :=
  (SMap.get (coreOf s h.core).acc (1024 * unit + 64 * f + lane)).toNat

end Sys2Proof.Machine
end

