-- ==== Sys2Proof/Machine/Operands.lean ====
section
/-! DEFINITION. Operand forms of lane instructions and the frame every lane instruction shares (R41, R44, R91, R94). -/

namespace Sys2Proof.Machine

/-- An element repeated to fill 32 bits, or one 64-bit element (R20, R21). -/
def pack (width elem : Nat) : Nat :=
  match width with
  | 8 => elem % 256 * 0x01010101
  | 16 => elem % 65536 * 0x00010001
  | n => elem % 2 ^ n

/-- A constant under a type: an integer type takes the value, an FP type its exact conversion; packed elements repeat it (R41). (DEDUCED, log 37) -/
def constTyped (t : Ty) (n : Int) : Nat :=
  if t.isFp then pack t.width ((fmtOf t).ofInt .rne n)
  else pack t.width (n % (2 : Int) ^ t.width).toNat

/-- A lane's element of a selector (R41): bits of one register, or of a pair under a 64-bit type. -/
def selLane (h : Here) (p : Option Prefix) (t : Ty) (c : Byte) (lane : Nat) : Nat :=
  let m := if t.wide then 2 ^ 64 else 2 ^ 32
  if isVec c then
    let r := h.f.wb * 8 + c.toNat
    if t.wide then (getVreg h.g r lane).toNat + (getVreg h.g (r + 1) lane).toNat * 2 ^ 32 else (getVreg h.g r lane).toNat
  else if isLatch c then (SMap.get (nth h.g.regs.ring (c.toNat - 0x80) []) lane).toNat % m
  else if isIdx c then constTyped t lane
  else if isCount c then constTyped t h.g.w
  else if isZero c then 0
  else if isOnes c then m - 1
  else if isScalar c then (getSreg h.g (scalarNo p c)).toNat % m
  else constTyped t (immOf c)

/-- The sources of a lane instruction, by lane, with the group's width and the active lanes. -/
structure Src where
  a : Nat → Nat
  b : Nat → Nat
  c : Nat → Nat
  w : Nat
  act : W64
  msk : W64

/-- A lane instruction as the shared frame sees it: the causes already found, the operands with the types they are read at, the
result type and destination. -/
structure LaneJob where
  causes : List Nat
  svc : Bool
  pfx : Option Prefix
  len : Nat
  ta : Ty
  tb : Ty
  tc : Ty
  td : Ty
  /-- the type whose width names B's register or pair -/
  nb : Ty
  a : Byte
  b : Option Byte
  c : Option Byte
  vd : BitVec 7
  nw : Bool
  /-- `vsel`: the mask selects and disables no lane (R100) -/
  sel : Bool

/-- The mask number that disables lanes. -/
def LaneJob.msk (j : LaneJob) : Nat := if j.sel then 0 else mskOf j.pfx

/-- What a lane job names (R78, R92). -/
def LaneJob.named (j : LaneJob) (h : Here) (dst : Bool) : Named :=
  let na := if readsFragment j.pfx then {} else nameSel h j.pfx j.ta.wide j.a
  let nb := match j.b with | some c => nameSel h j.pfx j.nb.wide c | none => {}
  let nc := match j.c with | some c => nameSel h j.pfx j.tc.wide c | none => {}
  let nd := if dst && !j.nw then nameVd h j.td.wide j.vd else {}
  ((na.and nb).and nc).and nd

/-- The accumulator unit and fragment that AF names (R51). -/
def fragOf (p : Option Prefix) : Nat × Nat :=
  match p with
  | some q => (q.ahi.toNat * 16 + q.d.toNat / 16, q.d.toNat % 16)
  | none => (0, 0)

/-- The sources read. -/
def LaneJob.src (j : LaneJob) (s : State) (h : Here) : Src :=
  { a := fun l => if readsFragment j.pfx then fragElem s h (fragOf j.pfx).1 (fragOf j.pfx).2 l else selLane h j.pfx j.ta j.a l,
    b := fun l => match j.b with | some c => selLane h j.pfx j.tb c l | none => 0,
    c := fun l => match j.c with | some c => selLane h j.pfx j.tc c l | none => 0,
    w := h.g.w,
    act := h.act j.msk,
    msk := h.g.maskOf (mskOf j.pfx) }

/-- A lane's value as a latch or register element of the result type. -/
def putElem (g : Group) (wide : Bool) (reg lane v : Nat) : Group :=
  let g := setVreg g reg lane (BitVec.ofNat 32 v)
  if wide then setVreg g (reg + 1) lane (BitVec.ofNat 32 (v / 2 ^ 32)) else g

/-- A lane's element as it stands. -/
def getElem (g : Group) (wide : Bool) (reg lane : Nat) : Nat :=
  (getVreg g reg lane).toNat + (if wide then (getVreg g (reg + 1) lane).toNat * 2 ^ 32 else 0)

/-- Write a result to the active lanes and 0 to the disabled ones under `.zro`, for the lanes of a list (R94). -/
def writeLanes (g : Group) (wide : Bool) (reg : Nat) (act : W64) (zro : Bool) (res : Nat → Nat) (lanes : List Nat) : Group :=
  match lanes with
  | [] => g
  | l :: r =>
    let g := if inSet act l then putElem g wide reg l (res l) else if zro then putElem g wide reg l 0 else g
    writeLanes g wide reg act zro res r

/-- The lanes of a group of width w, in order: never more than 64 (R76). -/
def laneNos (w : Nat) : List Nat := List.range (min w 64)

/-- Latch elements for the lanes 0 to w − 1. -/
def latchMap (w : Nat) (v : Nat → Nat) : SMap 64 :=
  (laneNos w).filterMap fun l => let x := BitVec.ofNat 64 (v l); if x = 0 then none else some (l, x)

/-- The pushed latch (R91): the result in active lanes; elsewhere the element vd then holds under `.mrg` with write-back, else 0. -/
def latchAfter (g : Group) (w : Nat) (wide : Bool) (reg : Nat) (act : W64) (keep : Bool) (res : Nat → Nat) : SMap 64 :=
  latchMap w fun l => if inSet act l then res l else if keep then getElem g wide reg l else 0

/-- The issuing group after a lane instruction: vd written (R94), the result pushed on the ring (R91). -/
def laneGroup (j : LaneJob) (h : Here) (res : Nat → Nat) (g : Group) : Group :=
  let reg := h.f.wb * 8 + j.vd.toNat
  let act := h.act j.msk
  let wide := j.td.wide
  let g := if j.nw then g else writeLanes g wide reg act (zroOf j.pfx) res (laneNos g.w)
  pushRing g (latchAfter g g.w wide reg act (!j.nw && !zroOf j.pfx) res)

/-- Write the destination, push the ring and go on (R94). -/
def laneFinish (j : LaneJob) (s : State) (h : Here) (res : Nat → Nat) : State :=
  h.advance (modGroup s h.gid (laneGroup j h res)) j.len

/-- Acquire the fragment that AF names, where it does, then go on (R94, R115). -/
def withFragment (s : State) (h : Here) (p : Option Prefix) (msk len : Nat) (k : State → State) : State :=
  if readsFragment p then
    match acquireFragment s h (fragOf p).1 with
    | .ok s' => k s'
    | .served s' => s'
    | .fault s0 s1 code => raiseA (if h.act msk = 0 then s0 else s1) h msk len code 0
    | .wait s' => s'
  else k s

/-- The checks at issue after the fields: window, latches, image, fragment (R94), then the rest. `image` is a fault code that the
format image raises. -/
def laneChecks (j : LaneJob) (s : State) (h : Here) (dst : Bool) (image : Option Nat) (k : State → Here → State) : State :=
  let n := j.named h dst
  if outOfWindow h n then raiseA s h j.msk j.len 0x002 0
  else if badLatch h n then raiseA s h j.msk j.len 0x003 0
  else
    match image with
    | some code => raiseA s h j.msk j.len code 0
    | none =>
      withFragment s h j.pfx j.msk j.len fun s => withRegs s h n k

/-- A lane instruction (R94). -/
def laneRun (s : State) (j : LaneJob) (image : State → Here → Option Nat) (op : State → Here → Src → Nat → Nat) : Out :=
  issue s fun h =>
    checked s h j.causes j.svc j.msk j.len
      (laneChecks j s h true (image s h) fun s h => laneFinish j s h (op s h (j.src s h)))

/-- No image check. -/
def noImage (_ : State) (_ : Here) : Option Nat := none

/-- Types whose instructions need full service: FP16, BF16, FP64 and `.q` (R19). -/
def Ty.needsFull (t : Ty) : Bool :=
  match t with
  | .f16 | .bf16 | .f64 | .q => true
  | _ => false

/-- The third source's selector: D, or vd (R44, R51). -/
def thirdSel (spec : LaneSpec) (p : Option Prefix) (vd : BitVec 7) : Option Byte :=
  if !spec.third then none
  else
    match p with
    | some q => if q.af then some (vd.setWidth 8) else some q.d
    | none => some (vd.setWidth 8)

/-- The job of a V-format instruction that reads and writes one type. -/
def jobV (spec : LaneSpec) (f : VFmt) : LaneJob :=
  let t := tyOf spec.dflt f.pfx
  { causes := vCauses spec f, svc := t.needsFull, pfx := f.pfx, len := lenOf f.pfx, ta := t, tb := t, tc := t, td := t, nb := t,
    a := f.a, b := some f.b, c := thirdSel spec f.pfx f.vd, vd := f.vd, nw := f.nw, sel := false }

/-- The job of a U-format instruction. -/
def jobU (spec : LaneSpec) (f : UFmt) : LaneJob :=
  let t := tyOf spec.dflt f.pfx
  { causes := uCauses spec f, svc := t.needsFull, pfx := f.pfx, len := lenOf f.pfx, ta := t, tb := t, tc := t, td := t, nb := t,
    a := f.a, b := none, c := none, vd := f.vd, nw := f.nw, sel := false }

/-- The selector of a 16-bit form's B (R53). -/
def cSel (b : BitVec 6) : Byte :=
  let n := b.toNat
  BitVec.ofNat 8 (if n < 32 then n else if n < 36 then 0x80 + n - 32 else if n < 52 then 0xC0 + n - 36 else 0x90 + n - 52)

/-- A 16-bit form as the V-format form it stands for (R54). -/
def cAsV (f : CFmt) : VFmt := { pfx := none, b := cSel f.b, a := f.vd.setWidth 8, nw := false, vd := f.vd.setWidth 7 }
/-- `c.mov` as `vmov` (R54). -/
def cAsU (f : CFmt) : UFmt := { pfx := none, a := cSel f.b, nw := false, vd := f.vd.setWidth 7 }

/-- Apply an operation to each element of packed values (R94). -/
def perElem (width : Nat) (op : Nat → Nat → Nat → Nat) (a b c : Nat) : Nat :=
  let m := 2 ^ width
  match width with
  | 8 =>
    op (a % m) (b % m) (c % m) % m
      + op (a / m % m) (b / m % m) (c / m % m) % m * m
      + op (a / m ^ 2 % m) (b / m ^ 2 % m) (c / m ^ 2 % m) % m * m ^ 2
      + op (a / m ^ 3 % m) (b / m ^ 3 % m) (c / m ^ 3 % m) % m * m ^ 3
  | 16 =>
    op (a % m) (b % m) (c % m) % m + op (a / m % m) (b / m % m) (c / m % m) % m * m
  | _ => op a b c % m

/-- An element-wise lane operation. -/
def elemOp (t : Ty) (op : Nat → Nat → Nat → Nat) : State → Here → Src → Nat → Nat :=
  fun _ _ x l => perElem t.width op (x.a l) (x.b l) (x.c l)

end Sys2Proof.Machine
end

