-- ==== Sys2Proof/Machine/Sfu.lean ====
section
/-! DEFINITION. The special functions of `vsfu`, correctly rounded (R111), by fixed-point series of 400 fraction bits. -/

namespace Sys2Proof.Machine

/-- Fraction bits of the series. -/
def sfuBits : Nat := 400
/-- π, truncated to 400 fraction bits. -/
def sfuPi : Nat := 0x3243f6a8885a308d313198a2e03707344a4093822299f31d0082efa98ec4e6c89452821e638d01377be5466cf34e90c6cc0ac
/-- The natural logarithm of 2, truncated to 400 fraction bits. -/
def sfuLn2 : Nat := 0xb17217f7d1cf79abc9e3b39803f2f6af40f343267298b62d8a0d175b8baafa2be7b876206debac98559552fb4afa1b10ed2e

/-- Fixed-point product. -/
def fxMul (a b : Int) : Int := a * b / 2 ^ sfuBits

/-- The alternating series t − t·r²/((k+1)(k+2)) + …, `n` terms. -/
def trigSeries (r2 t : Int) (k n : Nat) : Int :=
  match n with
  | 0 => 0
  | n + 1 => t + trigSeries r2 (-(fxMul t r2) / (((k + 1) * (k + 2) : Nat) : Int)) (k + 2) n

/-- sin r for a small fixed-point r. -/
def fxSin (r : Int) : Int := trigSeries (fxMul r r) r 1 50
/-- cos r. -/
def fxCos (r : Int) : Int := trigSeries (fxMul r r) (2 ^ sfuBits) 0 50

/-- exp: t + t·y/k + …, `n` terms. -/
def expSeries (y t : Int) (k n : Nat) : Int :=
  match n with
  | 0 => 0
  | n + 1 => t + expSeries y (fxMul t y / (k : Int)) (k + 1) n

/-- atanh: t/k + t·u²/(k+2) + …, `n` terms. -/
def atanhSeries (u2 t : Int) (k n : Nat) : Int :=
  match n with
  | 0 => 0
  | n + 1 => t / (k : Int) + atanhSeries u2 (fxMul t u2) (k + 2) n

/-- A fixed-point value, never exact, rounded to FP32. -/
def fxRound (v : Int) : Nat := fmt32.roundMag .rne (v < 0) v.natAbs (-(sfuBits : Int)) true

/-- A finite FP32 code in fixed point: its lowest bit is 2 ^ −149. -/
def fxOf (a : Nat) : Int :=
  let d := fmt32.value a
  d.n * 2 ^ (d.e + sfuBits).toNat

/-- sin or cos of a finite nonzero x with |x| at most 2 ^ 17. -/
def fxTrig (cosine : Bool) (a : Nat) : Nat :=
  let x := fxOf a
  let half : Int := (sfuPi : Int)
  let n := (4 * x + half) / (2 * half)
  let r := x - n * half / 2
  let q := ((n + (if cosine then 1 else 0)) % 4).toNat
  let v := if q % 2 == 0 then fxSin r else fxCos r
  fxRound (if 2 ≤ q then -v else v)

/-- |x| is above 2 ^ 17. -/
def trigBig (a : Nat) : Bool := fmt32.abs 0x48000000 < fmt32.abs a

/-- sin (R111). -/
def sfuSin (a : Nat) : Nat :=
  if fmt32.isNan a then fmt32.quiet a
  else if trigBig a then fmt32.nan
  else if fmt32.isZero a then a
  else fxTrig false a

/-- cos (R111). -/
def sfuCos (a : Nat) : Nat :=
  if fmt32.isNan a then fmt32.quiet a
  else if trigBig a then fmt32.nan
  else if fmt32.isZero a then 0x3F800000
  else fxTrig true a

/-- exp2 (R111). -/
def sfuExp2 (a : Nat) : Nat :=
  if fmt32.isNan a then fmt32.quiet a
  else if fmt32.isInf a then (if fmt32.neg a then 0 else a)
  else if fmt32.isZero a then 0x3F800000
  else if 0x43800000 ≤ fmt32.abs a then (if fmt32.neg a then 0 else fmt32.infBits false)
  else
    let x := fxOf a
    let n := x / 2 ^ sfuBits
    let f := x - n * 2 ^ sfuBits
    if f == 0 then fmt32.roundMag .rne false 1 n false
    else
      let v := expSeries (fxMul f (sfuLn2 : Int)) (2 ^ sfuBits) 1 100
      fmt32.roundMag .rne false v.natAbs (n - sfuBits) true

/-- log2 (R111). -/
def sfuLog2 (a : Nat) : Nat :=
  if fmt32.isNan a then fmt32.quiet a
  else if fmt32.isZero a then fmt32.infBits true
  else if fmt32.neg a then fmt32.nan
  else if fmt32.isInf a then a
  else
    let d := fmt32.value a
    let m := d.n.natAbs
    let l := Nat.log2 m
    let n : Int := d.e + l
    if m == 2 ^ l then fmt32.ofInt .rne n
    else
      let z : Int := ((m * 2 ^ (sfuBits - l) : Nat) : Int)
      let one : Int := 2 ^ sfuBits
      let u := (z - one) * one / (z + one)
      let ln := 2 * atanhSeries (fxMul u u) u 1 140
      fxRound (n * one + ln * one / (sfuLn2 : Int))

/-- 1/x, the division of 1.0 by x (R111). -/
def sfuRcp (a : Nat) : Nat := fmt32.div .rne 0x3F800000 a

/-- 1/√x (R111). -/
def sfuRsqrt (a : Nat) : Nat :=
  if fmt32.isNan a then fmt32.quiet a
  else if fmt32.isZero a then fmt32.infBits (fmt32.neg a)
  else if fmt32.neg a then fmt32.nan
  else if fmt32.isInf a then 0
  else
    let d := fmt32.value a
    let odd := d.e % 2 != 0
    let m := if odd then 2 * d.n.natAbs else d.n.natAbs
    let e := if odd then d.e - 1 else d.e
    let s := isqrt (2 ^ 128 / m)
    fmt32.roundMag .rne false s (-(e / 2) - 64) (s * s * m != 2 ^ 128)

end Sys2Proof.Machine
end

