-- ==== Sys2Proof/Machine/LaneFp.lean ====
section
/-! DEFINITION. The floating-point lane instructions, conversions and compares (R103, R105 to R111). -/

namespace Sys2Proof.Machine

/-- The rounding of a prefix over a default (R32). -/
def rndFor (dflt : Rnd) (p : Option Prefix) : Rnd :=
  match p with
  | some q => rndOf dflt q.rnd.toNat
  | none => dflt

/-- An element-wise floating-point operation in format V. -/
def fpV (spec : LaneSpec) (op : FpFmt → Rnd → Nat → Nat → Nat → Nat) (f : VFmt) (s : State) : Out :=
  let j := jobV spec f
  laneRun s j noImage (elemOp j.td (op (fmtOf j.td) (rndFor .rne f.pfx)))

/-- A unary one in format U. -/
def fpU (spec : LaneSpec) (op : FpFmt → Rnd → Nat → Nat) (f : UFmt) (s : State) : Out :=
  let j := jobU spec f
  laneRun s j noImage (elemOp j.td fun a _ _ => op (fmtOf j.td) (rndFor .rne f.pfx) a)

/-- A 16-bit floating-point form (R54). -/
def fpC (op : Nat) (spec : LaneSpec) (o : FpFmt → Rnd → Nat → Nat → Nat → Nat) (f : CFmt) (s : State) : Out :=
  let j := { jobV spec (cAsV f) with causes := cCauses op f, len := 2 }
  laneRun s j noImage (elemOp j.td (o (fmtOf j.td) .rne))

/-- `vfadd` (R105). -/
def execVfadd (f : VFmt) (s : State) : Out := fpV fpR (fun m r a b _ => m.add r a b) f s

/-- `vfsub` (R105). -/
def execVfsub (f : VFmt) (s : State) : Out := fpV fpR (fun m r a b _ => m.sub r a b) f s

/-- `vfmul` (R105). -/
def execVfmul (f : VFmt) (s : State) : Out := fpV fpR (fun m r a b _ => m.mul r a b) f s

/-- `vfdiv` (R105). -/
def execVfdiv (f : VFmt) (s : State) : Out := fpV fpR (fun m r a b _ => m.div r a b) f s

/-- `vfmin` (R105). -/
def execVfmin (f : VFmt) (s : State) : Out := fpV fpX (fun m _ a b _ => m.min a b) f s

/-- `vfmax` (R105). -/
def execVfmax (f : VFmt) (s : State) : Out := fpV fpX (fun m _ a b _ => m.max a b) f s

/-- `vfsgn` (R105). -/
def execVfsgn (f : VFmt) (s : State) : Out := fpV fpX (fun m _ a b _ => m.sgn a b) f s

/-- `vfma` (R106). -/
def execVfma (f : VFmt) (s : State) : Out := fpV fmaSpec (fun m r a b c => m.fma r false a b c) f s

/-- `vfms` (R106). -/
def execVfms (f : VFmt) (s : State) : Out := fpV fmaSpec (fun m r a b c => m.fma r true a b c) f s

/-- The two-term dot product with FP32 accumulation (R107): pairs in `m`. -/
def fpDp2 (m : FpFmt) (a b c : Nat) : Nat :=
  let h := 65536
  let x0 := a % h
  let x1 := a / h % h
  let y0 := b % h
  let y1 := b / h % h
  let nanOf := fun (x : Nat) => if m.isNan x then some (m.convert fmt32 .rne x) else none
  match nanOf x0 <|> nanOf y0 <|> nanOf x1 <|> nanOf y1 <|> fmt32.firstNan [c] with
  | some n => n
  | none =>
    (fmt32.sum .rne [(m.term x0).mul (m.term y0), (m.term x1).mul (m.term y1), fmt32.term c]).getD fmt32.nan

/-- `vfdp2`: `.f32` selects BF16 pairs, `.f16` FP16 pairs (R107). With `.f32`, whose sources are pairs of BF16 values, it runs in reduced service: no
type of it is BF16 (R19; DESIGN CHOICE, log 147). -/
def execVfdp2 (f : VFmt) (s : State) : Out :=
  let j := jobV dp2Spec f
  let p : Ty := if j.td == .f16 then .f16 else .bf16
  laneRun s { j with ta := p, tb := p, nb := p, tc := .f32, td := .f32 } noImage fun _ _ x l =>
    fpDp2 (fmtOf p) (x.a l) (x.b l) (x.c l)

/-- `vfneg` (R108). -/
def execVfneg (f : UFmt) (s : State) : Out := fpU fpX (fun m _ a => m.negate a) f s

/-- `vfabs` (R108). -/
def execVfabs (f : UFmt) (s : State) : Out := fpU fpX (fun m _ a => m.abs a) f s

/-- `vfsqrt` (R108). -/
def execVfsqrt (f : UFmt) (s : State) : Out := fpU fpR (fun m r a => m.sqrt r a) f s

/-- `vfrnd` (R108). -/
def execVfrnd (f : UFmt) (s : State) : Out := fpU fpR (fun m r a => m.rint r a) f s

/-- `vsfu.sin` (R111). -/
def execVsfuSin (f : UFmt) (s : State) : Out := fpU sfuSpec (fun _ _ a => sfuSin a) f s

/-- `vsfu.cos` (R111). -/
def execVsfuCos (f : UFmt) (s : State) : Out := fpU sfuSpec (fun _ _ a => sfuCos a) f s

/-- `vsfu.exp2` (R111). -/
def execVsfuExp2 (f : UFmt) (s : State) : Out := fpU sfuSpec (fun _ _ a => sfuExp2 a) f s

/-- `vsfu.log2` (R111). -/
def execVsfuLog2 (f : UFmt) (s : State) : Out := fpU sfuSpec (fun _ _ a => sfuLog2 a) f s

/-- `vsfu.rcp` (R111). -/
def execVsfuRcp (f : UFmt) (s : State) : Out := fpU sfuSpec (fun _ _ a => sfuRcp a) f s

/-- `vsfu.rsqrt` (R111). -/
def execVsfuRsqrt (f : UFmt) (s : State) : Out := fpU sfuSpec (fun _ _ a => sfuRsqrt a) f s

/-- The 16-bit form of operation 9 (R54). -/
def execCFadd (f : CFmt) (s : State) : Out := fpC 9 fpR (fun m r a b _ => m.add r a b) f s

/-- The 16-bit form of operation 10 (R54). -/
def execCFsub (f : CFmt) (s : State) : Out := fpC 10 fpR (fun m r a b _ => m.sub r a b) f s

/-- The 16-bit form of operation 11 (R54). -/
def execCFmul (f : CFmt) (s : State) : Out := fpC 11 fpR (fun m r a b _ => m.mul r a b) f s

/-- The 16-bit form of operation 12 (R54). -/
def execCFmin (f : CFmt) (s : State) : Out := fpC 12 fpX (fun m _ a b _ => m.min a b) f s

/-- The 16-bit form of operation 13 (R54). -/
def execCFmax (f : CFmt) (s : State) : Out := fpC 13 fpX (fun m _ a b _ => m.max a b) f s

/-! Conversions (R109, R110). -/

/-- The low element of a source (R109). -/
def cvtSrc (t : Ty) (a : Nat) : Nat := a % 2 ^ t.width

/-- A converted integer result as it fills the element: extended by the type's signedness. -/
def cvtInt (t : Ty) (v : Int) : Nat := wrapN (max 32 t.width) v

/-- Convert between types that are not `.q` (R109). -/
def cvtPlain (src dst : Ty) (p : Option Prefix) (a : Nat) : Nat :=
  let x := cvtSrc src a
  if src.isInt && dst.isInt then cvtInt dst (clampInt (tyMin dst) (tyMax dst) (valInt src x))
  else if src.isInt then (fmtOf dst).ofInt (rndFor .rne p) (valInt src x)
  else if dst.isInt then
    cvtInt dst ((fmtOf src).toIntSat (if dst == .i8 || dst == .n8 then .rna else rndFor .rtz p) dst x)
  else (fmtOf src).convert (fmtOf dst) (rndFor .rne p) x

/-- Convert from or to `.q` with a format image and an optional FP32 scale (R27, R28, R31). -/
def cvtNarrow (im : W32) (scale : Option Nat) (fromQ : Bool) (a : Nat) : Nat :=
  if fromQ then
    let v := narrowDecode im a
    match scale with
    | none => v
    | some k => fmt32.mul .rne v k
  else narrowEncode im (narrowIn a scale)

/-- The scale mode of tensor record 0 (R110, R306). -/
def td0 (h : Here) : BitVec 512 := SMap.get h.c.tabs.td 0
/-- FMT of a record. -/
def tdFmt (r : BitVec 512) : W32 := r.extractLsb' 80 32
/-- SMODE of a record. -/
def tdSmode (r : BitVec 512) : Nat := (r.extractLsb' 0 3).toNat
/-- SBASE of a record. -/
def tdSbase (r : BitVec 512) : Nat := (r.extractLsb' 112 64).toNat

/-- The image of tensor record 0 that a `.q` conversion takes is refused: format-invalid (R30, R110). -/
def cvtImage (h : Here) : Option Nat :=
  let r := td0 h
  if !imgLegal (tdFmt r) || 2 ≤ tdSmode r || (tdSmode r == 1 && tdSbase r % 4 != 0) then some 0x004 else none

/-- The types of a conversion (R56). -/
def cvtTy (code : Nat) : Ty := (Ty.ofCode code).getD .n32

/-- A result type as the register element that holds it. -/
def holderTy (t : Ty) : Ty := if t.wide then .n64 else .n32

/-- The job of `vcvt`. -/
def jobCvt (f : UNFmt) : LaneJob :=
  let src := cvtTy (f.fn.toNat / 16)
  let dst := cvtTy (f.fn.toNat % 16)
  let ta : Ty := if src == .q then .n32 else src
  { causes := cvtCauses f, svc := src.needsFull || dst.needsFull, pfx := f.pfx, len := lenOf f.pfx, ta := ta, tb := ta, tc := ta,
    td := holderTy dst, nb := ta, a := f.a, b := none, c := none, vd := f.vd, nw := f.nw, sel := false }

/-- The scale of a `.q` conversion, read where the mode is per tensor (R110). -/
def withScale (s : State) (h : Here) (msk len : Nat) (k : State → Option Nat → State) : State :=
  if tdSmode (td0 h) = 0 || h.act msk = 0 then k s none
  else
    match readNow s h (tdSbase (td0 h)) 4 with
    | (.ok bs, s) => k s (some (leNat bs))
    | (.fault c b a, s) => raise (logBad s h c b a) h (h.act msk) len c b (BitVec.ofNat 64 a)
    | (.wait, s) => s

/-- `vcvt`: one value per lane, between types or through the narrow format of record 0 (R109, R110). -/
def execVcvt (f : UNFmt) (s : State) : Out :=
  let src := cvtTy (f.fn.toNat / 16)
  let dst := cvtTy (f.fn.toNat % 16)
  let j := jobCvt f
  let q := src == .q || dst == .q
  issue s fun h =>
    checked s h j.causes j.svc j.msk j.len
      (laneChecks j s h true (if q then cvtImage h else none) fun s h =>
        if q then
          withScale s h j.msk j.len fun s sc =>
            laneFinish j s h fun l => cvtNarrow (tdFmt (td0 h)) sc (src == .q) ((j.src s h).a l)
        else laneFinish j s h fun l => cvtPlain src dst f.pfx ((j.src s h).a l))

/-! Compares (R103). -/

/-- The mask of the lanes 0 to n − 1: active lanes take the condition, disabled ones keep their bit or take 0. -/
def cmpMask (n : Nat) (act old : W64) (zro : Bool) (c : Nat → Bool) : W64 :=
  laneSet n fun l => if inSet act l then c l else !zro && inSet old l

/-- Write a mask register: bits 63:W are 0 (R103, R104). -/
def setMask (g : Group) (kd : Nat) (m : W64) : Group :=
  { g with regs := { g.regs with kreg := SMap.set g.regs.kreg kd (m &&& lanesOf g.w) } }

/-- A compare: kd, the latch, and on (R103). -/
def cmpRun (j : LaneJob) (kd : Nat) (cond : Nat → Nat → Bool) (s : State) : Out :=
  issue s fun h =>
    checked s h j.causes j.svc j.msk j.len
      (laneChecks j s h false none fun s h =>
        let x := j.src s h
        let c := fun l => cond (x.a l) (x.b l)
        let g := setMask h.g kd (cmpMask h.g.w x.act (h.g.maskOf kd) (zroOf j.pfx) c)
        let l0 := latchMap h.g.w fun l => if inSet x.act l && c l then 0xFFFFFFFF else 0
        h.advance (modGroup s h.gid fun _ => pushRing g l0) j.len)

/-- The job of a compare. -/
def jobVC (spec : LaneSpec) (ccMax : Nat) (f : VCFmt) : LaneJob :=
  let t := tyOf spec.dflt f.pfx
  { causes := vcCauses spec ccMax f, svc := t.needsFull, pfx := f.pfx, len := lenOf f.pfx, ta := t, tb := t, tc := t, td := .n32,
    nb := t, a := f.a, b := some f.b, c := none, vd := 0, nw := true, sel := false }

/-- `vcmp` (R103). -/
def execVcmp (f : VCFmt) (s : State) : Out :=
  let j := jobVC cmpSpec 5 f
  cmpRun j f.kd.toNat (fun a b => condInt f.cc.toNat (valInt j.ta a) (valInt j.ta b)) s

/-- `vfcmp` (R103). -/
def execVfcmp (f : VCFmt) (s : State) : Out :=
  let j := jobVC fcmpSpec 7 f
  cmpRun j f.kd.toNat (fun a b => condFp f.cc.toNat ((fmtOf j.ta).cmp a b)) s

end Sys2Proof.Machine
end

