-- ==== Sys2Proof/Machine/Scalar.lean ====
section
/-! DEFINITION. The scalar instructions and the moves between a scalar and a lane (R79, R116 to R119). -/

namespace Sys2Proof.Machine

/-- A result of a scalar type in 64 bits (R79). -/
def scalarExt (t : Ty) (v : Nat) : W64 :=
  if t.wide then BitVec.ofNat 64 v else if t.signed then BitVec.ofInt 64 (sxInt 32 (v % 2 ^ 32)) else BitVec.ofNat 64 (v % 2 ^ 32)

/-- A uniform operand at a type's width (R116). -/
def uniAt (g : Group) (p : Option Prefix) (t : Ty) (c : Byte) : Nat := (uniVal g p c).toNat % 2 ^ t.width

/-- A scalar instruction: its causes, what it names, and the value of sd. -/
def scalarRun (causes : List Nat) (len : Nat) (n : Named) (sd : Byte) (v : Here → W64) (s : State) : Out :=
  issue s fun h =>
    checked s h causes false 0 len
      (withRegs s h { n with sregs := sd.toNat :: n.sregs } fun s h =>
        h.advance (modGroup s h.gid fun g => setSreg g sd.toNat (v h)) len)

/-- A binary scalar operation (R116). -/
def binS (spec : ScalarSpec) (op : Ty → Nat → Nat → Nat → Nat) (f : SFmt) (s : State) : Out :=
  let t := tyOf spec.dflt f.pfx
  scalarRun (sCauses spec f) (lenOf f.pfx) { sregs := scalarNos f.pfx f.a ++ scalarNos f.pfx f.b } f.sd
    (fun h => scalarExt t (op t (uniAt h.g f.pfx t f.a) (uniAt h.g f.pfx t f.b) 0)) s

/-- A unary scalar operation (R117). -/
def unS (spec : ScalarSpec) (op : Ty → Nat → Nat) (f : SUFmt) (s : State) : Out :=
  let t := tyOf spec.dflt f.pfx
  scalarRun (suCauses spec f) (lenOf f.pfx) { sregs := scalarNos f.pfx f.a } f.sd
    (fun h => scalarExt t (op t (uniAt h.g f.pfx t f.a))) s

/-- `sadd`: a + b (R116). -/
def execSadd (f : SFmt) (s : State) : Out := binS scI intAdd f s
/-- `ssub`: a − b (R116). -/
def execSsub (f : SFmt) (s : State) : Out := binS scI intSub f s
/-- `smul`: the low half of a × b (R116). -/
def execSmul (f : SFmt) (s : State) : Out := binS scI intMul f s
/-- `smulh`: the high half of a × b (R116). -/
def execSmulh (f : SFmt) (s : State) : Out := binS scI intMulh f s
/-- `sand`: a AND b (R116). -/
def execSand (f : SFmt) (s : State) : Out := binS scN intAnd f s
/-- `sor`: a OR b (R116). -/
def execSor (f : SFmt) (s : State) : Out := binS scN intOr f s
/-- `sxor`: a XOR b (R116). -/
def execSxor (f : SFmt) (s : State) : Out := binS scN intXor f s
/-- `sshl`: shift left (R116). -/
def execSshl (f : SFmt) (s : State) : Out := binS scN intShl f s
/-- `sshr`: logical shift right (R116). -/
def execSshr (f : SFmt) (s : State) : Out := binS scN intShr f s
/-- `ssra`: arithmetic shift right (R116). -/
def execSsra (f : SFmt) (s : State) : Out := binS scI intSra f s
/-- `smin`: the smaller (R116). -/
def execSmin (f : SFmt) (s : State) : Out := binS scI intMin f s
/-- `smax`: the larger (R116). -/
def execSmax (f : SFmt) (s : State) : Out := binS scI intMax f s
/-- `sseq`: 1 where equal (R116). -/
def execSseq (f : SFmt) (s : State) : Out := binS scN (fun _ a b _ => if a = b then 1 else 0) f s
/-- `ssne`: 1 where different (R116). -/
def execSsne (f : SFmt) (s : State) : Out := binS scN (fun _ a b _ => if a = b then 0 else 1) f s
/-- `sslt`: 1 where less (R116). -/
def execSslt (f : SFmt) (s : State) : Out := binS scI (fun t a b _ => if valInt t a < valInt t b then 1 else 0) f s
/-- `ssle`: 1 where less or equal (R116). -/
def execSsle (f : SFmt) (s : State) : Out := binS scI (fun t a b _ => if valInt t a ≤ valInt t b then 1 else 0) f s

/-- `smov` (R117). -/
def execSmov (f : SUFmt) (s : State) : Out := unS scN (fun _ a => a) f s
/-- `snot` (R117). -/
def execSnot (f : SUFmt) (s : State) : Out := unS scN (fun t a => 2 ^ t.width - 1 - a) f s
/-- `sneg` (R117). -/
def execSneg (f : SUFmt) (s : State) : Out := unS scI (fun t a => wrapN t.width (-(a : Int))) f s
/-- `spopc` (R117). -/
def execSpopc (f : SUFmt) (s : State) : Out := unS scN (fun t a => popN t.width a) f s
/-- `sclz` (R117). -/
def execSclz (f : SUFmt) (s : State) : Out := unS scN (fun t a => clzN t.width a) f s
/-- `sctz` (R117). -/
def execSctz (f : SUFmt) (s : State) : Out := unS scN (fun t a => ctzN t.width a) f s

/-- `sli`: the field, sign-extended (R118). -/
def execSli (f : SIFmt) (s : State) : Out :=
  scalarRun (siCauses f) 4 {} f.sd (fun _ => f.imm.signExtend 64) s

/-- `slih`: shift in 16 bits (R118). -/
def execSlih (f : SIFmt) (s : State) : Out :=
  scalarRun (siCauses f) 4 {} f.sd (fun h => (getSreg h.g f.sd.toNat <<< 16) ||| f.imm.zeroExtend 64) s

/-- `srdl`: lane B mod W of a register or latch (R119). -/
def execSrdl (f : SFmt) (s : State) : Out :=
  let t := tyOf rdlSpec.dflt f.pfx
  let len := lenOf f.pfx
  issue s fun h =>
    let n : Named := (nameSel h f.pfx t.wide f.a).and { sregs := f.sd.toNat :: scalarNos f.pfx f.b }
    checked s h (srdlCauses rdlSpec f) false 0 len
      (if outOfWindow h n then raiseA s h 0 len 0x002 0
       else if badLatch h n then raiseA s h 0 len 0x003 0
       else withRegs s h n fun s h =>
        let l := (uniAt h.g f.pfx t f.b) % h.g.w
        h.advance (modGroup s h.gid fun g => setSreg g f.sd.toNat (scalarExt t (selLane h f.pfx t f.a l))) len)

/-- `swrl`: one lane of vd, where it is active; l from the lowest active lane where B is the lane index (R119; DESIGN CHOICE, log 138). -/
def execSwrl (f : VFmt) (s : State) : Out :=
  let j := jobV swrlSpec f
  issue s fun h =>
    checked s h j.causes j.svc j.msk j.len
      (laneChecks j s h true none fun s h =>
        let x := j.src s h
        let l := x.b (lowest x.act) % h.g.w
        h.advance (if inSet x.act l then modGroup s h.gid fun g => putElem g j.td.wide (h.f.wb * 8 + f.vd.toNat) l (x.a l) else s)
          j.len)

end Sys2Proof.Machine
end

