-- ==== Sys2Proof/Machine/Scan.lean ====
section
/-! DEFINITION. What every per-lane memory instruction shares: effective addresses, the scratchpad's regions, the checks of each lane,
and the park of those that fail (R157, R160 to R165). -/

namespace Sys2Proof.Machine

/-! The scratchpad (R157). -/

/-- A scratchpad region. -/
inductive SRegion where
  | priv | shared | tag
  deriving DecidableEq, Repr

/-- The region of an access of `n` bytes, with its offset there; none where a byte is outside every region (R157). -/
def sRegion (b : Block) (a n : Nat) : Option (SRegion × Nat) :=
  if a + n ≤ b.foot.scratch then some (.priv, a)
  else if 0x40000000 ≤ a && a + n ≤ 0x40000000 + b.foot.shared then some (.shared, a - 0x40000000)
  else if 0xC0000000 ≤ a && a + n ≤ 0xC0000000 + 256 * b.foot.tlines then some (.tag, a - 0xC0000000)
  else none

/-- The 8-byte word that holds a scratchpad byte of a group, by region (R383). -/
def wordKey (b : Block) (gid a : Nat) : Option Nat :=
  match sRegion b a 1 with
  | some (.priv, o) => some (privKey gid o / 8)
  | some (.shared, o) => some (2 ^ 40 + o / 8)
  | some (.tag, o) => some (2 ^ 41 + tagKey (coreIdx b gid) o / 8)
  | none => none

/-- A word with a double-bit error holds one of some bytes (R158). -/
def badHere (b : Block) (gid a n : Nat) : Bool :=
  !b.bad.isEmpty && (List.range n).any fun i => match wordKey b gid (a + i) with | some w => b.bad.contains w | none => false

/-- The words that a write of some bytes fills whole: an error in them is gone (DESIGN CHOICE, log 129: the spec does not say what a write to part of
such a word leaves). -/
def wholeWords (b : Block) (gid a n : Nat) : List Nat :=
  ((List.range n).filter fun i => (a + i) % 8 == 0 && i + 8 ≤ n).filterMap fun i => wordKey b gid (a + i)

/-- Read scratchpad bytes as a group addresses them. A group's private bytes stay for its copies until the block retires (R11, R317). -/
def readScratch (s : State) (gid a n : Nat) : List Byte :=
  match Tbl.get? s.blocks (bsnOf gid) with
  | some b =>
    match sRegion b a n with
    | some (.priv, o) => SMap.getList b.priv (privKey gid o) n
    | some (.shared, o) => SMap.getList b.shared o n
    | some (.tag, o) => SMap.getList b.tlines (tagKey (coreIdx b gid) o) n
    | none => List.replicate n 0
  | none => List.replicate n 0

/-- Put scratchpad bytes as a group addresses them. -/
def putScratch (s : State) (gid a : Nat) (bs : List Byte) : State :=
  match Tbl.get? s.blocks (bsnOf gid) with
  | none => s
  | some b =>
    let s := if b.bad.isEmpty then s
      else modBlock s (bsnOf gid) fun b => { b with bad := b.bad.filter fun w => !(wholeWords b gid a bs.length).contains w }
    match sRegion b a bs.length with
    | some (.priv, o) => modBlock s (bsnOf gid) fun b => { b with priv := SMap.setList b.priv (privKey gid o) bs }
    | some (.shared, o) => modBlock s (bsnOf gid) fun b => { b with shared := SMap.setList b.shared o bs }
    | some (.tag, o) =>
      modBlock s (bsnOf gid) fun b => { b with tlines := SMap.setList b.tlines (tagKey (coreIdx b gid) o) bs }
    | none => s

/-! Waits on byte-counting barrier objects (R345). -/

/-- The issuing fibre of a group that waits, as an issue would see it. -/
def hereOf (s : State) (gid fid : Nat) : Option Here :=
  match Tbl.get? s.groups gid, Tbl.get? s.blocks (bsnOf gid) with
  | some g, some b =>
    match Tbl.get? g.fibres fid, Tbl.get? s.ctxs b.ctx with
    | some f, some c => some { gid := gid, g := g, fid := fid, f := f, b := b, cid := b.ctx, c := c }
    | _, _ => none
  | _, _ => none

/-- PHASE of an object. -/
def barPhase (x : Nat) : Bool := x / 2 ^ 63 % 2 == 1
/-- OVF. -/
def barOvf (x : Nat) : Bool := x / 2 ^ 61 % 2 == 1
/-- An object with OVF cleared. -/
def barClearOvf (x : Nat) : Nat := if barOvf x then x - 2 ^ 61 else x

/-- The object at an address of a group. -/
def barObject (s : State) (gid a : Nat) : Nat := leNat (readScratch s gid a 8)
/-- The word of an object has a double-bit error (R158, R383). -/
def barBad (s : State) (gid a : Nat) : Bool := match Tbl.get? s.blocks (bsnOf gid) with | some b => badHere b gid a 8 | none => false

/-- A `bar.wait` whose phase has come ends: it goes on, or clears OVF and faults (R345). -/
def endBarWait (s : State) (gid fid : Nat) (a : Nat) : State :=
  let x := barObject s gid a
  if barOvf x then
    let s := dropWait (putScratch s gid a (natLE 8 (barClearOvf x))) gid
    match hereOf s gid fid with
    | some h => raiseP s h 0 0x058 0
    | none => s
  else endWait s gid

/-- Recheck the waits of a list of groups. -/
def recheckBarWaits (s : State) (l : List Nat) : State :=
  match l with
  | [] => s
  | gid :: r =>
    match Tbl.get? s.groups gid with
    | some g =>
      match g.wait with
      | some w =>
        match w.kind with
        | .barWait a ph => recheckBarWaits (if barPhase (barObject s gid a) != ph then endBarWait s gid w.fib a else s) r
        | _ => recheckBarWaits s r
      | none => recheckBarWaits s r
    | none => recheckBarWaits s r

/-- The groups of a block by ascending partition, then GIDX (R345). -/
def byPartition (s : State) (bsn : Nat) : List Nat :=
  (List.range 8).flatMap fun p => ((groupsOf s bsn).filter fun e => e.2.place.part % 8 == p).map (·.1)

/-- Write scratchpad bytes of a group; a wait on an object there may end. -/
def writeScratch (s : State) (gid a : Nat) (bs : List Byte) : State :=
  recheckBarWaits (putScratch s gid a bs) (byPartition s (bsnOf gid))

/-! The operands of format M. -/

/-- The job of a format M instruction; `rd` is true where vd is a source, `wr` where it is written, `cas` where D is a source. -/
structure MemJob where
  causes : List Nat
  pfx : Option Prefix
  ty : Ty
  a : Byte
  b : Byte
  sp : Bool
  vd : BitVec 7
  align : Bool
  reads : Bool
  writes : Bool
  usesVd : Bool
  cas : Bool
  disp : Int

/-- The length of the instruction. -/
def MemJob.len (j : MemJob) : Nat := lenOf j.pfx
/-- The mask number. -/
def MemJob.msk (j : MemJob) : Nat := mskOf j.pfx
/-- B is read as 64 bits (R161). -/
def MemJob.absolute (j : MemJob) : Bool := isZero j.a

/-- The signed displacement of a prefix; a prefix whose D is 0x85 as assembled stands for none (R50, R160). (DEDUCED, log 39) -/
def dispOf (p : Option Prefix) : Int :=
  match p with
  | some q => if isZero q.d then 0 else q.d.toInt
  | none => 0

/-- The job of an instruction. -/
def jobM (spec : MemSpec) (f : MFmt) (align reads writes usesVd : Bool) : MemJob :=
  { causes := mCauses spec f, pfx := f.pfx, ty := tyOf spec.dflt f.pfx, a := f.a, b := f.b, sp := f.sp, vd := f.vd, align := align,
    reads := reads, writes := writes, usesVd := usesVd, cas := spec.cas, disp := if spec.cas then 0 else dispOf f.pfx }

/-- The type at which B is read. -/
def MemJob.offTy (j : MemJob) : Ty := if j.absolute then .n64 else .n32

/-- What the instruction names. -/
def MemJob.named (j : MemJob) (h : Here) : Named :=
  let nb := nameSel h j.pfx j.absolute j.b
  let na : Named := { sregs := scalarNos j.pfx j.a }
  let nd := if j.usesVd then nameVd h j.ty.wide j.vd else {}
  let nc := if j.cas then (match j.pfx with | some q => nameSel h j.pfx j.ty.wide q.d | none => {}) else {}
  ((na.and nb).and nd).and nc

/-- A constant offset's 64 bits, sign-extended; an element of fewer bits is sign-extended from bit 31 (R161). -/
def MemJob.ea (j : MemJob) (h : Here) (lane : Nat) : Nat :=
  let e : Int := j.ty.bytes
  let x : Int :=
    if j.absolute then ((selLane h j.pfx .n64 j.b lane : Nat) : Int)
    else sxInt32 (selLane h j.pfx .n32 j.b lane)
  let base : Int := if j.absolute then 0 else ((uniVal h.g j.pfx j.a).toNat : Int)
  ((base + x + j.disp * e) % (2 : Int) ^ 64).toNat
where
  /-- Bits 31:0 read as signed. -/
  sxInt32 (x : Nat) : Int := if 2 ^ 31 ≤ x % 2 ^ 32 then ((x % 2 ^ 32 : Nat) : Int) - 2 ^ 32 else ((x % 2 ^ 32 : Nat) : Int)

/-- A lane's data: vd's element (R167, R170). -/
def MemJob.data (j : MemJob) (h : Here) (lane : Nat) : Nat := getElem h.g j.ty.wide (h.f.wb * 8 + j.vd.toNat) lane

/-! The checks of the lanes (R164). -/

/-- A lane that may go on: its address, and its parts in virtual memory. -/
structure LaneOk where
  lane : Nat
  ea : Nat
  parts : List Part
  deriving DecidableEq, Repr

/-- A lane's fault: lane, code, subcode, address. -/
structure LaneBad where
  lane : Nat
  code : Nat
  sub : Nat
  addr : Nat
  deriving DecidableEq, Repr

/-- What the checks of all lanes answer. -/
structure Scan where
  s : State
  oks : List LaneOk
  bads : List LaneBad
  wait : Bool

/-- The check of one address of `n` bytes: scratch-range; misaligned; a bad word read; then virtual memory (R157, R158, R164). -/
def checkOne (s : State) (h : Here) (sp align reads writes : Bool) (n ea : Nat) : Checked (List Part) × State :=
  if sp then
    if (sRegion h.b ea n).isNone then (.fault 0x020 0 ea, s)
    else if align && ea % n != 0 then (.fault 0x021 0 ea, s)
    else if reads && badHere h.b h.gid ea n then (.fault 0x025 2 ea, s)
    else (.ok [], s)
  else if align && ea % n != 0 then (.fault 0x021 0 ea, s)
  else checkVirtual s h.core h.cid h.c ea n reads writes

/-- Check lanes in ascending order. -/
def scanLanes (h : Here) (sp align reads writes : Bool) (n : Nat) (ea : Nat → Nat) (lanes : List Nat) (r : Scan) : Scan :=
  match lanes with
  | [] => r
  | l :: t =>
    match checkOne r.s h sp align reads writes n (ea l) with
    | (.ok ps, s) => scanLanes h sp align reads writes n ea t { r with s := s, oks := r.oks ++ [⟨l, ea l, ps⟩] }
    | (.fault c b a, s) => scanLanes h sp align reads writes n ea t { r with s := s, bads := r.bads ++ [⟨l, c, b, a⟩] }
    | (.wait, s) => scanLanes h sp align reads writes n ea t { r with s := s, wait := true }

/-- The lanes of a set, ascending. -/
def laneList (m : W64) : List Nat := (List.range 64).filter (inSet m)

/-- The checks of every active lane of a job. -/
def MemJob.scan (j : MemJob) (s : State) (h : Here) : Scan :=
  scanLanes h j.sp j.align j.reads j.writes j.ty.bytes (j.ea h) (laneList (h.act j.msk)) { s := s, oks := [], bads := [], wait := false }

/-- The lanes that failed. -/
def badSet (l : List LaneBad) : W64 := l.foldl (fun m b => m ||| oneLane b.lane) 0

/-- The failing lanes park for the first one's cause; the others go on (R164). -/
def parkBads (s : State) (h : Here) (len : Nat) (l : List LaneBad) : State :=
  match l with
  | [] => h.advance s len
  | b :: _ => raise (l.foldl (fun s x => logBad s h x.code x.sub x.addr) s) h (badSet l) len b.code b.sub (BitVec.ofNat 64 b.addr)

/-- The bytes of a lane's access that the range scoreboard is asked about: scratchpad or not, address, length (R165, R317). -/
abbrev Touch := Bool × Nat × Nat

/-- Two byte ranges share a byte; the first is `lo` to `hi` − 1. -/
def rangesMeet (lo hi a n : Nat) : Bool := lo < a + n && a < hi

/-- A copy's ranges hold a touched byte (R317): memory by virtual address, its local range in the group's or the block's region. -/
def CopyReq.holds (q : CopyReq) (gid : Nat) (t : Touch) : Bool :=
  if t.1 then
    q.dir != 2 && rangesMeet q.laddr q.lhi t.2.1 t.2.2
      && (if t.2.1 < 0x40000000 then q.gid == gid else bsnOf q.gid == bsnOf gid)
  else rangesMeet q.mlo q.mhi t.2.1 t.2.2

/-- The range scoreboard holds the instruction (R165). -/
def rangeBusy (s : State) (h : Here) (l : List Touch) : Bool :=
  (coreOf s h.core).kicks.any fun q => q.ctx == h.cid && l.any (q.holds h.gid)

/-- An earlier store or atomic of a lane touches bytes of its parts (R166). -/
def mustPrecede (h : Here) (l : LaneOk) (a : Acc) : Bool :=
  a.gid == h.gid && a.lane == l.lane && a.writes && a.val.isNone
    && l.parts.any (fun p => p.space == a.space && p.pa < a.pa + a.n && a.pa < p.pa + p.n)

/-- Earlier stores and atomics of the lanes to their bytes are performed before a load issues (R166). -/
def beforeLoads (s : State) (h : Here) (oks : List LaneOk) : State :=
  if inFlight s (fun a => oks.any fun l => mustPrecede h l a) then drainGroup s h.gid else s

/-- An earlier store or atomic of a lane to bytes that a load reads is still due: the load does not issue (R166). -/
def loadsWait (s : State) (h : Here) (oks : List LaneOk) : Bool := inFlight s fun a => oks.any fun l => mustPrecede h l a

/-- Writes to peer pages that the lanes would make. -/
def peerWrites (oks : List LaneOk) : Nat :=
  oks.foldl (fun n l => n + (l.parts.filter fun p => match p.space with | .peer _ => true | _ => false).length) 0

/-- A write to peer pages would overflow the acknowledgement counter: it stalls at issue (R351). -/
def writesWait (s : State) (h : Here) (oks : List LaneOk) : Bool := peerWrites oks != 0 && !ackRoom s h.cid (peerWrites oks)

/-- A job whose lanes were checked stalls at issue: a load behind stores to its bytes, a write without room in the acknowledgement counter. -/
def MemJob.stalls (j : MemJob) (s : State) (h : Here) (oks : List LaneOk) : Bool :=
  !j.sp && ((j.reads && loadsWait s h oks) || (j.writes && writesWait s h oks))

/-- A memory instruction of format M (R160 to R165): fields, window, latches, interlock, then the lanes' checks, the range scoreboard, and
the effect of the lanes that passed. (DEDUCED, log 104) (DEDUCED, log 106) -/
def memRun (j : MemJob) (svc : Bool) (eff : State → Here → List LaneOk → State) (s : State) : Out :=
  issue s fun h =>
    let n := j.named h
    checked s h j.causes svc j.msk j.len
      (if outOfWindow h n then raiseA s h j.msk j.len 0x002 0
       else if badLatch h n then raiseA s h j.msk j.len 0x003 0
       else withRegs s h n fun s h =>
        let r := j.scan s h
        if r.wait || rangeBusy s h ((laneList (h.act j.msk)).map fun l => (j.sp, j.ea h l, j.ty.bytes)) then s
        else
          let t := if j.reads && !j.sp then beforeLoads r.s h r.oks else r.s
          if j.stalls t h r.oks then t else parkBads (eff t h r.oks) h j.len r.bads)

end Sys2Proof.Machine
end

