-- ==== Sys2Proof/Machine/MemLane.lean ====
section
/-! DEFINITION. Loads, stores and prefetch (R166 to R169). -/

namespace Sys2Proof.Machine

/-! Loads (R166). -/

/-- A small loaded value is sign-extended to the element (R166). -/
def loadSext (t : Ty) : Bool :=
  match t with
  | .i8 | .i16 => true
  | _ => false

/-- The accesses of a lane's parts in flight. -/
def laneAccs (s : State) (h : Here) (lane : Nat) (op : Part → AccOp) (dst : Part → Option Dst) (ps : List Part) : List Pend :=
  ps.map fun p => .acc (accOf h lane s.steps (op p) (dst p) p)

/-- Every disabled lane of vd is written with 0 under `.zro`. -/
def zeroDisabled (g : Group) (wide : Bool) (reg : Nat) (act : W64) (zro : Bool) : Group :=
  if zro then writeLanes g wide reg 0 true (fun _ => 0) ((laneNos g.w).filter fun l => !inSet act l) else g

/-- The effect of a load: scratchpad bytes at once, virtual memory in flight. -/
def loadEffect (j : MemJob) (zro : Bool) (s : State) (h : Here) (oks : List LaneOk) : State :=
  let reg := h.f.wb * 8 + j.vd.toNat
  let e := j.ty.bytes
  let dst := fun (lane off : Nat) => ({ reg := .vec reg lane, off := off, size := e, sext := loadSext j.ty } : Dst)
  let s := modGroup s h.gid fun g => zeroDisabled g j.ty.wide reg (h.act j.msk) zro
  if j.sp then
    oks.foldl (fun s l => returnData s h.gid (some (dst l.lane 0)) (readScratch s h.gid l.ea e)) s
  else
    pushPend s (oks.flatMap fun l => laneAccs s h l.lane (fun _ => .load) (fun p => some (dst l.lane p.off)) l.parts)

/-- `ld` (R166). -/
def execLd (f : MFmt) (s : State) : Out :=
  let j := jobM ldSpec f false true false true
  memRun j j.ty.needsFull (fun s h oks => loadEffect j (zroOf f.pfx) s h oks) s

/-! Stores (R167). -/

/-- The bytes of a part of a value. -/
def partBytes (v : Nat) (p : Part) : List Byte := natLE p.n (v / 256 ^ p.off)

/-- The effect of a store: the highest lane's value remains where lanes share a byte (R163). -/
def storeEffect (j : MemJob) (s : State) (h : Here) (oks : List LaneOk) : State :=
  if j.sp then oks.foldl (fun s l => writeScratch s h.gid l.ea (natLE j.ty.bytes (j.data h l.lane))) s
  else
    pushPend s (oks.flatMap fun l =>
      laneAccs s h l.lane (fun p => .store (partBytes (j.data h l.lane) p)) (fun _ => none) l.parts)

/-- `st` (R167). -/
def execSt (f : MFmt) (s : State) : Out :=
  let j := jobM stSpec f false false true true
  memRun j j.ty.needsFull (fun s h oks => storeEffect j s h oks) s

/-! Prefetch (R168). -/

/-- A lane's lines are asked for; nothing is held against the lane. -/
def prefetch (s : State) (oks : List LaneOk) : State :=
  oks.foldl (fun s l => l.parts.foldl (fun s p =>
    if p.space == .loc then touchLoc s p.pa p.n p.world false else s) s) s

/-- `pf`: no check of a lane's address raises a fault, such lanes are ignored (R168); what it names is checked as for any instruction (R78, R92).
(DEDUCED, log 25) -/
def execPf (f : MFmt) (s : State) : Out :=
  let j := jobM pfSpec f false false false false
  issue s fun h =>
    let n := j.named h
    checked s h j.causes j.ty.needsFull j.msk j.len
      (if outOfWindow h n then raiseA s h j.msk j.len 0x002 0
       else if badLatch h n then raiseA s h j.msk j.len 0x003 0
       else withRegs s h n fun s h =>
        if rangeBusy s h ((laneList (h.act j.msk)).map fun l => (false, j.ea h l, j.ty.bytes)) then s
        else
          let r := j.scan s h
          h.advance (prefetch r.s r.oks) j.len)

/-! Scalar loads and stores (R169). -/

/-- The address of `sld` and `sst`. -/
def scalarEa (h : Here) (f : SFmt) : Nat := (uniVal h.g f.pfx f.a + uniVal h.g f.pfx f.b).toNat

/-- A scalar memory access once per issue, as the access of the lowest lane of PRED; a fault parks PRED (R169). It stalls as a lane's would (R166,
R351). -/
def scalarMem (f : SFmt) (reads writes : Bool) (eff : State → Here → LaneOk → State) (s : State) : Out :=
  let t := tyOf scMem.dflt f.pfx
  let len := lenOf f.pfx
  issue s fun h =>
    checked s h (sCauses scMem f) false 0 len
      (withRegs s h { sregs := f.sd.toNat :: (scalarNos f.pfx f.a ++ scalarNos f.pfx f.b) } fun s h =>
        let ea := scalarEa h f
        if rangeBusy s h [(false, ea, t.bytes)] then s
        else
          match checkVirtual s h.core h.cid h.c ea t.bytes reads writes with
          | (.ok ps, s) =>
            let l : LaneOk := ⟨lowest h.f.pred, ea, ps⟩
            let s := if reads then beforeLoads s h [l] else s
            if (reads && loadsWait s h [l]) || (writes && writesWait s h [l]) then s else h.advance (eff s h l) len
          | (.fault c b a, s) => raisePAt (logBad s h c b a) h len c b a
          | (.wait, s) => s)

/-- `sld` (R169). -/
def execSld (f : SFmt) (s : State) : Out :=
  let t := tyOf scMem.dflt f.pfx
  scalarMem f true false (fun s h l =>
    pushPend s (laneAccs s h l.lane (fun _ => .load)
      (fun p => some { reg := .scalar f.sd.toNat, off := p.off, size := t.bytes, sext := t.signed }) l.parts)) s

/-- `sst` (R169). -/
def execSst (f : SFmt) (s : State) : Out :=
  scalarMem f false true (fun s h l =>
    pushPend s (laneAccs s h l.lane (fun p => .store (partBytes (getSreg h.g f.sd.toNat).toNat p)) (fun _ => none) l.parts)) s

end Sys2Proof.Machine
end

