-- ==== Sys2Proof/Machine/Tags.lean ====
section
/-! DEFINITION. The tag table and fences (R178 to R182). -/

namespace Sys2Proof.Machine

/-! The tag table of a block's core (R178). -/

/-- The key of a slot's entry. -/
def tagAt (idx slot : Nat) : Nat := idx * 4096 + slot
/-- A slot's entry; as reset, its AGE is its way. -/
def tagOf (b : Block) (idx slot : Nat) : TagEntry := (Tbl.get? b.tags (tagAt idx slot)).getD { key := 0, age := slot % b.foot.tways, v := false }
/-- The set of a key. -/
def tagSet (b : Block) (key : Nat) : Nat := key / 256 % (b.foot.tlines / b.foot.tways)
/-- The slots of a set. -/
def setSlots (b : Block) (set : Nat) : List Nat := (List.range b.foot.tways).map fun w => set * b.foot.tways + w
/-- The valid slot of a set that holds a key. -/
def tagHit (b : Block) (idx key : Nat) : Option Nat :=
  (setSlots b (tagSet b key)).find? fun sl => (tagOf b idx sl).v && (tagOf b idx sl).key == BitVec.ofNat 64 key
/-- The victim of a set: its lowest invalid way, or the oldest. -/
def tagVictim (b : Block) (idx key : Nat) : Nat :=
  let l := setSlots b (tagSet b key)
  match l.find? fun sl => !(tagOf b idx sl).v with
  | some sl => sl
  | none => (l.find? fun sl => (tagOf b idx sl).age == b.foot.tways - 1).getD (tagSet b key * b.foot.tways)
/-- Write an entry. -/
def setTag (b : Block) (idx slot : Nat) (e : TagEntry) : Block := { b with tags := Tbl.set b.tags (tagAt idx slot) e }
/-- Change the ages of a set. -/
def setAges (b : Block) (idx : Nat) (l : List Nat) (f : Nat → Nat) : Block :=
  match l with
  | [] => b
  | sl :: r => setAges (setTag b idx sl { tagOf b idx sl with age := f (tagOf b idx sl).age }) idx r f
/-- Touch an entry (R178). -/
def touchTag (b : Block) (idx slot : Nat) : Block :=
  let a := (tagOf b idx slot).age
  let b := setAges b idx (setSlots b (slot / b.foot.tways)) fun x => if x < a then x + 1 else x
  setTag b idx slot { tagOf b idx slot with age := 0 }
/-- Clear an entry: V is 0 and it is its set's oldest (R180). -/
def clearTag (b : Block) (idx slot : Nat) : Block :=
  let a := (tagOf b idx slot).age
  let b := setAges b idx (setSlots b (slot / b.foot.tways)) fun x => if a < x then x - 1 else x
  setTag b idx slot { key := 0, age := b.foot.tways - 1, v := false }

/-- A key operand: bits 7:0 cleared. -/
def tagKeyOf (v : W64) : Nat := v.toNat / 256 * 256

/-- Write two scalars. -/
def putTwo (s : State) (h : Here) (n : Nat) (v0 v1 : W64) : State :=
  modGroup s h.gid fun g => setSreg (setSreg g n v0) (n + 1) v1

/-- `sp.look` (R179). -/
def execSpLook (f : SFmt) (s : State) : Out :=
  let len := lenOf f.pfx
  let d := f.sd.toNat
  issue s fun h =>
    checked s h (spLookCauses f) false 0 len
      (withRegs s h { sregs := [d, d + 1] ++ scalarNos f.pfx f.a } fun s h =>
        if h.b.foot.tlines = 0 then raiseP s h len 0x020 0
        else
          let key := tagKeyOf (uniVal h.g f.pfx f.a)
          h.advance (match tagHit h.b h.idx key with
            | some sl => putTwo (modBlock s h.bsn fun b => touchTag b h.idx sl) h d (BitVec.ofNat 64 sl) 0
            | none =>
              let v := tagVictim h.b h.idx key
              let e := tagOf h.b h.idx v
              putTwo s h d (BitVec.ofNat 64 (2 ^ 63 + (if e.v then 2 ^ 62 else 0) + v)) (if e.v then e.key else 0)) len)

/-- A G-format instruction that acts once: fields, service, interlock on scalars, then its effect. -/
def gRun (causes : List Nat) (svc : Bool) (p : Option Prefix) (regs : List Nat) (k : State → Here → Nat → State) (s : State) : Out :=
  issue s fun h =>
    checked s h causes svc 0 (lenOf p) (withRegs s h { sregs := regs } fun s h => k s h (lenOf p))

/-- `sp.set` (R180). -/
def execSpSet (f : GFmt) (s : State) : Out :=
  gRun (spSetCauses f) false f.pfx (scalarNos f.pfx f.a ++ scalarNos f.pfx f.b) (fun s h len =>
    let slot := (uniVal h.g f.pfx f.a).toNat % 4096
    let key := tagKeyOf (uniVal h.g f.pfx f.b)
    let put := fun (s : State) (v : Nat) => modGroup s h.gid fun g => setSreg g (scalarNo f.pfx f.a) (BitVec.ofNat 64 v)
    if h.b.foot.tlines ≤ slot || slot / h.b.foot.tways != tagSet h.b key then raiseP s h len 0x020 0
    else
      match tagHit h.b h.idx key with
      | some w => h.advance (put s (2 ^ 63 + w)) len
      | none =>
        h.advance (put (modBlock s h.bsn fun b =>
          touchTag (setTag b h.idx slot { tagOf b h.idx slot with key := BitVec.ofNat 64 key, v := true }) h.idx slot) slot) len) s

/-- Clear every entry of a list. -/
def clearTags (b : Block) (idx : Nat) (l : List Nat) : Block :=
  match l with
  | [] => b
  | sl :: r => clearTags (clearTag b idx sl) idx r

/-- `sp.inv`: one slot, or every entry of the block on the core (R180). (DEDUCED, log 40) A slot at or above TLINES raises scratch-range, as a block
without a tag table does (DESIGN CHOICE, log 146). -/
def execSpInv (f : GFmt) (s : State) : Out :=
  gRun (spInvCauses f) false f.pfx (scalarNos f.pfx f.a) (fun s h len =>
    let n := h.b.foot.tlines
    if n = 0 then raiseP s h len 0x020 0
    else if isOnes f.a then h.advance (modBlock s h.bsn fun b => clearTags b h.idx (List.range n)) len
    else
      let slot := (uniVal h.g f.pfx f.a).toNat % 4096
      if n ≤ slot then raiseP s h len 0x020 0 else h.advance (modBlock s h.bsn fun b => clearTag b h.idx slot) len) s

/-! Fences (R182). -/

/-- The kind of a fence: acquire-release, acquire, release. -/
def fenceKind (f : YFmt) : Nat := f.fn.toNat / 4
/-- The scope: group, block, device, system. -/
def fenceScope (f : YFmt) : Nat := f.fn.toNat % 4

/-- A fence orders an access: one to a page of the host or of a peer at system scope alone (R367). -/
def fenceSees (f : YFmt) (a : Acc) : Bool := fenceScope f == 3 || a.space == .loc

/-- A fence holds later accesses until this one is performed: an acquire for what reads, a release of device or system scope for every one (R182). A
release of group or block scope orders it for those agents alone, by a mark (R372, R377; DEDUCED, log 15). -/
def fenceHolds (f : YFmt) (h : Here) (a : Acc) : Bool :=
  a.gid == h.gid && fenceSees f a && ((fenceKind f != 2 && a.reads) || (fenceKind f != 1 && 2 ≤ fenceScope f))

/-- An access that the fence holds for is in flight and has not left. -/
def fenceLeft (s : State) (h : Here) (f : YFmt) : Bool :=
  s.mem.pend.any fun p => match p with | .acc a => fenceHolds f h a | _ => false

/-- The accesses that a fence holds for are finished; with those that they must follow, where there are such (R163, R182). -/
def fenceFinish (s : State) (h : Here) (f : YFmt) : State :=
  let t := settle s (fenceHolds f h)
  if fenceLeft t h f then drainGroup t h.gid else t

/-- A signal, an event record or a barrier update of a group is held back: an event of the group like its accesses (R365). -/
def entriesDue (s : State) (gid : Nat) : Bool :=
  s.mem.pend.any fun p => match p with | .acc _ => false | .tex _ => false | .signal g _ _ _ => g == gid | .event g _ _ => g == gid | .barrier g _ _ _ => g == gid

/-- The fence must still wait: an access that it holds for is due; under a release, an `acc.st` is due or another event of the group is held back, and
at system scope an acknowledgement of the context is outstanding (R182, R372). -/
def fenceWaits (s : State) (h : Here) (f : YFmt) : Bool :=
  inFlight s (fun a => fenceHolds f h a && a.reads) || fenceLeft s h f
    || (fenceKind f != 1 && (entriesDue s h.gid || accStoresDue s h.gid || (fenceScope f == 3 && h.c.counts.ack != 0)))

/-- An access with the mark of a fence of a level: the level rises, the step of the first stays. -/
def Acc.marked (a : Acc) (level step : Nat) : Acc :=
  { a with mark := match a.mark with | none => some (level, step) | some (l, t) => some (max l level, t) }

/-- A release fence of group or block scope marks what the group has in flight to local memory and has not performed (R182, R372, R377). -/
def fenceMark (s : State) (h : Here) (f : YFmt) : State :=
  if fenceKind f == 1 || 2 ≤ fenceScope f then s
  else
    { s with mem := { s.mem with pend := s.mem.pend.map fun p =>
        match p with
        | .acc a => if a.gid == h.gid && fenceSees f a && a.val.isNone then .acc (a.marked (fenceScope f) s.steps) else p
        | p => p } }

/-- `fence` (R182). -/
def execFence (f : YFmt) (s : State) : Out :=
  issue s fun h =>
    checked s h (fenceCauses f) false 0 (lenOf f.pfx)
      (let s := fenceFinish s h f
       match s.here with
       | none => s
       | some h => if fenceWaits s h f then s else h.advance (fenceMark s h f) (lenOf f.pfx))

end Sys2Proof.Machine
end

