-- ==== Sys2Proof/Machine/Fibres.lean ====
section
/-! DEFINITION. Fibre and control instructions (R57, R120 to R131). -/

namespace Sys2Proof.Machine

/-- A control instruction: fields, window, latches, interlock; then its effect, the loss of the latches and a switch point (R121, R124).
`wbad` says that a new window base is refused. All that one instruction causes of R121's events (it executes, its fibre ends, a frame completes) makes
one switch point (DESIGN CHOICE, log 126). (DEDUCED, log 102) -/
def ctlRun (causes : List Nat) (p : Option Prefix) (n : Here → Named) (wbad : Here → Bool) (yielder : Bool)
    (k : State → Here → Nat → Except Nat Group) (s : State) : Out :=
  let len := lenOf p
  issue s fun h =>
    checked s h causes false 0 len
      (if outOfWindow h (n h) then raiseP s h len 0x002 0
       else withRegs s h (n h) fun s h =>
        if wbad h then raiseP s h len 0x002 0
        else if badLatch h (n h) then raiseP s h len 0x003 0
        else
          match k s h len with
          | .error code => raiseP s h len code 0
          | .ok g =>
            afterSwitch (loseLatches (modGroup s h.gid fun _ => g) h.gid) h.gid (if yielder then some h.fid else none))

/-- The target of a branch: the instruction's address and twice OFF (R39, R125). -/
def branchTarget (h : Here) (off : Half) : W64 := h.f.pc + BitVec.ofInt 64 (2 * off.toInt)

/-- The lanes of PRED whose condition holds (R125). -/
def condLanes (h : Here) (p : Option Prefix) (c : Byte) : W64 :=
  if isVec c || isLatch c || isIdx c then
    laneSet h.g.w fun l => inSet h.f.pred l && selLane h p .n32 c l % 2 ^ 32 != 0
  else if uniVal h.g p c = 0 then 0 else h.f.pred

/-- Branch the fibre: the taken lanes go to the target, the others on; both kinds present split it (R125). -/
def splitFibre (g : Group) (h : Here) (tk target : W64) (len : Nat) : Group :=
  let nt := h.f.pred &&& ~~~tk
  let next := h.f.pc + BitVec.ofNat 64 len
  if nt = 0 then modFibre g h.fid fun f => { f with pc := target }
  else if tk = 0 then modFibre g h.fid fun f => { f with pc := next }
  else addFibre (modFibre g h.fid fun f => { f with pred := nt, pc := next }) (newFibre target tk h.f.wb)

/-- `br` (R125). -/
def execBr (f : JFmt) (s : State) : Out :=
  ctlRun (jCauses f) f.pfx (fun h => nameSel h f.pfx false f.c) (fun _ => false) false
    (fun _ h len => .ok ((splitFibre h.g h (condLanes h f.pfx f.c) (branchTarget h f.off) len))) s

/-- `brn`: the condition inverted (R125). -/
def execBrn (f : JFmt) (s : State) : Out :=
  ctlRun (jCauses f) f.pfx (fun h => nameSel h f.pfx false f.c) (fun _ => false) false
    (fun _ h len => .ok ((splitFibre h.g h (h.f.pred &&& ~~~(condLanes h f.pfx f.c)) (branchTarget h f.off) len))) s

/-- Open a join frame for a fibre's lanes (R126). (DEDUCED, log 31) -/
def openFrame (g : Group) (pred : W64) : Group :=
  { g with frames := Tbl.set g.frames (Tbl.freshFrom g.frames 0 16)
             { mem := pred, arr := 0, js := false, jpc := 0, jwb := 0, seq := g.frames.length } }

/-- `fib.fork`: a frame, then the branch; 16 open frames overflow (R126). -/
def execFibFork (f : JFmt) (s : State) : Out :=
  ctlRun (jCauses f) f.pfx (fun h => nameSel h f.pfx false f.c) (fun _ => false) false
    (fun _ h len =>
      if 16 ≤ h.g.frames.length then .error 0x018
      else .ok ((splitFibre (openFrame h.g h.f.pred) h (condLanes h f.pfx f.c) (branchTarget h f.off) len))) s

/-- A window base in units of 8 registers is refused (R127). -/
def badBase (h : Here) (nwb : Int) : Bool := nwb < 0 || (h.g.total : Int) - 8 < 8 * nwb

/-- Write a link into the pair at a window's base, in the lanes of PRED (R127). -/
def writeLink (g : Group) (pred : W64) (wb : Nat) (ra : W64) : Group :=
  writeLanes g true (8 * wb) pred false (fun _ => ra.toNat) (laneNos g.w)

/-- `call` (R127). -/
def execCall (f : JFmt) (s : State) : Out :=
  let nwb := fun (h : Here) => (h.f.wb : Int) + f.c.toInt
  ctlRun (jCauses f) f.pfx
    (fun h => if badBase h (nwb h) then {} else { vregs := [8 * (nwb h).toNat, 8 * (nwb h).toNat + 1] })
    (fun h => badBase h (nwb h)) false
    (fun _ h len =>
      let wb := (nwb h).toNat
      let g := modFibre h.g h.fid fun x => { x with wb := wb, pc := branchTarget h f.off }
      .ok ((writeLink g h.f.pred wb (h.f.pc + BitVec.ofNat 64 len)))) s

/-- The target of a lane: bit 0 ignored (R38, R128). -/
def indTarget (h : Here) (p : Option Prefix) (c : Byte) (l : Nat) : Nat :=
  (if isScalar c then (uniVal h.g p c).toNat else selLane h p .n64 c l) / 2 * 2

/-- The distinct targets of the lanes of PRED, rising. -/
def indTargets (h : Here) (p : Option Prefix) (c : Byte) : List Nat :=
  (laneList h.f.pred).foldl (fun l x => insertUp (indTarget h p c x) l) []

/-- The lanes of PRED with a target. -/
def lanesTo (h : Here) (p : Option Prefix) (c : Byte) (t : Nat) : W64 := laneSet 64 fun l => inSet h.f.pred l && indTarget h p c l == t

/-- The further targets become new fibres (R128). -/
def addTargets (g : Group) (h : Here) (p : Option Prefix) (c : Byte) (wb : Nat) (l : List Nat) : Group :=
  match l with
  | [] => g
  | t :: r => addTargets (addFibre g (newFibre (BitVec.ofNat 64 t) (lanesTo h p c t) wb)) h p c wb r

/-- An indirect branch: window, link, targets (R128). -/
def indRun (causes : List Nat) (f : GFmt) (shift : Here → Int) (link : Bool) (s : State) : Out :=
  let nwb := fun (h : Here) => (h.f.wb : Int) + shift h
  ctlRun causes f.pfx
    (fun h =>
      let n := (nameSel h f.pfx true f.a).and { sregs := scalarNos f.pfx f.b }
      if link && !badBase h (nwb h) then n.and { vregs := [8 * (nwb h).toNat, 8 * (nwb h).toNat + 1] } else n)
    (fun h => badBase h (nwb h)) false
    (fun _ h len =>
      let wb := (nwb h).toNat
      match indTargets h f.pfx f.a with
      | [] => .ok h.g
      | t :: r =>
        let g := modFibre h.g h.fid fun x => { x with wb := wb, pc := BitVec.ofNat 64 t, pred := lanesTo h f.pfx f.a t }
        let g := if link then writeLink g h.f.pred wb (h.f.pc + BitVec.ofNat 64 len) else g
        .ok ((addTargets g h f.pfx f.a wb r))) s

/-- `br.ind` (R128). -/
def execBrInd (f : GFmt) (s : State) : Out := indRun (brIndCauses f) f (fun _ => 0) false s
/-- `call.ind` (R128). -/
def execCallInd (f : GFmt) (s : State) : Out := indRun (callIndCauses f) f (fun h => (uniVal h.g f.pfx f.b).toInt) true s
/-- `ret` (R128). -/
def execRet (f : GFmt) (s : State) : Out := indRun (retCauses f) f (fun h => -(uniVal h.g f.pfx f.b).toInt) false s

/-- The lanes of PRED whose innermost frame is one with an index (R129). -/
def joinLanes (g : Group) (pred : W64) (k : Nat) : W64 :=
  laneSet 64 fun l => inSet pred l && (match innermost g.frames l with | some e => e.1 == k | none => false)

/-- A frame that lanes of PRED arrive at refuses the address or the window (R129). -/
def joinRefused (g : Group) (f : Fibre) : Bool :=
  g.frames.any fun e => joinLanes g f.pred e.1 != 0 && e.2.js && (e.2.jpc != f.pc || e.2.jwb != f.wb)

/-- Every frame takes its arrivals at a `fib.join` (R129). -/
def arrive (g : Group) (f : Fibre) : Tbl Frame :=
  g.frames.map fun e =>
    let l := joinLanes g f.pred e.1
    if l = 0 then e
    else (e.1, { e.2 with arr := e.2.arr ||| l, js := true, jpc := if e.2.js then e.2.jpc else f.pc,
                           jwb := if e.2.js then e.2.jwb else f.wb })

/-- The lanes with no open frame. -/
def unframed (g : Group) (pred : W64) : W64 := laneSet 64 fun l => inSet pred l && (innermost g.frames l).isNone

/-- `fib.join` (R129). Lanes go on 4 bytes after its address, under a prefix too, where they then meet the prefixed word alone (R39; DEDUCED, log 24). -/
def execFibJoin (f : GFmt) (s : State) : Out :=
  ctlRun (fibJoinCauses f) f.pfx (fun _ => {}) (fun _ => false) false
    (fun _ h _ =>
      if joinRefused h.g h.f then .error 0x019
      else
        let rest := unframed h.g h.f.pred
        let g := { h.g with frames := arrive h.g h.f }
        let g := if rest = 0 then endFibre g h.fid else modFibre g h.fid fun x => { x with pred := rest, pc := x.pc + 4 }
        .ok ((completeFrames g))) s

/-- `fib.exit` (R130). -/
def execFibExit (f : GFmt) (s : State) : Out :=
  ctlRun (fibExitCauses f) f.pfx (fun _ => {}) (fun _ => false) false
    (fun _ h _ => .ok ((exitLanes (endFibre h.g h.fid) h.f.pred))) s

/-- `fib.yield`: the PC goes on by 4, under a prefix too (R131; DEDUCED, log 24). -/
def execFibYield (f : GFmt) (s : State) : Out :=
  ctlRun (fibYieldCauses f) f.pfx (fun _ => {}) (fun _ => false) true
    (fun _ h _ => .ok ((modFibre h.g h.fid fun x => { x with pc := x.pc + 4 }))) s

/-- `nop`: the PC goes on by 4, under a prefix too (R57; DEDUCED, log 24). -/
def execNop (f : GFmt) (s : State) : Out :=
  issue s fun h => checked s h (nopCauses f) false 0 (lenOf f.pfx) (h.advance s 4)

end Sys2Proof.Machine
end

