-- ==== Sys2Proof/Machine/Handlers.lean ====
section
/-! DEFINITION. The handler instructions (R134 to R138, R193). -/

namespace Sys2Proof.Machine

/-- A handler instruction: fields, privilege, interlock, a live handle, then its effect on group `gid`, fibre `fnum` (R134). -/
def pkRun (causes : List Nat) (f : GFmt) (handle : Byte) (regs : List Nat) (k : State → Here → Nat → Nat → Nat → State) (s : State) : Out :=
  let len := lenOf f.pfx
  issue s fun h =>
    checked s h causes false 0 len
      (if !h.isHandler then raiseP s h len 0x005 0
       else withRegs s h { sregs := regs } fun s h =>
        match liveHandle s h.cid (uniVal h.g f.pfx handle) with
        | none => raiseA s h 0 len 0x01A 0
        | some (gid, fnum) => k s h len gid fnum)

/-- The fibre of a group. -/
def fibreAt (s : State) (gid fnum : Nat) : Option Fibre :=
  match Tbl.get? s.groups gid with
  | some g => Tbl.get? g.fibres fnum
  | none => none

/-- The state word of a fibre (R135). -/
def fibreWord (fnum : Nat) (f : Fibre) : W64 :=
  BitVec.ofNat 64 ((match f.micro with | some m => 2 ^ 22 + m.upc % 64 * 2 ^ 16 | none => 0) + fnum * 32 + f.wb)

/-- `pk.rd`: PC, PRED and the state word (R135). -/
def execPkRd (f : GFmt) (s : State) : Out :=
  let d := scalarNo f.pfx f.a
  pkRun (pkRdCauses f) f f.b ([d, d + 1, d + 2] ++ scalarNos f.pfx f.b) (fun s h len gid fnum =>
    match fibreAt s gid fnum with
    | none => s
    | some x =>
      h.advance (modGroup s h.gid fun g => setSreg (setSreg (setSreg g d x.pc) (d + 1) x.pred) (d + 2) (fibreWord fnum x)) len) s

/-- Lanes of a parked fibre exit, and the fibre keeps `m` (R130, R136). -/
def exitParked (g : Group) (fnum : Nat) (gone m : W64) : Group :=
  exitLanes (if m = 0 then endFibre g fnum else modFibre g fnum fun x => { x with pred := m }) gone

/-- Lanes of a parked fibre of a group exit, and the fibre keeps `m`; a switch point follows where a frame completed (R121, R136). -/
def exitAt (s : State) (gid fnum : Nat) (gone m : W64) : State :=
  match Tbl.get? s.groups gid with
  | none => s
  | some g =>
    let g' := exitParked g fnum gone m
    settleGroup (modGroup s gid fun _ => g') gid (g'.frames.length != g.frames.length) (issuable s gid)

/-- `pk.mask` (R136). -/
def execPkMask (f : GFmt) (s : State) : Out :=
  pkRun (pkMaskCauses f) f f.a (scalarNos f.pfx f.a ++ scalarNos f.pfx f.b) (fun s h len gid fnum =>
    let m := uniVal h.g f.pfx f.b
    match fibreAt s gid fnum with
    | none => s
    | some x =>
      if m &&& ~~~x.pred != 0 then raiseA s h 0 len 0x01A 0
      else if m = x.pred then h.advance s len
      else
        exitAt (h.advance s len) gid fnum (x.pred &&& ~~~m) m) s

/-- The word at a parked fibre's pc is a matrix instruction (R193). -/
def parkedAtMm (s : State) (cid core : Nat) (c : Ctx) (pc : W64) : Bool :=
  let byteAt := fun (a : Nat) =>
    match (translateRaw s core cid c a false true).1 with
    | .ok e => (nth (readPhys s.mem e.space (partOf e a 0 1).pa 1) 0 0).toNat
    | _ => 0
  let a := pc.toNat
  byteAt a == 0xD1 || (byteAt a == 0xFD && byteAt (a + 4) == 0xD1)

/-- GANG names a set, as it stands when the handler edits: an `mm` of the group is a joint one (R142, R191). A set of one, whose `mm` is solo, counts as
well (DESIGN CHOICE, log 145). -/
def ganged (g : Group) : Bool := g.gang.toNat / 2 ^ 48 % 8 != 0

/-- An edit that takes a fibre away from a ganged matrix instruction aborts its joint operation (R136, R193). -/
def abortAt (s : State) (h : Here) (gid : Nat) (x : Fibre) : State :=
  match Tbl.get? s.groups gid with
  | none => s
  | some g =>
    if x.micro.isNone && ganged g && parkedAtMm s h.cid g.place.core h.c x.pc then abortGang s g.place.core gid else s

/-- `pk.pc` (R136). -/
def execPkPc (f : GFmt) (s : State) : Out :=
  pkRun (pkPcCauses f) f f.a (scalarNos f.pfx f.a ++ scalarNos f.pfx f.b) (fun s h len gid fnum =>
    match fibreAt s gid fnum with
    | none => s
    | some x =>
      let s := abortAt (h.advance s len) h gid x
      modGroup s gid fun g => modFibre g fnum fun x =>
        { x with pc := (uniVal h.g f.pfx f.b) &&& ~~~1, micro := none }) s

/-- `pk.resume` (R136). -/
def execPkResume (f : GFmt) (s : State) : Out :=
  pkRun (pkResumeCauses f) f f.a (scalarNos f.pfx f.a) (fun s h len gid fnum =>
    settleGroup (modGroup (h.advance s len) gid fun g => modFibre g fnum fun x => { x with st := .runnable }) gid true (issuable s gid)) s

/-- `pk.kill` (R136). -/
def execPkKill (f : GFmt) (s : State) : Out :=
  pkRun (pkKillCauses f) f f.a (scalarNos f.pfx f.a) (fun s h len gid fnum =>
    match fibreAt s gid fnum with
    | none => s
    | some x =>
      let s := abortAt (h.advance s len) h gid x
      exitAt s gid fnum x.pred 0) s

/-- `hdl.ret`: every lane of the invocation exits, and its record is consumed (R137, R149; DEDUCED, log 17). -/
def execHdlRet (f : GFmt) (s : State) : Out :=
  let len := lenOf f.pfx
  issue s fun h =>
    checked s h (hdlRetCauses f) false 0 len
      (if !h.isHandler then raiseP s h len 0x005 0
       else endGroup s h.gid)

end Sys2Proof.Machine
end

