-- ==== Sys2Proof/Machine/SysReg.lean ====
section
/-! DEFINITION. System registers, software traps and signals (R141 to R154). -/

namespace Sys2Proof.Machine

/-- The queue slot that WAKE reaches for a group (R142, R149). -/
def Here.wakeSlot (h : Here) : Option Nat := match h.g.handler with | some r => r.slot | none => h.b.slot
/-- PTI, PTJ, PTK (R142, R149). -/
def Here.point (h : Here) : Nat × Nat × Nat := match h.g.handler with | some r => r.pt | none => h.b.pt

/-- The display of the present queue of lowest number that an OID holds (R142). -/
def pacingDisplay (s : State) (oid : Nat) : Option Nat := (s.pix.pqs.find? fun e => e.2.a.oid == oid).map (·.2.a.disp)
/-- FRAMEGEN (R142, R284). -/
def frameGen (s : State) (oid : Nat) : Nat :=
  match pacingDisplay s oid with
  | none => 0
  | some d => (match Tbl.get? s.pix.disps d with | some x => x.gen | none => 0)

/-- ACCOWN as a context reads it: MINE, V, CTX (R142, R201). -/
def accown (s : State) (h : Here) : W64 :=
  match (coreOf s h.core).owner with
  | none => 0
  | some o => if o == (h.cid, h.lcore) then BitVec.ofNat 64 (2 ^ 16 + 2 ^ 12 + h.cid) else BitVec.ofNat 64 (2 ^ 12)

/-- SLICE (R142, R240). -/
def sliceLeft (s : State) (vf : Nat) : W64 :=
  match (vfOf s vf).sliceEnd, sharers s vf with
  | none, _ => 0xFFFFFFFF
  | _, [] => 0xFFFFFFFF
  | some e, _ :: _ => BitVec.ofNat 64 ((e - s.time) % 2 ^ 32)

/-- The value of a system register for the issuing group; none where the group has no right to read it (R141, R142). -/
def readSys (s : State) (h : Here) (n : Nat) : Option W64 :=
  let nat := fun (x : Nat) => some (BitVec.ofNat 64 x)
  match n with
  | 0x000 => nat h.g.w
  | 0x001 => some h.g.gang
  | 0x002 => some (accown s h)
  | 0x003 => some (h.c.counts.grant.zeroExtend 64 <<< 32 ||| h.c.counts.stall.zeroExtend 64)
  | 0x004 => some (match h.wakeSlot with | some q => (slotOf s q).wake | none => 0)
  | 0x010 => h.g.handler.map (·.cause)
  | 0x011 => h.g.handler.map (·.pc &&& ~~~1)
  | 0x012 => h.g.handler.map (·.addr)
  | 0x020 => some (sliceLeft s h.c.vf)
  | 0x030 => nat h.point.1
  | 0x031 => nat h.point.2.1
  | 0x032 => nat h.point.2.2
  | 0x033 => nat (gidxOf h.gid)
  | 0x034 => nat h.core
  | 0x035 => nat (h.core / 4)
  | 0x036 => nat h.c.oid
  | 0x040 => nat (frameGen s h.c.oid)
  | 0x041 => nat (s.time + (vfOf s h.c.vf).timeOff)
  | _ => none

/-- `sys.rd` (R143, R145). -/
def execSysRd (f : YFmt) (s : State) : Out :=
  let len := lenOf f.pfx
  let d := scalarNo f.pfx f.a
  issue s fun h =>
    checked s h (sysRdCauses f) false 0 len
      (match readSys s h f.sys.toNat with
       | none => raiseP s h len 0x005 0
       | some _ => withRegs s h { sregs := [d] } fun s h =>
          h.advance (modGroup s h.gid fun g => setSreg g d ((readSys s h f.sys.toNat).getD 0)) len)

/-- A GANG value is accepted (R144). -/
def gangOk (v : W64) : Bool := v.toNat / 2 ^ 51 == 0 && v.toNat / 2 ^ 48 ≤ 6

/-- Clear wake bits (R143, R146). -/
def clearWake (s : State) (slot : Option Nat) (v : W64) : State :=
  match slot with
  | none => s
  | some q => modSlot s q fun x => { x with wake := x.wake &&& ~~~v }

/-- `sys.wr`: WAKE is W1C, GANG is checked, every other register is refused (R141, R143 to R145). -/
def execSysWr (f : YFmt) (s : State) : Out :=
  let len := lenOf f.pfx
  issue s fun h =>
    checked s h (sysWrCauses f) false 0 len
      (if f.sys.toNat != 0x004 && f.sys.toNat != 0x001 then raiseP s h len 0x005 0
       else withRegs s h { sregs := scalarNos f.pfx f.a } fun s h =>
        let v := uniVal h.g f.pfx f.a
        if f.sys.toNat = 0x004 then h.advance (clearWake s h.wakeSlot v) len
        else if gangOk v then h.advance (modGroup s h.gid fun g => { g with gang := v }) len
        else raiseP s h len 0x006 0)

/-- `trap`: PRED parks at the next instruction, with a record of class 2 (R151). -/
def execTrap (f : YFmt) (s : State) : Out :=
  let len := lenOf f.pfx
  issue s fun h =>
    checked s h (trapCauses f) false 0 len
      (withRegs s h { sregs := scalarNos f.pfx f.a } fun s h =>
        takeTrap s h h.f.pred (h.f.pc + BitVec.ofNat 64 len) h.f.pc 2 f.sys.toNat 0 (uniVal h.g f.pfx f.a) none)

/-- A slot belongs to a VF: it is assigned to a context of it (R152). -/
def slotOfVf (s : State) (slot vf : Nat) : Bool := (slotOf s slot).st != 0 && (slotOf s slot).vf == vf

/-- `sig`: the signal leaves; the bits are set when it is delivered (R152, R153). -/
def execSig (f : YFmt) (s : State) : Out :=
  let len := lenOf f.pfx
  let n := f.sys.toNat
  issue s fun h =>
    checked s h (sigCauses f) false 0 len
      (if n != 0xFFF && !slotOfVf s n h.c.vf then raiseP s h len 0x005 0
       else withRegs s h { sregs := scalarNos f.pfx f.a } fun s h =>
        h.advance (pushPend s [.signal h.gid h.cid (if n = 0xFFF then none else some n) (uniVal h.g f.pfx f.a)]) len)

end Sys2Proof.Machine
end

