-- ==== Sys2Proof/Machine/RegAlloc.lean ====
section
/-! DEFINITION. Register claims, releases and windows (R82 to R90). -/

namespace Sys2Proof.Machine

/-- The destination scalar of A, where it names one. -/
def dstOf (p : Option Prefix) (c : Byte) : Option Nat := if isScalar c then some (scalarNo p c) else none
/-- Write a scalar where there is a destination. -/
def putDst (s : State) (gid : Nat) (d : Option Nat) (v : W64) : State :=
  match d with
  | none => s
  | some n => modGroup s gid fun g => setSreg g n v
/-- The scalars that A and B name. -/
def abRegs (f : GFmt) : List Nat := scalarNos f.pfx f.a ++ scalarNos f.pfx f.b

/-- `v.claim`: the group leaves its slot and its request enters the core's queue; head claims are granted (R84, R85). -/
def execVClaim (f : GFmt) (s : State) : Out :=
  gRun (vClaimCauses f) false f.pfx (abRegs f) (fun s h len =>
    let n := (uniVal h.g f.pfx f.b).toNat
    if n < 1 || 31 < n || 256 < h.g.total + 8 * n || h.b.foot.pool < 8 * n then raiseP s h len 0x010 0
    else
      let s := beginWait s h.gid { kind := .claim (8 * n), fib := h.fid, len := len, dst := dstOf f.pfx f.a }
      let s := { s with claimq := Tbl.set s.claimq h.core (claimsOf s h.core ++ [h.gid]) }
      grantHead s h.core) s

/-- `v.rel`: the top registers return to the pool (R86). -/
def execVRel (f : GFmt) (s : State) : Out :=
  gRun (vRelCauses f) false f.pfx (abRegs f) (fun s h len =>
    let n := (uniVal h.g f.pfx f.b).toNat
    if n < 1 || h.g.total - h.g.base < 8 * n || h.g.fibres.any (fun e => h.g.total < 8 * e.2.wb + 8 * n + 8) then
      raiseP s h len 0x010 0
    else
      withRegs s h { vregs := (List.range (8 * n)).map fun k => h.g.total - 8 * n + k } fun s h =>
        let t := h.g.total - 8 * n
        let s := modGroup s h.gid fun g =>
          { g with total := t, ext := g.ext.take ((t - g.base) / 8), regs := { g.regs with vreg := SMap.keep g.regs.vreg fun k => k < t * 64 } }
        let free := freeOf h.b h.gid + 8 * n
        let s := grantHead (setFree s h.gid free) h.core
        let now := match Tbl.get? s.blocks h.bsn with | some b => freeOf b h.gid | none => free
        h.advance (putDst s h.gid (dstOf f.pfx f.a) (allotWord now t h.g.base)) len) s

/-- A new window base: refused outside the group's registers (R87). -/
def winRun (causes : List Nat) (f : GFmt) (new : Here → Int) (s : State) : Out :=
  gRun causes false f.pfx (abRegs f) (fun s h len =>
    if badBase h (new h) then raiseP s h len 0x002 0
    else
      let s := h.setFib s fun x => { x with wb := (new h).toNat }
      h.advance (putDst s h.gid (dstOf f.pfx f.a) (BitVec.ofNat 64 (8 * h.f.wb))) len) s

/-- `win.set` (R87). -/
def execWinSet (f : GFmt) (s : State) : Out := winRun (winSetCauses f) f (fun h => ((uniVal h.g f.pfx f.b).toNat : Int)) s
/-- `win.add` (R87). -/
def execWinAdd (f : GFmt) (s : State) : Out :=
  winRun (winAddCauses f) f (fun h => (h.f.wb : Int) + (uniVal h.g f.pfx f.b).toInt) s

end Sys2Proof.Machine
end

