-- ==== Sys2Proof/Machine/Sync.lean ====
section
/-! DEFINITION. Barriers, timelines and counters (R339 to R351). -/

namespace Sys2Proof.Machine

/-- A copy request of the group has not retired (R341). -/
def copiesDue (s : State) (gid : Nat) : Bool := s.cores.any fun e => e.2.kicks.any fun q => q.gid == gid

/-- Earlier accesses or copies of the group are not all performed at block scope. -/
def releaseDue (s : State) (gid : Nat) : Bool :=
  copiesDue s gid || accStoresDue s gid || inFlight s (fun a => a.gid == gid && a.reads)
    || s.mem.pend.any (fun p => match p with | .acc a => a.gid == gid | _ => false)

/-- A release at block scope before an instruction: it waits, the group's accesses finished, while something is due. -/
def afterRelease (s : State) (h : Here) (k : State → Here → State) : State :=
  let s := drainGroup s h.gid
  if releaseDue s h.gid then s
  else match s.here with | some h => k s h | none => s

/-- A release at device scope: writes to peers are acknowledged too. -/
def afterDevice (s : State) (h : Here) (k : State → Here → State) : State :=
  let s := drainGroup s h.gid
  if releaseDue s h.gid || groupOnFabric s h.gid then s
  else match s.here with | some h => k s h | none => s

/-- An instruction whose reads come after every earlier event of the group at device scope (R374): it waits until the group's accesses are performed, and
its arrivals, signals and records are out. -/
def afterStores (s : State) (h : Here) (k : State → Here → State) : State :=
  let s := drainGroup s h.gid
  if accStoresDue s h.gid || inFlight s (fun a => a.gid == h.gid && a.val.isNone) || entriesDue s h.gid || blockMarked s h.gid then s
  else match s.here with | some h => k s h | none => s

/-! Block and team barriers (R341). -/

/-- Arrive at a barrier: complete it and go on, or wait. -/
def barrierArrive (s : State) (h : Here) (len : Nat) (team : Option Nat) (n : Nat) (kind : WaitKind) : State :=
  let x := barOf h.b team n
  let s := loseLatches (setBar s h.bsn team n ⟨x.gen, x.arr + 1⟩) h.gid
  if x.arr + 1 = liveOf s h.bsn h.b team then
    match Tbl.get? s.blocks h.bsn with
    | some b => h.advance (completeBar s h.bsn b team n) len
    | none => s
  else beginWait s h.gid { kind := kind, fib := h.fid, len := len, dst := none }

/-- `bar.sync` (R341). -/
def execBarSync (f : GFmt) (s : State) : Out :=
  gRun (barSyncCauses f) false f.pfx [] (fun s h len =>
    afterRelease s h fun s h => barrierArrive s h len none (immOf f.b).toNat (.barSync (immOf f.b).toNat)) s

/-- `bar.team` (R341). -/
def execBarTeam (f : GFmt) (s : State) : Out :=
  gRun (barTeamCauses f) false f.pfx [] (fun s h len =>
    afterRelease s h fun s h => barrierArrive s h len (some h.idx) (immOf f.b).toNat (.barTeam (immOf f.b).toNat)) s

/-! Byte-counting barrier objects (R343 to R345). -/

/-- The fault of an object's address: scratch-range outside the private and shared regions, then misaligned (R343). -/
def barAddrFault (b : Block) (a : Nat) : Option Nat :=
  match sRegion b a 8 with
  | some (.priv, _) => if a % 8 != 0 then some 0x021 else none
  | some (.shared, _) => if a % 8 != 0 then some 0x021 else none
  | _ => some 0x020

/-- PEND of an object, signed. -/
def barPend (x : Nat) : Int := let p : Nat := x % 2 ^ 40; if 2 ^ 39 ≤ p then (p : Int) - 2 ^ 40 else (p : Int)
/-- POSTED. -/
def barPosted (x : Nat) : Bool := x / 2 ^ 62 % 2 == 1

/-- The fields as a word: reserved bits are written 0. -/
def barWord (ph posted ovf : Bool) (pend : Int) : Nat :=
  (if ph then 2 ^ 63 else 0) + (if posted then 2 ^ 62 else 0) + (if ovf then 2 ^ 61 else 0) + (pend % (2 : Int) ^ 40).toNat

/-- One update: a post of n bytes or an arrival (R344). -/
def barUpdate (x : Nat) (post : Bool) (n : Nat) : Nat :=
  let p : Int := if post then barPend x + n else barPend x - n
  let out : Bool := p < -(2 : Int) ^ 39 || (2 : Int) ^ 39 - 1 < p
  let p := clampInt (-(2 : Int) ^ 39) ((2 : Int) ^ 39 - 1) p
  let posted := post || barPosted x
  let ovf := barOvf x || out
  if posted && p ≤ 0 then barWord (!barPhase x) false (ovf || p < 0) 0
  else barWord (barPhase x) posted ovf p

/-- Apply an update to the object at an address of a group; one with a double-bit error keeps it (R158, R383). -/
def applyBar (s : State) (gid a : Nat) (post : Bool) (n : Nat) : State :=
  if barBad s gid a then s else writeScratch s gid a (natLE 8 (barUpdate (barObject s gid a) post n))

/-- `bar.arrive` and `bar.post`: applied at once where nothing earlier of the group is due, else when it is (R345). -/
def barSend (causes : List Nat) (f : GFmt) (post : Bool) (lo : Nat) (s : State) : Out :=
  gRun causes false f.pfx (abRegs f) (fun s h len =>
    let a := (uniVal h.g f.pfx f.a).toNat
    let n := (uniVal h.g f.pfx f.b).toNat
    match barAddrFault h.b a with
    | some code => raisePAt s h len code 0 a
    | none =>
      if n < lo || 2 ^ 39 ≤ n then raiseP s h len 0x006 0
      else if badHere h.b h.gid a 8 then raisePAt s h len 0x025 2 a
      else
        let s := drainGroup s h.gid
        h.advance (if releaseDue s h.gid then pushPend s [.barrier h.gid a post n] else applyBar s h.gid a post n) len) s

/-- `bar.arrive` (R345). -/
def execBarArrive (f : GFmt) (s : State) : Out := barSend (barArriveCauses f) f false 1 s
/-- `bar.post` (R345). -/
def execBarPost (f : GFmt) (s : State) : Out := barSend (barPostCauses f) f true 0 s

/-- `bar.wait` (R345). -/
def execBarWait (f : GFmt) (s : State) : Out :=
  gRun (barWaitCauses f) false f.pfx (abRegs f) (fun s h len =>
    let a := (uniVal h.g f.pfx f.a).toNat
    let v := (uniVal h.g f.pfx f.b).toNat
    match barAddrFault h.b a with
    | some code => raisePAt s h len code 0 a
    | none =>
      if 1 < v then raiseP s h len 0x006 0
      else if badHere h.b h.gid a 8 then raisePAt s h len 0x025 2 a
      else
        let s := loseLatches s h.gid
        let x := barObject s h.gid a
        if barPhase x == (v == 1) then
          beginWait s h.gid { kind := .barWait a (v == 1), fib := h.fid, len := len, dst := none }
        else if barOvf x then raiseP (writeScratch s h.gid a (natLE 8 (barClearOvf x))) h len 0x058 0
        else h.advance s len) s

/-! Timelines (R346, R347). -/

/-- What a selector word names (R346). -/
inductive Timeline where
  /-- a timeline by KIND 1 to 3 and index -/
  | ok (kind idx : Nat)
  /-- refused, with a fault code -/
  | bad (code : Nat)
  deriving DecidableEq, Repr

/-- Resolve a selector word for the issuing group (R346). -/
def timelineOf (s : State) (h : Here) (sel : Nat) : Timeline :=
  let kind := sel / 2 ^ 12 % 16
  let idx := sel % 2 ^ 12
  if 2 ^ 16 ≤ sel || 4 ≤ kind then .bad 0x006
  else
    match kind with
    | 0 => .ok 1 h.lcore
    | 1 => if idx < h.c.cores.length then .ok 1 idx else .bad 0x006
    | 2 => .ok 2 0
    | _ =>
      match Tbl.get? s.pix.pqs idx with
      | some q => if q.a.oid == h.c.oid then .ok 3 idx else .bad 0x005
      | none => .bad 0x005

/-- `tl.wait` (R347). -/
def execTlWait (f : GFmt) (s : State) : Out :=
  gRun (tlWaitCauses f) false f.pfx (abRegs f) (fun s h len =>
    match timelineOf s h (uniVal h.g f.pfx f.a).toNat with
    | .bad code => raiseP s h len code 0
    | .ok k i =>
      let v := uniVal h.g f.pfx f.b
      let t := timelineVal s h.cid k i
      let s := loseLatches s h.gid
      if v.toNat ≤ t.toNat then h.advance (putDst s h.gid (dstOf f.pfx f.a) t) len
      else beginWait s h.gid { kind := .tlWait k i v, fib := h.fid, len := len, dst := dstOf f.pfx f.a }) s

/-- `tl.rd` (R347). -/
def execTlRd (f : GFmt) (s : State) : Out :=
  gRun (tlRdCauses f) false f.pfx (abRegs f) (fun s h len =>
    match timelineOf s h (uniVal h.g f.pfx f.a).toNat with
    | .bad code => raiseP s h len code 0
    | .ok k i => h.advance (putDst s h.gid (dstOf f.pfx f.a) (timelineVal s h.cid k i)) len) s

/-- `cnt.rd`: the job counter, or the outstanding-acknowledgement counter (R350, R351). -/
def execCntRd (f : GFmt) (s : State) : Out :=
  gRun (cntRdCauses f) false f.pfx (abRegs f) (fun s h len =>
    let v := if isImm 0 0 f.b then h.c.counts.job else h.c.counts.ack.zeroExtend 64
    h.advance (putDst s h.gid (dstOf f.pfx f.a) v) len) s

end Sys2Proof.Machine
end

