-- ==== Sys2Proof/Machine/Frontier.lean ====
section
/-! DEFINITION. The frontier of a launch: points, rows, firing and retirement, and the frontier instructions (R245 to R263). -/

namespace Sys2Proof.Machine

/-! Retired and fireable points (R247, R248). -/

/-- A point of a launch with vectors is retired (R247). -/
def isRetired (l : Launch) (rank : Nat) : Bool :=
  let i := rank % l.desc.ni
  let e := rowAt l (rank / l.desc.ni)
  if l.cut then !l.flying.contains rank
  else decide (i < e.pfx) || (decide (e.pfx < i) && decide (i ≤ e.pfx + 64) && e.win.getLsbD (i - e.pfx - 1))

/-- A dependence of a point is satisfied: it points outside the space, or at a retired point (R248). -/
def depMet (l : Launch) (rank : Nat) (v : Int × Int × Int) : Bool :=
  let p := l.desc.ptOf rank
  let i : Int := p.1 - v.1
  let j : Int := p.2.1 - v.2.1
  let k : Int := p.2.2 - v.2.2
  !l.desc.inside i j k || isRetired l (l.desc.rankOf i.toNat j.toNat k.toNat)

/-- FIREABLE (R248). -/
def fireable (l : Launch) (rank : Nat) : Bool :=
  rank < l.desc.points && !isRetired l rank && !l.flying.contains rank
    && rank % l.desc.ni ≤ (rowAt l (rank / l.desc.ni)).pfx + 64 && !l.cut && l.desc.kr.dep.all (depMet l rank)

/-- A row's prefix moves on while the point it reaches is retired: `c` is that point's window bit (R249). -/
def absorb (e : FrRow) (c : Bool) (n : Nat) : FrRow :=
  match n with
  | 0 => e
  | n + 1 => if c then absorb { pfx := e.pfx + 1, win := e.win >>> 1 } (e.win.getLsbD 0) n else e

/-- A row after point i retires (R249). -/
def rowRetire (e : FrRow) (i : Nat) : FrRow :=
  if i = e.pfx then absorb { pfx := e.pfx + 1, win := e.win >>> 1 } (e.win.getLsbD 0) 65
  else { e with win := e.win ||| oneLane (i - e.pfx - 1) }

/-- A point of a launch retires (R11, R249). -/
def launchRetirePoint (l : Launch) (rank : Nat) : Launch :=
  let l' := { l with flying := l.flying.filter (· != rank), retn := l.retn + 1 }
  if !l.desc.vectors then { l' with done := insertUp rank l.done }
  else if l.cut then l'
  else
    let r := rank / l.desc.ni
    { l' with rows := Tbl.set l.rows r (rowRetire (rowAt l r) (rank % l.desc.ni)), changed := insertUp (pageOf r) l.changed }

/-- Groups that wait in `frt.yield` on a retired point of the launch go on with status 0 (R260). -/
def recheckYields (s : State) (lid : Nat) (l : List Nat) : State :=
  match l with
  | [] => s
  | gid :: r =>
    match Tbl.get? s.groups gid, Tbl.get? s.blocks (bsnOf gid), Tbl.get? s.launches lid with
    | some g, some b, some la =>
      match g.wait with
      | some w =>
        match w.kind with
        | .frtYield rank =>
          recheckYields (if b.ofLaunch lid && isRetired la rank then endWaitWith s gid 0 else s) lid r
        | _ => recheckYields s lid r
      | none => recheckYields s lid r
    | _, _, _ => recheckYields s lid r

/-- The page of a point's row is resident, where the launch has a frontier not cut. -/
def rowResident (s : State) (lid rank : Nat) : Option State :=
  match Tbl.get? s.launches lid with
  | none => some s
  | some l =>
    if !l.desc.vectors || l.cut then some s
    else let p := [pageOf (rank / l.desc.ni)]; needPages s lid p p

/-- A point retires in its launch, its row's page loaded; it waits where no frame can be freed (R249, R252). -/
def retirePointOf (s : State) (lid rank : Nat) : State :=
  match rowResident s lid rank with
  | none => s
  | some s =>
    let s := modLaunch s lid fun l => launchRetirePoint l rank
    recheckYields s lid (s.groups.map (·.1))

/-! The instructions (R257 to R262). -/

/-- The launch of the issuing group where it has a frontier. -/
def Here.frontier (s : State) (h : Here) : Option (Nat × Nat × Launch) :=
  if h.isHandler then none
  else
    match h.b.of with
    | .point lid rank =>
      match Tbl.get? s.launches lid with
      | some l => if l.desc.vectors then some (lid, rank, l) else none
      | none => none
    | _ => none

/-- A frontier instruction: fields, service, a legal operand word, a frontier, then its effect (R257, R258, R381). -/
def frtRun (causes : List Nat) (f : GFmt) (bad : W64 → Bool) (k : State → Here → Nat → Nat → Nat → Launch → State) (s : State) : Out :=
  gRun causes true f.pfx (abRegs f) (fun s h len =>
    if bad (uniVal h.g f.pfx f.a) then raiseP s h len 0x006 0
    else
      match h.frontier s with
      | none => raiseP s h len 0x048 0
      | some (lid, rank, l) => k s h len lid rank l) s

/-- The pages that an instruction needs are loaded first; where none can be, it waits (R257). -/
def withPages (s : State) (h : Here) (lid : Nat) (l : Launch) (pages : List Nat) (k : State → Here → Launch → State) : State :=
  if l.cut then k s h l
  else
    match needPages s lid pages pages with
    | none => s
    | some s => (match Tbl.get? s.launches lid with | some l => k s h l | none => s)

/-- The coordinate of a word: i, j, k; none where a reserved field is not 0 (R258). -/
def coordOf (v : W64) : Option (Nat × Nat × Nat) :=
  let x := v.toNat
  if 2 ^ 48 ≤ x then none else some (x % 2 ^ 16, x / 2 ^ 16 % 2 ^ 16, x / 2 ^ 32)

/-- Where a coordinate lies in a launch's space. -/
def rankIn (d : Desc) (p : Nat × Nat × Nat) : Option Nat :=
  if d.inside p.1 p.2.1 p.2.2 then some (d.rankOf p.1 p.2.1 p.2.2) else none

/-- Write the status and go on. -/
def frtStatus (s : State) (h : Here) (f : GFmt) (len : Nat) (v : W64) : State :=
  h.advance (putDst s h.gid (dstOf f.pfx f.a) v) len

/-- A coordinate word with a reserved field that is not 0 (R258). -/
def coordBad (v : W64) : Bool := (coordOf v).isNone

/-- `frt.retire` (R259). -/
def execFrtRetire (f : GFmt) (s : State) : Out :=
  frtRun (frtRetireCauses f) f coordBad (fun s h len lid _ l =>
    match (coordOf (uniVal h.g f.pfx f.a)).bind (rankIn l.desc) with
    | none => frtStatus s h f len 3
    | some r =>
      withPages s h lid l [pageOf (r / l.desc.ni)] fun s h l =>
        if isRetired l r || l.flying.contains r || l.cut then frtStatus s h f len 1
        else if (rowAt l (r / l.desc.ni)).pfx + 64 < r % l.desc.ni then frtStatus s h f len 2
        else afterDevice s h fun s h => frtStatus (retirePointOf s lid r) h f len 0) s

/-- `frt.yield` (R260). -/
def execFrtYield (f : GFmt) (s : State) : Out :=
  frtRun (frtYieldCauses f) f coordBad (fun s h len lid rank l =>
    let s := loseLatches s h.gid
    match (coordOf (uniVal h.g f.pfx f.a)).bind (rankIn l.desc) with
    | none => frtStatus s h f len 3
    | some r =>
      if rank ≤ r then frtStatus s h f len 2
      else
        withPages s h lid l [pageOf (r / l.desc.ni)] fun s h l =>
          if isRetired l r then frtStatus s h f len 0
          else if !l.flying.contains r then frtStatus s h f len 1
          else beginWait s h.gid { kind := .frtYield r, fib := h.fid, len := len, dst := dstOf f.pfx f.a }) s

/-- The code of a point (R261). -/
def pointCode (l : Launch) (r : Nat) : W64 := if isRetired l r then 3 else if l.flying.contains r then 2 else if fireable l r then 1 else 0

/-- `frt.query` (R261). -/
def execFrtQuery (f : GFmt) (s : State) : Out :=
  frtRun (frtQueryCauses f) f (fun v => isImm 2 2 f.b && coordBad v) (fun s h len lid _ l =>
    let v := uniVal h.g f.pfx f.a
    let row := fun (k : FrRow → W64) =>
      if l.desc.nrow ≤ v.toNat then frtStatus s h f len (BitVec.allOnes 64)
      else withPages s h lid l [pageOf v.toNat] fun s h l => frtStatus s h f len (k (rowAt l v.toNat))
    if isImm 0 0 f.b then row fun e => BitVec.ofNat 64 e.pfx
    else if isImm 1 1 f.b then row fun e => e.win
    else
      match (coordOf v).bind (rankIn l.desc) with
      | none => frtStatus s h f len 4
      | some r => withPages s h lid l (pointPages l.desc r) fun s h l => frtStatus s h f len (pointCode l r)) s

/-- The points a cut retires: neither retired nor in flight (R262). -/
def cutCount (l : Launch) : Nat := l.desc.points - l.retn - l.flying.length

/-- `frt.cancel` (R262). -/
def execFrtCancel (f : GFmt) (s : State) : Out :=
  frtRun (frtCancelCauses f) f (fun _ => false) (fun s h len lid _ l =>
    if l.cut then frtStatus s h f len 0
    else afterDevice s h fun s h =>
      let n := cutCount l
      let s := modLaunch s lid fun l => { l with cut := true, retn := l.retn + n }
      frtStatus (recheckYields s lid (s.groups.map (·.1))) h f len (BitVec.ofNat 64 n)) s

end Sys2Proof.Machine
end

