-- ==== Sys2Proof/Machine/Records.lean ====
section
/-! DEFINITION. Records and descriptors as bytes, the front-end's checks, and the queue instructions (R71, R72, R75, R219 to R232, R253, R348). -/

namespace Sys2Proof.Machine

/-! Fields of byte strings. -/

/-- The number in bytes `o` to `o + n − 1`. -/
def fld (bs : List Byte) (o n : Nat) : Nat := leNat ((bs.drop o).take n)
/-- A signed byte. -/
def sbyte (bs : List Byte) (o : Nat) : Int := (nth bs o 0).toInt
/-- Every byte of a range is 0. -/
def zeroBytes (bs : List Byte) (o n : Nat) : Bool := fld bs o n == 0

/-- What a check answers. -/
inductive Take (α : Type) where
  | ok (x : α)
  /-- refused with an ERR code (R226) -/
  | refuse (err : Nat)
  /-- a page-in is awaited -/
  | wait

/-- Go on with an answer. -/
def Take.bind {α β : Type} (x : Take α) (k : α → Take β) : Take β :=
  match x with
  | .ok a => k a
  | .refuse e => .refuse e
  | .wait => .wait

/-- The least code of the conditions that hold. (DESIGN CHOICE, log 41) -/
def firstErr (l : List (Bool × Nat)) : Option Nat :=
  l.foldl (fun m e => if e.1 then (match m with | some x => some (min x e.2) | none => some e.2) else m) none

/-! Reading a context's memory as the front-end does (R226). -/

/-- Read bytes with the context's translation, at most `fuel` translations. -/
def frontBytes (s : State) (cid : Nat) (c : Ctx) (va n fuel : Nat) : Take (List Byte) :=
  match fuel with
  | 0 => .ok []
  | k + 1 =>
    match fill s cid c va false false with
    | .fault _ _ => .refuse 8
    | .wait _ => .wait
    | .ok e =>
      let p := partOf e va 0 n
      if p.space == .loc && ((errorOf s p.pa p.n).isSome || lineRefuses s.mem c.world p.pa p.n) then .refuse 8
      else if p.n = n then .ok (readPhys s.mem p.space p.pa n)
      else (frontBytes s cid c (va + p.n) (n - p.n) k).bind fun r => .ok (readPhys s.mem p.space p.pa p.n ++ r)

/-- Bytes that the front-end has read: their lines and the ages of their frames, injected errors of one bit (R8, R159, R276, R385). -/
def touchFront (s : State) (cid : Nat) (c : Ctx) (va n fuel : Nat) : State :=
  match fuel with
  | 0 => s
  | k + 1 =>
    match fill s cid c va false false with
    | .ok e =>
      let p := partOf e va 0 n
      let s := if p.space == .loc then touchRange (correctIn (correctIn s cid 0 p.pa p.n) cid 1 p.pa p.n) p.pa p.n p.world false else s
      if p.n = n then s else touchFront s cid c (va + p.n) (n - p.n) k
    | _ => s

/-- Runs of bytes that the front-end has read: address and length. -/
def touchReads (s : State) (cid : Nat) (c : Ctx) (l : List (Nat × Nat)) : State := l.foldl (fun s e => touchFront s cid c e.1 e.2 16) s

/-- Read `k` pieces of 64 bytes. -/
def frontRead (s : State) (cid : Nat) (c : Ctx) (va k : Nat) : Take (List Byte) :=
  match k with
  | 0 => .ok []
  | k + 1 => (frontBytes s cid c va 64 2).bind fun b => (frontRead s cid c (va + 64) k).bind fun r => .ok (b ++ r)

/-- A completion counter object: none for 0; refused where unaligned (1) or not writable (8); its place is fixed (R348). -/
def objRefOf (s : State) (cid : Nat) (c : Ctx) (va : Nat) : Take (Option ObjRef) :=
  if va = 0 then .ok none
  else if va % 16 != 0 then .refuse 1
  else
    match fill s cid c va true false with
    | .fault _ _ => .refuse 8
    | .wait _ => .wait
    | .ok e => let p := partOf e va 0 16; .ok (some { space := p.space, pa := p.pa, vpa := p.vpa })

/-! Kernel records and launch descriptors (R75, R221). -/

/-- The dependence vectors of a kernel record. (DEDUCED, log 42) -/
def depVectors (bs : List Byte) (n : Nat) : List (Int × Int × Int) :=
  (List.range n).map fun v => (sbyte bs (40 + 3 * v), sbyte bs (41 + 3 * v), sbyte bs (42 + 3 * v))

/-- A kernel record of 64 bytes. (DESIGN CHOICE, log 109) -/
def parseKRec (bs : List Byte) : KRec :=
  { entry := BitVec.ofNat 64 (fld bs 0 8), width := fld bs 8 1, vregs := fld bs 9 1, pool := fld bs 10 2, scratch := fld bs 12 4,
    shared := fld bs 16 4, bcores := fld bs 23 1, bgrp := fld bs 26 2, ndim := fld bs 21 1, threads := fld bs 56 2,
    ext := (fld bs 28 4, fld bs 32 4, fld bs 36 4), tlines := fld bs 24 2, tways := fld bs 20 1,
    dep := depVectors bs (min (fld bs 22 1) 4) }

/-- A launch descriptor of 128 bytes. -/
def parseDesc (bs : List Byte) : Desc :=
  let w := fun o => BitVec.ofNat 64 (fld bs o 8)
  { kr := parseKRec (bs.drop 8), code := w 72, cca := w 80, logb := w 88, logsz := fld bs 96 8, arg0 := w 104, arg1 := w 112, arg2 := w 120 }

/-- A vector is legal (R72). -/
def vecLegal (v : Int × Int × Int) : Bool := 0 ≤ v.2.1 && 0 ≤ v.2.2 && (v.2.1 != 0 || v.2.2 != 0 || 0 < v.1)

/-- A list without repeats. -/
def noRepeats {α : Type} [BEq α] (l : List α) : Bool :=
  match l with
  | [] => true
  | x :: r => !r.contains x && noRepeats r

/-- Groups of a block on each core, at most. -/
def KRec.perCore (k : KRec) : Nat := (k.bgrp + k.bcores - 1) / k.bcores
/-- Scratchpad bytes a block needs on each core (R234). -/
def KRec.scratchPerCore (k : KRec) : Nat :=
  k.scratch * k.perCore + 256 * ((k.shared + 256 * k.bcores - 1) / (256 * k.bcores)) + 256 * k.tlines

/-- The tag table's shape is legal (R71). -/
def tagShape (ways lines : Nat) : Bool :=
  (ways == 0 && lines == 0) || ([1, 2, 4, 8].contains ways && lines != 0 && lines ≤ 4096 && lines % ways == 0)

/-- The operands of the launch directives that name what a core holds are legal (R71). -/
def kernelOk (vregs pool scratch shared ways lines : Nat) : Bool :=
  8 ≤ vregs && vregs ≤ 128 && vregs % 8 == 0 && pool ≤ 4096 && pool % 8 == 0 && scratch % 256 == 0 && shared % 256 == 0 && tagShape ways lines

/-- The most cores a context has in one cluster. -/
def clusterCores (c : Ctx) : Nat :=
  (List.range 12).foldl (fun m k => max m (c.cores.filter fun x => x / 4 == k).length) 0

/-- A footprint that some core could hold (R71, R226, R234). VREGS, POOL, SCRATCH, SHARED or a tag table outside R71's limits, and BCORES 0, are
refused here, with ERR 4 (DESIGN CHOICE, log 41: R226 names no code for them). -/
def footprintOk (c : Ctx) (k : KRec) : Bool :=
  kernelOk k.vregs k.pool k.scratch k.shared k.tways k.tlines && 1 ≤ k.bcores && k.bcores ≤ clusterCores c
    && k.perCore ≤ 8 * min 16 (512 / k.vregs) && k.perCore * k.vregs + k.pool ≤ 4096 && k.scratchPerCore ≤ 2 ^ 20

/-- Extents, dimensions, width, threads (R10, R71). -/
def shapeOk (k : KRec) : Bool :=
  let e := k.ext
  let ok := fun (used : Bool) (x : Nat) => if used then 1 ≤ x && x ≤ 65535 else x == 1
  [16, 32, 64].contains k.width && 1 ≤ k.ndim && k.ndim ≤ 3 && ok true e.1 && ok (2 ≤ k.ndim) e.2.1 && ok (3 ≤ k.ndim) e.2.2
    && e.1 * e.2.1 * e.2.2 ≤ 2 ^ 32 && 1 ≤ k.bgrp && k.bgrp ≤ 256
    && (k.threads == 0 || (k.threads + k.width - 1) / k.width == k.bgrp)

/-- A dependence vector has a component past the launch's dimensions: an unused byte that is not 0 (R71, R75). (DEDUCED, log 113) -/
def unusedComps (bs : List Byte) : Bool :=
  let m := fld bs 29 1
  1 ≤ m && m ≤ 3 && (List.range (min 4 (fld bs 30 1))).any fun i => !zeroBytes bs (48 + 3 * i + m) (3 - m)

/-- What the front-end asks of a descriptor beside its fields: that its extents and dimensions are legal, and that its vectors have a frontier. -/
inductive DescUse where
  /-- of a launch: both -/
  | launch
  /-- of a draw's fragment kernel, which begins no launch: its extents alone -/
  | fragment
  /-- of a tile dispatch, which ignores them (R215) -/
  | tiles
  deriving DecidableEq, Repr

/-- Reserved bits of a header that are refused wherever it stands (R220, R226). -/
def headerBits (bs : List Byte) : Bool := 1 < fld bs 1 1 || fld bs 2 2 / 2 ^ 12 % 8 != 0 || fld bs 6 2 / 2 ^ 12 % 8 != 0

/-- What of a descriptor's kernel record is checked by its use: a tile dispatch has no extents of its own, and its vectors and BCORES are refused
with ERR 7 alone (R215, R226). -/
def DescUse.checks (u : DescUse) (k : KRec) : KRec := if u == .tiles then { k with ndim := 1, ext := (1, 1, 1), bcores := 1 } else k

/-- The refusals of a launch descriptor (R226). An unaligned LOGB is ERR 1 (DEDUCED, log 112), as an unaligned object is (R348). -/
def descConds (s : State) (c : Ctx) (bs : List Byte) (u : DescUse) : List (Bool × Nat) :=
  let d := parseDesc bs
  let n := fld bs 30 1
  let k := u.checks d.kr
  [(headerBits bs, 1), (!zeroBytes bs 66 6, 1), (n ≤ 4 && !zeroBytes bs (48 + 3 * n) (12 - 3 * n), 1), (u != .tiles && unusedComps bs, 1),
   (d.logb.toNat % 32 != 0, 1), (d.cca.toNat % 16 != 0, 1), (!shapeOk k, 2),
   (u == .launch && n != 0 && decide (c.frontierBytes < areaBytes d), 2),
   (u != .tiles && (4 < n || d.kr.dep.any (fun v => !vecLegal v) || !noRepeats d.kr.dep || (n != 0 && !s.full)), 3), (!footprintOk c k, 4)]

/-- The refusal of a descriptor of a launch (R226). -/
def descErr (s : State) (c : Ctx) (bs : List Byte) (u : DescUse) : Option Nat := firstErr (descConds s c bs u)

/-! Headers (R220). -/

/-- A dependence counter field. -/
def depcField (x : Nat) : Option Nat := if x / 2 ^ 15 % 2 = 1 then some (x % 2 ^ 12) else none
/-- A counter named by a record belongs to its VF (R227). -/
def depcOk (s : State) (vf : Nat) (x : Nat) : Bool :=
  match depcField x with
  | none => true
  | some n => (SMap.get s.depcVf n).toNat == vf + 1

/-- The refusals of a header. -/
def headerConds (s : State) (vf : Nat) (bs : List Byte) : List (Bool × Nat) :=
  let kind := fld bs 0 1
  [(kind < 1 || 4 < kind, 1), (headerBits bs, 1), (!depcOk s vf (fld bs 2 2) || !depcOk s vf (fld bs 6 2), 5)]

/-- The refusals of a graph's header (R222). -/
def graphConds (bs : List Byte) : List (Bool × Nat) :=
  let n := fld bs 16 1
  [(!zeroBytes bs 64 64 || !zeroBytes bs 17 15, 1), (fld bs 8 8 % 16 != 0, 1),
   (n < 1 || 16 < n || (List.range 16).any (fun i => fld bs (32 + 2 * i) 2 / 2 ^ i != 0), 6)]

/-- The refusals of a member record beside its descriptor's (R222). -/
def memberConds (bs : List Byte) : List (Bool × Nat) :=
  [(fld bs 0 1 != 1, 1), (fld bs 1 1 % 2 != 0 || fld bs 2 2 / 2 ^ 15 != 0 || fld bs 6 2 / 2 ^ 15 != 0, 6)]

/-- A pass record's fields (R223). -/
def parsePass (bs : List Byte) : PassHdr :=
  let w := fun o => BitVec.ofNat 64 (fld bs o 8)
  { tx := fld bs 20 2, ty := fld bs 22 2, samp := fld bs 24 1, npl := fld bs 25 1, pfmt := fld bs 26 1, cset := w 32, surf := w 40,
    bin := w 48, binsz := fld bs 56 4, spill := w 64, nitem := fld bs 16 4, items := w 8, cca := w 72 }

/-- The format of a plane of a pass. -/
def planeFmt (h : PassHdr) (n : Nat) : Nat := h.pfmt / 4 ^ n % 4

/-- The refusals of a pass record (R205, R223). CSET 0, which names no core, is refused with ERR 7 as one not within the context's cores is (DESIGN
CHOICE, DESIGN CHOICE, log 144). -/
def passConds (c : Ctx) (bs : List Byte) : List (Bool × Nat) :=
  let h := parsePass bs
  let d24 := ((List.range h.npl).filter fun n => planeFmt h n == 3).length
  [(!zeroBytes bs 80 48 || !zeroBytes bs 60 4 || !zeroBytes bs 27 5, 1), (h.cca.toNat % 16 != 0, 1),
   (!([1, 2, 4].contains h.samp) || h.npl < 1 || 4 < h.npl || 262144 < 16384 * h.samp * h.npl || 1 < d24 || h.nitem < 1 || 2 ^ 20 < h.nitem
     || h.tx < 1 || 1024 < h.tx || h.ty < 1 || 1024 < h.ty || h.cset.toNat == 0 || 2 ^ c.cores.length ≤ h.cset.toNat, 7)]

/-- The surface table of a pass (R290). (DEDUCED, log 65) -/
def takeSurf (s : State) (cid : Nat) (c : Ctx) (va : Nat) : Take (List (BitVec 128)) :=
  (frontRead s cid c va 1).bind fun bs =>
    let es := [0, 16, 32, 48].map fun o => fld bs o 16
    if es.any fun e => e / 2 ^ 16 % 2 ^ 48 != 0 || e / 2 ^ 12 % 4 != 0 then .refuse 1
    else .ok (es.map fun e => BitVec.ofNat 128 e)

/-- Read a launch descriptor at an address, with its refusal: its KIND must be 1 (R221, R226). -/
def takeDesc (s : State) (cid : Nat) (c : Ctx) (va : Nat) (u : DescUse) (more : Desc → List (Bool × Nat)) : Take (List Byte × Desc) :=
  (frontRead s cid c va 2).bind fun bs =>
    match firstErr ((fld bs 0 1 != 1, 1) :: descConds s c bs u ++ more (parseDesc bs)) with
    | some e => .refuse e
    | none => .ok (bs, parseDesc bs)

/-- The members of a graph: ring records `i` on, with their addresses and objects. -/
def takeMembers (s : State) (cid : Nat) (c : Ctx) (at_ : Nat → Nat) (i n : Nat) : Take (List ((Desc × W64) × Option ObjRef)) :=
  match n with
  | 0 => .ok []
  | n + 1 =>
    (frontRead s cid c (at_ i) 2).bind fun bs =>
      match firstErr (memberConds bs ++ descConds s c bs .launch) with
      | some e => .refuse e
      | none =>
        (objRefOf s cid c (fld bs 80 8)).bind fun o =>
          (takeMembers s cid c at_ (i + 1) n).bind fun r => .ok (((parseDesc bs, BitVec.ofNat 64 (at_ i)), o) :: r)

/-- The refusals of a record by its KIND. -/
def bodyConds (s : State) (c : Ctx) (bs : List Byte) : List (Bool × Nat) :=
  match fld bs 0 1 with
  | 1 => descConds s c bs .launch
  | 2 => graphConds bs
  | 3 => passConds c bs
  | 4 => [(!zeroBytes bs 16 112, 1), (zeroBytes bs 8 8, 10)]
  | _ => []

/-- A record as the front-end takes it, with the number of ring records it fills. -/
def takeRecord (s : State) (slot : Nat) (q : QSlot) (cid : Nat) (c : Ctx) : Take (Rec × Nat) :=
  let at_ := fun (n : Nat) => q.rbase.toNat + 128 * ((q.head.toNat + n) % 2 ^ q.log2n)
  (frontRead s cid c (at_ 0) 2).bind fun bs =>
    match firstErr (headerConds s q.vf bs ++ bodyConds s c bs) with
    | some e => .refuse e
    | none =>
      let mk := fun (b : RecBody) (o : Option ObjRef) (os : List (Option ObjRef)) =>
        ({ slot := slot, body := b, ord := fld bs 1 1 == 1, wdc := depcField (fld bs 2 2), wval := fld bs 4 2, sdc := depcField (fld bs 6 2),
           begun := false, began := 0, status := .normal, went := [], gone := [], obj := o, objs := os } : Rec)
      match fld bs 0 1 with
      | 1 => (objRefOf s cid c (fld bs 80 8)).bind fun o => .ok (mk (.launch (parseDesc bs) (BitVec.ofNat 64 (at_ 0))) none [o], 1)
      | 2 =>
        let n := fld bs 16 1
        (objRefOf s cid c (fld bs 8 8)).bind fun o =>
          (takeMembers s cid c at_ 1 n).bind fun l =>
            .ok (mk (.graph (l.map (·.1)) ((List.range 16).map fun i => fld bs (32 + 2 * i) 2) (BitVec.ofNat 64 (fld bs 8 8))) o (l.map (·.2)), n + 1)
      | 3 =>
        (takeSurf s cid c (fld bs 40 8)).bind fun tab =>
          (objRefOf s cid c (fld bs 72 8)).bind fun o => .ok (mk (.pass (parsePass bs) tab) o [], 1)
      | _ => .ok (mk (.wait (BitVec.ofNat 64 (fld bs 8 8))) none [], 1)

/-- What the front-end read of the memory of a record that it took: its ring records, and a pass's surface table (R276). -/
def Rec.reads (r : Rec) (q : QSlot) (n : Nat) : List (Nat × Nat) :=
  (List.range n).map (fun i => (q.rbase.toNat + 128 * ((q.head.toNat + i) % 2 ^ q.log2n), 128))
    ++ (match r.body with | .pass h _ => [(h.surf.toNat, 64)] | _ => [])

/-! The queue instructions (R228 to R232). -/

/-- Read `k` pieces of 8 bytes as loads of the issuing fibre; the first failing byte's fault otherwise. -/
def readRun (s : State) (h : Here) (va k : Nat) : Checked (List Byte) × State :=
  match k with
  | 0 => (.ok [], s)
  | k + 1 =>
    match readNow s h va 8 with
    | (.ok b, s) =>
      match readRun s h (va + 8) k with
      | (.ok r, s) => (.ok (b ++ r), s)
      | x => x
    | x => x

/-- Tails listed or waiting in a context (R229). -/
def tailsOf (s : State) (cid : Nat) : Nat :=
  (s.launches.filter fun e => e.2.ctx == cid).foldl (fun n e => n + e.2.tails.length + e.2.chain.length) 0

/-- Append a tail for the issuing group. -/
def appendTail (s : State) (h : Here) (lid rank : Nat) (d : Desc) (a : Nat) (o : Option ObjRef) : State :=
  let t : Tail := { rank := rank, lane := gidxOf h.gid * h.g.w + lowest h.f.pred, tc := h.g.tc, desc := d, addr := BitVec.ofNat 64 a, obj := o }
  modGroup (modLaunch s lid fun l => { l with tails := l.tails ++ [t] }) h.gid fun g => { g with tc := g.tc + 1 }

/-- `q.tail` (R229). (DEDUCED, log 68) -/
def execQTail (f : GFmt) (s : State) : Out :=
  gRun (qTailCauses f) true f.pfx (abRegs f) (fun s h len =>
    if h.isHandler then raiseP s h len 0x005 0
    else
      let a := (uniVal h.g f.pfx f.a).toNat
      if a % 64 != 0 then raisePAt s h len 0x021 0 a
      else
        let s := drainGroup s h.gid
        if inFlight s (fun x => x.gid == h.gid && x.writes) then s
        else
          match readRun s h a 16 with
          | (.fault c b ad, s) => raisePAt s h len c b ad
          | (.wait, s) => s
          | (.ok bs, s) =>
            match firstErr ((fld bs 0 1 != 1, 1) :: descConds s h.c bs .launch) with
            | some e => raiseP s h len 0x040 e
            | none =>
              match objRefOf s h.cid h.c (fld bs 80 8), pointOf h.b with
              | .refuse e, _ => raiseP s h len 0x040 e
              | .wait, _ => s
              | .ok _, none => raiseP s h len 0x041 0
              | .ok o, some (lid, rank) =>
                match Tbl.get? s.launches lid with
                | none => raiseP s h len 0x041 0
                | some l =>
                  if 16 ≤ l.tails.length || 4096 ≤ tailsOf s h.cid then raiseP s h len 0x041 0
                  else h.advance (appendTail s h lid rank (parseDesc bs) a o) len) s

/-- The oldest unretired record of a slot with a kind. -/
def oldestRec (s : State) (slot : Nat) (p : RecBody → Bool) : Option Nat := ((recsOf s slot).find? fun e => p e.2.body).map (·.1)

/-- A record's commit has begun in one of its launches, or it retires already. -/
def committedRec (s : State) (rid : Nat) : Bool :=
  recOwed s rid || s.launches.any fun e => e.2.recId == rid && (e.2.st == .committed || e.2.st == .retiring)

/-- Cancel a record: one taken and not begun retires cancelled at once, with the objects of its launches, and stands as the slot's previous record
(R14, R220). -/
def cancelOne (s : State) (rid : Nat) : State :=
  match Tbl.get? s.recs rid with
  | none => s
  | some r =>
    if r.begun then cancelRec s rid
    else
      let s := modRec (modSlot s r.slot fun q => { q with last := some rid }) rid fun r => { r with begun := true, status := .cancelled }
      retireRec (oweMembers s (slotOf s r.slot).ctx r.objs) rid .cancelled

/-- The target of a cancel: the state after and the status (R231). A graph some of whose launches have begun their commits answers already-retired,
its other launches being cancelled; a job's cancel always answers 0 (DESIGN CHOICE, log 121). -/
def cancelTarget (s : State) (cid slot kind : Nat) : State × W64 :=
  let one := fun (o : Option Nat) =>
    match o with
    | none => (s, (2 : W64))
    | some rid => if committedRec s rid then (cancelOne s rid, 1) else (cancelOne s rid, 0)
  match kind with
  | 0 => one (oldestRec s slot fun b => match b with | .launch _ _ => true | _ => false)
  | 1 => one (oldestRec s slot fun b => match b with | .graph _ _ _ => true | _ => false)
  | _ => (cancelJob s cid, 0)

/-- `q.cancel` (R231): a group that the cancel ends writes nothing more. -/
def execQCancel (f : GFmt) (s : State) : Out :=
  gRun (qCancelCauses f) false f.pfx (abRegs f) (fun s h len =>
    if isZero f.a then
      match pointOf h.b with
      | some (lid, _) =>
        if h.isHandler || immOf f.b != 0 then raiseP s h len 0x005 0
        else h.advance (cancelLaunch s lid false) len
      | none => raiseP s h len 0x005 0
    else
      let v := (uniVal h.g f.pfx f.a).toNat
      if 1024 ≤ v || (slotOf s v).st == 0 || (slotOf s v).ctx != h.cid then raiseP s h len 0x005 0
      else
        let r := cancelTarget s h.cid v (immOf f.b).toNat
        h.advance (putDst r.1 h.gid (dstOf f.pfx f.a) r.2) len) s

/-- The issuer in the layout of a handle (R232). -/
def srcOf (h : Here) : W64 := handleOf h.gid h.fid

/-- `q.evt`: the record leaves; it is written after the group's earlier stores (R232). -/
def execQEvt (f : GFmt) (s : State) : Out :=
  gRun (qEvtCauses f) false f.pfx (abRegs f) (fun s h len =>
    h.advance (pushPend s [.event h.gid h.cid
      { pay := uniVal h.g f.pfx f.a, time := timeFor s h.c.vf, src := srcOf h, code := (immOf f.b).toNat, cls := 1 }]) len) s

end Sys2Proof.Machine
end

