-- ==== Sys2Proof/Machine/Tensor.lean ====
section
/-! DEFINITION. Tensor records and their instructions (R306 to R311). -/

namespace Sys2Proof.Machine

/-- A field of a 512-bit record: `n` bits from `lo`. -/
def bf (r : BitVec 512) (lo n : Nat) : Nat := (r.extractLsb' lo n).toNat

/-- Record n of a context (R306). -/
def tdRec (c : Ctx) (n : Nat) : BitVec 512 := SMap.get c.tabs.td n
/-- BASE. -/
def tdBase (r : BitVec 512) : Nat := bf r 448 64
/-- Extent of dimension m. -/
def tdDim (r : BitVec 512) (m : Nat) : Nat := bf r (416 - 32 * m) 32
/-- Byte stride of dimension m, 1 to 3. -/
def tdStride (r : BitVec 512) (m : Nat) : Nat := bf r (320 - 48 * m) 48
/-- KEY. -/
def tdKey (r : BitVec 512) : Nat := bf r 24 8
/-- WORLD. -/
def tdWorld (r : BitVec 512) : Nat := bf r 16 6
/-- A reserved field is not 0. -/
def tdReserved (r : BitVec 512) : Bool := bf r 32 48 != 0 || bf r 22 2 != 0 || bf r 3 13 != 0

/-- A record as it is kept: bits 13:0 of its format image are read-only and 0 (R24; DEDUCED, log 115). -/
def tdKept (r : BitVec 512) : BitVec 512 := r &&& ~~~(BitVec.ofNat 512 (2 ^ 14 - 1) <<< 80)

/-- Change a context's records: every copy at once (R308). -/
def setTd (s : State) (cid : Nat) (f : SMap 512 → SMap 512) : State :=
  modCtx s cid fun c => { c with tabs := { c.tabs with td := f c.tabs.td } }

/-- A number from bytes, 512 bits. -/
def rec512 (bs : List Byte) : BitVec 512 := BitVec.ofNat 512 (leNat bs)

/-- `td.set` (R310). -/
def execTdSet (f : GFmt) (s : State) : Out :=
  gRun (tdSetCauses f) false f.pfx (abRegs f) (fun s h len =>
    let a := (uniVal h.g f.pfx f.a).toNat
    let n := (uniVal h.g f.pfx f.b).toNat
    if 63 < n then raiseP s h len 0x006 0
    else if a % 64 != 0 then raisePAt s h len 0x021 0 a
    else afterStores s h fun s h =>
      match readRun s h a 8 with
      | (.wait, s) => s
      | (.fault c b x, s) => raisePAt s h len c b x
      | (.ok bs, s) =>
        let r := rec512 bs
        if tdReserved r then raiseP s h len 0x006 0
        else if tdWorld r != 0 && tdWorld r != h.c.world then raiseP s h len 0x005 0
        else h.advance (setTd s h.cid fun m => SMap.set m n (tdKept r)) len) s

/-- `td.get` (R311). -/
def execTdGet (f : GFmt) (s : State) : Out :=
  gRun (tdGetCauses f) false f.pfx (abRegs f) (fun s h len =>
    let v := (uniVal h.g f.pfx f.b).toNat
    if 512 ≤ v then raiseP s h len 0x006 0
    else
      let x := BitVec.ofNat 64 (bf (tdRec h.c (v % 64)) (64 * (v / 64)) 64)
      h.advance (putDst s h.gid (dstOf f.pfx f.a) x) len) s

/-- `td.inv`: one record, or all of them, as reset (R311). -/
def execTdInv (f : GFmt) (s : State) : Out :=
  gRun (tdInvCauses f) false f.pfx (scalarNos f.pfx f.b) (fun s h len =>
    if isOnes f.b then h.advance (setTd s h.cid fun _ => []) len
    else
      let n := (uniVal h.g f.pfx f.b).toNat
      if 63 < n then raiseP s h len 0x006 0 else h.advance (setTd s h.cid fun m => SMap.set m n 0) len) s

end Sys2Proof.Machine
end

