-- ==== Sys2Proof/Machine/Surf.lean ====
section
/-! DEFINITION. Displays, surfaces and consent as instructions read them (R285, R288, R292 to R298). -/

namespace Sys2Proof.Machine

/-- A display. -/
def dispSt (s : State) (d : Nat) : Display := (Tbl.get? s.pix.disps d).getD Display.reset
/-- A display's generation; 0 before its first DISP_CFG. -/
def genOf (s : State) (d : Nat) : Nat := (dispSt s d).gen

/-- The POM word at a display pixel; none outside the display (R285). -/
def pomAt (s : State) (d : Nat) (x y : Int) : Option Half :=
  match (dispSt s d).cfg with
  | none => none
  | some c => if 0 ≤ x && x < c.w && 0 ≤ y && y < c.h then some (SMap.get (dispSt s d).pom (y.toNat * c.w + x.toNat)) else none

/-- OID of a POM word. -/
def pomOid (w : Half) : Nat := w.toNat % 4096
/-- NOCAP. -/
def pomNoCap (w : Half) : Bool := w.getLsbD 15
/-- FX. -/
def pomFx (w : Half) : Bool := w.getLsbD 14

/-- Texel bytes of a format (R211). -/
def texelBytes (fmt : Nat) : Nat :=
  match fmt with
  | 1 => 8
  | 2 => 16
  | _ => 4

/-- The position in a surface of a physical address in one of its frames (R288); none past its pixels. -/
def surfPos (a : SurfArgs) (frame pa : Nat) : Option (Nat × Nat) :=
  let off := frame * 32768 + pa % 32768 - a.base
  let x := off % a.pitch / texelBytes a.fmt
  let y := off / a.pitch
  if a.pitch != 0 && x < a.w && y < a.h then some (x, y) else none

/-- The POM word at the display pixel of a surface's pixel: none outside the display; flags 0 for a private surface (R293, R297). -/
def surfPom (s : State) (a : SurfArgs) (x y : Nat) : Option Half :=
  match a.kind with
  | 1 => some (BitVec.ofNat 16 a.oid)
  | 2 => pomAt s a.disp (a.ox + x) (a.oy + y)
  | _ => pomAt s a.disp x y

/-- The owner of a texel (R293), with NOCAP at its pixel. -/
def texOwner (s : State) (a : SurfArgs) (x y : Nat) : Nat × Bool :=
  let w := (surfPom s a x y).getD 0
  (if a.kind = 3 then pomOid w else a.oid, pomNoCap w)

/-- The valid entries from an owner to a grantee that cover a position in the generation of their display (R292, R293). -/
def grants (s : State) (gtr gte sid x y : Nat) : List GrantArgs :=
  (s.pix.cts.map fun e => e.2.a).filter fun e =>
    e.gtr == gtr && e.gte == gte && (e.sid == sid || e.sid == 4095) && e.x0 ≤ x && x ≤ e.x1 && e.y0 ≤ y && y ≤ e.y1
      && e.first.toNat ≤ genOf s e.disp && genOf s e.disp ≤ e.last.toNat

/-- Right S of an entry. -/
def rightS (r : BitVec 4) : Bool := r.getLsbD 0
/-- Right F. -/
def rightF (r : BitVec 4) : Bool := r.getLsbD 1
/-- Right T. -/
def rightT (r : BitVec 4) : Bool := r.getLsbD 2
/-- Right C. -/
def rightC (r : BitVec 4) : Bool := r.getLsbD 3

/-- A texel of a surface that a context reads is refused: its owner (R293). `filt` is true for `tex` with FLT ≥ 1. -/
def texRefused (s : State) (oid sid : Nat) (a : SurfArgs) (x y level : Nat) (filt : Bool) : Option Nat :=
  let o := texOwner s a x y
  if o.1 = oid || o.1 = 0 then none
  else if o.1 = 4095 then some o.1
  else if (grants s o.1 oid sid x y).any fun e =>
      if a.kind = 3 then rightC e.rights && !o.2
      else rightS e.rights || (rightF e.rights && filt && e.minlod ≤ level) then none
  else some o.1

/-- A refusal value (R294). -/
def refusalOf (s : State) (oid : Nat) : List Nat :=
  if oid = 4095 then [0, 0, 0, 0]
  else
    match Tbl.get? s.pix.rvals oid with
    | some v => [v.r.toNat, v.g.toNat, v.b.toNat, v.a.toNat]
    | none => [0, 0, 0, 0]

/-- CLS of an owner for a context (R297). -/
def ownClass (oid o : Nat) : Nat := if o = 0 then 0 else if o = oid then 1 else if o = 4095 then 3 else 2

/-- The word of `pix.own` (R297). -/
def pixOwnWord (s : State) (oid sid x y : Nat) : Nat :=
  match Tbl.get? s.pix.surfs sid with
  | none => 2 ^ 31
  | some sf =>
    if sf.a.w ≤ x || sf.a.h ≤ y then 2 ^ 31
    else
      match surfPom s sf.a x y with
      | none => 2 ^ 31
      | some w =>
        let c := ownClass oid (pomOid w)
        c * 2 ^ 16 + (if c = 1 then w.toNat else 0)

/-- The rights that an owner's entries give at a position, C cleared where NOCAP is 1 (R298). -/
def rightsAt (s : State) (oid o sid x y : Nat) (noCap : Bool) : Nat :=
  let r := (grants s o oid sid x y).foldl (fun r e => r ||| e.rights) 0
  if noCap then r.toNat % 8 else r.toNat

/-- The word of `ct.look` (R298). -/
def ctLookWord (s : State) (oid sid x y : Nat) : Nat :=
  match Tbl.get? s.pix.surfs sid with
  | none => 2 ^ 31
  | some sf =>
    if sf.a.w ≤ x || sf.a.h ≤ y || (surfPom s sf.a x y).isNone then 2 ^ 31
    else
      let o := texOwner s sf.a x y
      let c := ownClass oid o.1
      c * 2 ^ 16 + (match c with | 0 => 15 | 1 => 15 | 3 => 0 | _ => rightsAt s oid o.1 sid x y o.2)

/-! The ownership instructions (R296 to R298). -/

/-- A format U instruction of the pixel family: fields, window, interlock on S(A) and vd to vd+3, then its effect. -/
def pixRun (causes : List Nat) (f : UFmt) (n : Nat) (k : State → Here → Nat → State) (s : State) : Out :=
  let len := lenOf f.pfx
  let msk := mskOf f.pfx
  issue s fun h =>
    let r := h.f.wb * 8 + f.vd.toNat
    let nm : Named := { vregs := (List.range n).map fun i => r + i, sregs := scalarNos f.pfx f.a }
    checked s h causes true msk len
      (if outOfWindow h nm then raiseA s h msk len 0x002 0
       else withRegs s h nm fun s h => k s h r)

/-- Write a word to the active lanes of a register and 0 to the disabled ones under `.zro`. -/
def putWords (s : State) (h : Here) (f : UFmt) (reg : Nat) (v : Nat → Nat) : State :=
  modGroup s h.gid fun g => writeLanes g false reg (h.act (mskOf f.pfx)) (zroOf f.pfx) v (laneNos g.w)

/-- `pix.own` and `ct.look`: a word about each lane's pixel of a surface. -/
def lookRun (causes : List Nat) (f : UFmt) (word : State → Nat → Nat → Nat → Nat → Nat) (s : State) : Out :=
  pixRun causes f 4 (fun s h reg =>
    let len := lenOf f.pfx
    let v := (uniVal h.g f.pfx f.a).toNat
    if 4096 ≤ v then raiseP s h len 0x006 0
    else
      let at_ := fun (l : Nat) => (getVreg h.g reg l).toNat
      h.advance (putWords s h f reg fun l => word s h.c.oid v (at_ l % 65536) (at_ l / 65536)) len) s

/-- `pix.own` (R297). -/
def execPixOwn (f : UFmt) (s : State) : Out := lookRun (pixCauses pixNSpec f) f pixOwnWord s
/-- `ct.look` (R298). -/
def execCtLook (f : UFmt) (s : State) : Out := lookRun (pixCauses pixNSpec f) f ctLookWord s

end Sys2Proof.Machine
end

