-- ==== Sys2Proof/Machine/Tex.lean ====
section
/-! DEFINITION. Texture sampling (R210 to R212) under consent (R293, R294). -/

namespace Sys2Proof.Machine

/-! FP32 with one RNE rounding per operation (R212). -/

/-- Sum. -/
def fAdd (a b : Nat) : Nat := fmt32.add .rne a b
/-- Difference. -/
def fSub (a b : Nat) : Nat := fmt32.sub .rne a b
/-- Product. -/
def fMul (a b : Nat) : Nat := fmt32.mul .rne a b
/-- Quotient. -/
def fDiv (a b : Nat) : Nat := fmt32.div .rne a b
/-- An integer. -/
def fInt (n : Int) : Nat := fmt32.ofInt .rne n
/-- 1.0. -/
def fOne : Nat := 0x3F800000
/-- 0.5. -/
def fHalf : Nat := 0x3F000000
/-- A finite code. -/
def fFinite (a : Nat) : Bool := !(fmt32.isNan a) && !(fmt32.isInf a)
/-- FLOOR; none where the value is not finite. -/
def fFloor (a : Nat) : Option Int := if fFinite a then some ((fmt32.value a).toInt .rdn) else none
/-- CEIL. -/
def fCeil (a : Nat) : Option Int := if fFinite a then some ((fmt32.value a).toInt .rup) else none
/-- FLOOR(x × 256) / 256. -/
def fStep (a : Nat) : Nat := fMul (fInt ((fFloor (fMul a (fInt 256))).getD 0)) 0x3B800000
/-- The length of a vector: FP32, RNE per operation (DEDUCED, log 19). -/
def fLen (a b : Nat) : Nat := fmt32.sqrt .rne (fAdd (fMul a a) (fMul b b))

/-! Addressing (R211, R212). -/

/-- ADR: the texel index, or the border. (DESIGN CHOICE, log 54) -/
def texAdr (adr : Nat) (i : Int) (n : Nat) : Option Nat :=
  match adr with
  | 0 => some (i % n).toNat
  | 1 => some (clampInt 0 (n - 1) i).toNat
  | 2 => let p := (i % (2 * n)).toNat; some (if p < n then p else 2 * n - 1 - p)
  | _ => if 0 ≤ i && i < n then some i.toNat else none

/-- BIL's index and fraction on one axis; none where the coordinate is not finite. -/
def bilAxis (u n : Nat) : Option (Int × Nat) :=
  let x := fSub (fMul u (fInt n)) fHalf
  (fFloor x).map fun i => (i, fStep (fSub x (fInt i)))

/-- One component of a bilinear result. -/
def bilMix (fx fy t00 t10 t01 t11 : Nat) : Nat :=
  let ox := fSub fOne fx
  fAdd (fMul (fAdd (fMul t00 ox) (fMul t10 fx)) (fSub fOne fy)) (fMul (fAdd (fMul t01 ox) (fMul t11 fx)) fy)

/-- Texel bytes as four components (R211). -/
def texelOf (fmt : Nat) (bs : List Byte) : List Nat :=
  match fmt with
  | 0 => (bs.take 4).map fun b => fDiv (fInt b.toNat) (fInt 255)
  | 1 => (List.range 4).map fun i => fmt16.convert fmt32 .rne (fld bs (2 * i) 2)
  | 2 => (List.range 4).map fun i => fld bs (4 * i) 4
  | _ => [fld bs 0 4, 0, 0, fOne]

/-- Four components, by position. -/
def four (f : Nat → Nat) : List Nat := [f 0, f 1, f 2, f 3]

/-! Reading a texel. -/

/-- Go on with an answer. -/
def Checked.andThen {α β : Type} (x : Checked α × State) (k : α → State → Checked β × State) : Checked β × State :=
  match x with
  | (.ok a, s) => k a s
  | (.fault c b d, s) => (.fault c b d, s)
  | (.wait, s) => (.wait, s)

/-- Read `n` bytes, at most 8, by the texture path, with the physical place of the first (R211, R293). -/
def texBytes (s : State) (h : Here) (va n : Nat) : Checked (List Byte × Option Part) × State :=
  Checked.andThen (accessBy (fun s va => translateRaw s h.core h.cid h.c va false false) s va n) fun ps s =>
    match partsFault s h.c va true ps with
    | some f => (.fault f.1 f.2.1 f.2.2, s)
    | none => let r := readParts s h ps; (.ok (r.1, ps.head?), r.2)

/-- A sampler: the image's record, the fields of the sampler word, and `tex.fetch`. -/
structure Sampler where
  td : BitVec 512
  fmt : Nat
  adr : Nat
  flt : Nat
  ani : Nat
  lodb : Int
  fetch : Bool

/-- The sampler of a word (R211). -/
def samplerOf (c : Ctx) (w : Nat) (fetch : Bool) : Sampler :=
  { td := tdRec c (w / 2 ^ 16 % 64), fmt := w / 2 ^ 28 % 4, adr := w / 2 ^ 30 % 4, flt := w / 2 ^ 26 % 4, ani := w / 2 ^ 32 % 16,
    lodb := sxInt 8 (w / 2 ^ 40 % 256), fetch := fetch }

/-- A reserved field of a sampler word is not 0, or FLT is not 0 in `tex.fetch` (R211). -/
def samplerBad (w : Nat) (fetch : Bool) : Bool :=
  w / 2 ^ 48 != 0 || w / 2 ^ 36 % 16 != 0 || w / 2 ^ 22 % 16 != 0 || w % 2 ^ 16 != 0 || (fetch && w / 2 ^ 26 % 4 != 0)

/-- Levels of the image. -/
def Sampler.levels (t : Sampler) : Nat := tdDim t.td 2
/-- Width of a level. -/
def Sampler.w (t : Sampler) (l : Nat) : Nat := max 1 (tdDim t.td 0 / 2 ^ l)
/-- Height of a level. -/
def Sampler.h (t : Sampler) (l : Nat) : Nat := max 1 (tdDim t.td 1 / 2 ^ l)

/-- The owner whose refusal value a texel takes, where it lies in a surface and does not pass (R293). -/
def texCheck (s : State) (h : Here) (t : Sampler) (level : Nat) (p : Option Part) : Option Nat :=
  match p with
  | none => none
  | some p =>
    if p.space != .loc then none
    else
      match surfOf s (p.pa / 32768) with
      | none => none
      | some (sid, sf, fr) =>
        match surfPos sf.a fr p.pa with
        | none => none
        | some q => texRefused s h.c.oid sid sf.a q.1 q.2 level (!t.fetch && t.flt != 0)

/-- Texel (x, y) of a level, after consent (R211, R293). -/
def texelAt (t : Sampler) (h : Here) (level x y : Nat) (s : State) : Checked (List Nat) × State :=
  let n := texelBytes t.fmt
  let va := (tdBase t.td + level * tdStride t.td 2 + y * tdStride t.td 1 + x * n) % 2 ^ 64
  Checked.andThen (texBytes s h va (min n 8)) fun a s =>
    let got := fun (bs : List Byte) (s : State) =>
      (Checked.ok (match texCheck s h t level a.2 with | some o => refusalOf s o | none => texelOf t.fmt bs), s)
    if n ≤ 8 then got a.1 s
    else Checked.andThen (texBytes s h ((va + 8) % 2 ^ 64) 8) fun b s => got (a.1 ++ b.1) s

/-- Texel (i, j) after ADR: all components 0 at the border. -/
def texelAdr (t : Sampler) (h : Here) (level : Nat) (i j : Int) (s : State) : Checked (List Nat) × State :=
  match texAdr t.adr i (t.w level), texAdr t.adr j (t.h level) with
  | some x, some y => texelAt t h level x y s
  | _, _ => (.ok [0, 0, 0, 0], s)

/-- Four free components, where the spec states no result (DESIGN CHOICE, log 2). -/
def freeTexel (s : State) : Checked (List Nat) × State :=
  let a := freshNat s
  let b := freshNat a.2
  let c := freshNat b.2
  let d := freshNat c.2
  (.ok [a.1 % 2 ^ 32, b.1 % 2 ^ 32, c.1 % 2 ^ 32, d.1 % 2 ^ 32], d.2)

/-! Filters (R212). -/

/-- BIL(L, u, v). -/
def texBil (t : Sampler) (h : Here) (level u v : Nat) (s : State) : Checked (List Nat) × State :=
  match bilAxis u (t.w level), bilAxis v (t.h level) with
  | some (i, fx), some (j, fy) =>
    Checked.andThen (texelAdr t h level i j s) fun t00 s =>
    Checked.andThen (texelAdr t h level (i + 1) j s) fun t10 s =>
    Checked.andThen (texelAdr t h level i (j + 1) s) fun t01 s =>
    Checked.andThen (texelAdr t h level (i + 1) (j + 1) s) fun t11 s =>
      (.ok (four fun c => bilMix fx fy (nth t00 c 0) (nth t10 c 0) (nth t01 c 0) (nth t11 c 0)), s)
  | _, _ => freeTexel s

/-- The point filter. -/
def texPoint (t : Sampler) (h : Here) (level u v : Nat) (s : State) : Checked (List Nat) × State :=
  match fFloor (fMul u (fInt (t.w level))), fFloor (fMul v (fInt (t.h level))) with
  | some i, some j => texelAdr t h level i j s
  | _, _ => freeTexel s

/-- CLAMP(FLOOR(LODB/16), 0, D2 − 1). -/
def Sampler.baseLevel (t : Sampler) : Nat := (clampInt 0 ((t.levels : Int) - 1) (t.lodb / 16)).toNat

/-- LODB/16 as FP32. -/
def Sampler.bias (t : Sampler) : Nat := fDiv (fInt t.lodb) (fInt 16)

/-- The level and the fraction of λ: none where λ is a NaN. -/
def Sampler.split (t : Sampler) (lam : Nat) : Option (Nat × Nat) :=
  if fmt32.isNan lam then none
  else
    let c := fmt32.min (fmt32.max lam 0) (fInt ((t.levels : Int) - 1))
    (fFloor c).map fun l => (min l.toNat (t.levels - 1), fStep (fSub c (fInt l)))

/-- The trilinear filter at λ. -/
def texTri (t : Sampler) (h : Here) (lam u v : Nat) (s : State) : Checked (List Nat) × State :=
  match t.split lam with
  | none => freeTexel s
  | some (l, f) =>
    Checked.andThen (texBil t h l u v s) fun a s =>
    Checked.andThen (texBil t h (min (l + 1) (t.levels - 1)) u v s) fun b s =>
      (.ok (four fun c => fAdd (fMul (nth a c 0) (fSub fOne f)) (fMul (nth b c 0) f)), s)

/-- The difference of a register between two lanes of a quad. -/
def quadDiff (g : Group) (reg lane bit : Nat) : Nat :=
  fSub (getVreg g reg (lane ||| bit)).toNat (getVreg g reg (lane - (lane &&& bit))).toNat

/-- The derivative of (u, v) along x (bit 1) or y (bit 2) of a lane's quad. -/
def texDiff (g : Group) (reg lane bit : Nat) : Nat × Nat := (quadDiff g reg lane bit, quadDiff g (reg + 1) lane bit)

/-- ρ: the length of a derivative in texels of level 0. -/
def Sampler.rho (t : Sampler) (d : Nat × Nat) : Nat := fLen (fMul d.1 (fInt (t.w 0))) (fMul d.2 (fInt (t.h 0)))

/-- The taps from `k` on, summed in ascending order. -/
def texTaps (t : Sampler) (h : Here) (lam u v n : Nat) (ax : Nat × Nat) (k : Nat) (acc : List Nat) (m : Nat) (s : State) :
    Checked (List Nat) × State :=
  match m with
  | 0 => (.ok acc, s)
  | m + 1 =>
    let o := fSub (fDiv (fAdd (fInt k) fHalf) (fInt n)) fHalf
    Checked.andThen (texTri t h lam (fAdd u (fMul o ax.1)) (fAdd v (fMul o ax.2)) s) fun x s =>
      texTaps t h lam u v n ax (k + 1) (if k = 0 then x else four fun c => fAdd (nth acc c 0) (nth x c 0)) m s

/-- The number of anisotropic taps; free where both lengths are 0 or one is a NaN (DESIGN CHOICE, log 2). -/
def texTapCount (t : Sampler) (hi lo : Nat) (s : State) : Nat × State :=
  let r := fDiv hi lo
  if fmt32.isNan r then let x := freshNat s; (1 + x.1 % (t.ani + 1), x.2)
  else
    match fCeil r with
    | some c => (max 1 (min (t.ani + 1) c.toNat), s)
    | none => (t.ani + 1, s)

/-- The anisotropic filter. -/
def texAniso (t : Sampler) (h : Here) (u v : Nat) (dx dy : Nat × Nat) (s : State) : Checked (List Nat) × State :=
  let rx := t.rho dx
  let ry := t.rho dy
  let hi := fmt32.max rx ry
  let r := texTapCount t hi (fmt32.min rx ry) s
  let lam := fAdd (sfuLog2 (fDiv hi (fInt r.1))) t.bias
  let ax := if fmt32.key rx < fmt32.key ry then dy else dx
  Checked.andThen (texTaps t h lam u v r.1 ax 0 [] r.1 r.2) fun x s =>
    (.ok (four fun c => fMul (nth x c 0) (fDiv fOne (fInt r.1))), s)

/-- A lane's result (R212). -/
def texLane (t : Sampler) (h : Here) (reg lane : Nat) (s : State) : Checked (List Nat) × State :=
  let u := (getVreg h.g reg lane).toNat
  let v := (getVreg h.g (reg + 1) lane).toNat
  if t.fetch then texelAdr t h t.baseLevel (sxInt 32 u) (sxInt 32 v) s
  else
    let dx := texDiff h.g reg lane 1
    let dy := texDiff h.g reg lane 2
    match t.flt with
    | 0 => texPoint t h t.baseLevel u v s
    | 1 => texBil t h t.baseLevel u v s
    | 2 => texTri t h (fAdd (sfuLog2 (fmt32.max (t.rho dx) (t.rho dy))) t.bias) u v s
    | _ => texAniso t h u v dx dy s

/-- The results of the lanes of a list, the lanes that failed, and whether a page-in is awaited. -/
structure TexScan where
  s : State
  oks : List (Nat × List Nat)
  bads : List LaneBad
  wait : Bool

/-- Sample every lane of a list. -/
def texScan (t : Sampler) (h : Here) (reg : Nat) (lanes : List Nat) (r : TexScan) : TexScan :=
  match lanes with
  | [] => r
  | l :: m =>
    match texLane t h reg l r.s with
    | (.ok x, s) => texScan t h reg m { r with s := s, oks := r.oks ++ [(l, x)] }
    | (.fault c b a, s) => texScan t h reg m { r with s := s, bads := r.bads ++ [⟨l, c, b, a⟩] }
    | (.wait, s) => texScan t h reg m { r with s := s, wait := true }

/-- Component `c` of every lane of a list. -/
def texPut (g : Group) (reg c : Nat) (oks : List (Nat × List Nat)) : Group :=
  oks.foldl (fun g e => setVreg g reg e.1 (BitVec.ofNat 32 (nth e.2 c 0))) g

/-- Write the four components of the lanes that passed, and 0 to disabled lanes under `.zro`. -/
def texWrite (s : State) (h : Here) (reg : Nat) (act : W64) (zro : Bool) (oks : List (Nat × List Nat)) : State :=
  modGroup s h.gid fun g =>
    (List.range 4).foldl (fun g c => zeroDisabled (texPut g (reg + c) c oks) false (reg + c) act zro) g

/-- After what may perform has, an access of the group is still held, or a strong one is on the fabric: a texture read keeps its place behind it
(R369, R371). -/
def texHeld (s : State) (gid : Nat) : Bool :=
  s.mem.pend.any (fun p => match p with | .acc a => a.gid == gid && a.val.isNone | _ => false)
    || s.mem.fab.any fun a => a.gid == gid && a.kind == .strong

/-- An instruction that has been issued, as it may complete later (R293). -/
def texDue (s : State) (h : Here) (fetch : Bool) (word ra rd : Nat) (lanes : List Nat) : Pend :=
  .tex { gid := h.gid, fid := h.fid, ctx := h.cid, pc := h.f.pc, seq := s.steps, fetch := fetch, word := word, td := (samplerOf h.c word fetch).td,
         src := rangeAt h.g.regs.vreg (64 * ra) 128 0, rd := rd, lanes := lanes }

/-- The fibre of a texture read, with its coordinates in registers 0 and 1. -/
def texHere (s : State) (x : TexDue) : Option Here :=
  match Tbl.get? s.groups x.gid, Tbl.get? s.blocks (bsnOf x.gid), Tbl.get? s.ctxs x.ctx with
  | some g, some b, some c => (Tbl.get? g.fibres x.fid).map fun f =>
      { gid := x.gid, g := { g with regs := { g.regs with vreg := x.src } }, fid := x.fid, f := f, b := b, cid := x.ctx, c := c }
  | _, _, _ => none

/-- A texture read completes at this instant, which all its texels are then checked at (R293); what fails now keeps the results of its issue
(DESIGN CHOICE, log 157). -/
def texComplete (s : State) (x : TexDue) : State :=
  match texHere s x with
  | none => s
  | some h =>
    let r := texScan { samplerOf h.c x.word x.fetch with td := x.td } h 0 x.lanes { s := s, oks := [], bads := [], wait := false }
    if r.wait || !r.bads.isEmpty then s
    else modGroup r.s x.gid fun g => (List.range 4).foldl (fun g c => texPut g (x.rd + c) c r.oks) g

/-- `tex` and `tex.fetch` (R210): the results stand in their registers from issue on, and until something names those registers, or the group
issues an access or ends a wait, the instruction may still complete with a later check (R95, R293). -/
def texRun (fetch : Bool) (f : VFmt) (s : State) : Out :=
  let len := lenOf f.pfx
  let msk := mskOf f.pfx
  issue s fun h =>
    let ra := h.f.wb * 8 + f.a.toNat
    let rd := h.f.wb * 8 + f.vd.toNat
    let n : Named := { vregs := [ra, ra + 1, rd, rd + 1, rd + 2, rd + 3], sregs := scalarNos f.pfx f.b }
    checked s h (texCauses texSpec f) true msk len
      (if outOfWindow h n then raiseA s h msk len 0x002 0
       else withRegs s h n fun s h =>
        let w := (uniVal h.g f.pfx f.b).toNat
        let t := samplerOf h.c w fetch
        if samplerBad w fetch || t.levels == 0 then raiseA s h msk len 0x006 0
        else if tdWorld t.td != 0 then raiseA s h msk len 0x034 0
        else
          let s := drainGroup s h.gid
          let r := texScan t h ra (laneList (h.act msk)) { s := s, oks := [], bads := [], wait := false }
          if texHeld s h.gid || r.wait then s
          else
            let w := pushPend (texWrite r.s h rd (h.act msk) (zroOf f.pfx) r.oks) [texDue s h fetch w ra rd (r.oks.map (·.1))]
            parkBads w h len r.bads)

/-- `tex` (R210, R212). -/
def execTex (f : VFmt) (s : State) : Out := texRun false f s
/-- `tex.fetch` (R210, R212). -/
def execTexFetch (f : VFmt) (s : State) : Out := texRun true f s

end Sys2Proof.Machine
end

