-- ==== Sys2Proof/Machine/Place.lean ====
section
/-! DEFINITION. Placing blocks: what a core holds, where a block fits, and the groups that start (R10, R12, R82, R205, R221, R234). -/

namespace Sys2Proof.Machine

/-! Who may use a core (R233, R237, R240). -/

/-- A core may take blocks: its cluster is in use (R19, R363, R364). -/
def coreUsable (s : State) (core : Nat) : Bool :=
  let k := clusterSt s (clusterOf core)
  (s.full || core < 4) && !k.fenced && !k.retained

/-! What a core holds (R82, R234). -/

/-- The physical cores of a block, in block core order. -/
def blockCores (s : State) (b : Block) : List Nat :=
  match Tbl.get? s.ctxs b.ctx with
  | some c => b.lcores.map fun l => nth c.cores l 0
  | none => []

/-- The blocks on a core, one for each of their logical cores that it carries. -/
def blocksOn (s : State) (core : Nat) : List Block :=
  (s.blocks.filter fun e => !e.2.saved).flatMap fun e => ((blockCores s e.2).filter (· == core)).map fun _ => e.2

/-- Scratchpad bytes that a block takes on each core beside its groups' (R234). -/
def Foot.share (f : Foot) : Nat := 256 * ((f.shared + 256 * f.bcores - 1) / (256 * f.bcores)) + 256 * f.tlines

/-- Tile buffer bytes of a pass on each of its cores (R205). -/
def PassHdr.bufBytes (h : PassHdr) : Nat := 16384 * h.samp * h.npl

/-- Tile buffer bytes on a core: passes that hold it (R205). -/
def tileBytes (s : State) (core : Nat) : Nat :=
  s.passes.foldl (fun n e =>
    match Tbl.get? s.ctxs e.2.ctx, passHdr s e.1 with
    | some c, some h => if e.2.cur.any (fun x => nth c.cores x.1 0 == core) then n + h.bufBytes else n
    | _, _ => n) 0

/-- Scratchpad bytes in use on a core. -/
def scratchUsed (s : State) (core : Nat) : Nat :=
  let g := (residents s core).foldl (fun n e =>
    n + (match Tbl.get? s.blocks (bsnOf e.1) with | some b => b.foot.scratch | none => 0)) 0
  (blocksOn s core).foldl (fun n b => n + b.foot.share) (g + tileBytes s core)

/-- Registers of a core that are reserved: base sets and pools (R82, R234). -/
def regsReserved (s : State) (core : Nat) : Nat :=
  (blocksOn s core).foldl (fun n b => n + b.foot.pool) ((residents s core).foldl (fun n e => n + e.2.base) 0)

/-- Resident groups and registers held of each partition (R234). -/
def partUse (s : State) (core : Nat) : List (Nat × Nat) :=
  let r := residents s core
  let regs := partRegs s core
  (List.range 8).map fun p => ((r.filter fun e => e.2.place.part == p).length, nth regs p 0)

/-- The partition for a group of `base` registers: a free position and the most free registers, ties to the lower (R234). -/
def pickPart (use : List (Nat × Nat)) (base : Nat) : Option Nat :=
  (List.range 8).foldl (fun a p =>
    let u := nth use p (16, 512)
    if u.1 < 16 && u.2 + base ≤ 512 then
      (match a with | some q => if u.2 < (nth use q (16, 512)).2 then some p else a | none => some p)
    else a) none

/-- Partitions for `n` groups placed one after another. -/
def pickParts (use : List (Nat × Nat)) (base n : Nat) : Option (List Nat) :=
  match n with
  | 0 => some []
  | n + 1 =>
    match pickPart use base with
    | none => none
    | some p => (pickParts (modifyAt use p fun u => (u.1 + 1, u.2 + base)) base n).map (p :: ·)

/-- Groups of a block on core index `j` of it (R234). -/
def Foot.onCore (f : Foot) (j : Nat) : Nat := ((List.range f.groups).filter fun g => g % f.bcores == j).length

/-- The partitions of a core for the groups of a block's core index, where they fit (R234). -/
def fitCore (s : State) (core : Nat) (f : Foot) (j : Nat) : Option (List Nat) :=
  let n := f.onCore j
  if regsReserved s core + n * f.base + f.pool ≤ 4096 && scratchUsed s core + n * f.scratch + f.share ≤ 2 ^ 20 then
    pickParts (partUse s core) f.base n
  else none

/-- The partitions on each core of a list, where the whole block fits. (DEDUCED, log 73) -/
def fitCores (s : State) (cores : List Nat) (f : Foot) (j : Nat) : Option (List (List Nat)) :=
  match cores with
  | [] => some []
  | c :: r =>
    match fitCore s c f j, fitCores s r f (j + 1) with
    | some p, some q => some (p :: q)
    | _, _ => none

/-- The sets of `n` of a list's members, in order. -/
def chooseN {α : Type} (n : Nat) (l : List α) : List (List α) :=
  match n, l with
  | 0, _ => [[]]
  | _ + 1, [] => []
  | n + 1, x :: r => (chooseN n r).map (x :: ·) ++ chooseN (n + 1) r

/-- Free resident positions of cores. -/
def freePositions (s : State) (cores : List Nat) : Nat := cores.foldl (fun n c => n + (128 - (residents s c).length)) 0

/-- A context may place blocks on a core: it is usable and in its VF's set (R227, R243). -/
def coreOpen (s : State) (c : Ctx) (core : Nat) : Bool := coreUsable s core && (c.vf == 0 || (vfOf s c.vf).cores.contains core)

/-- The cores of a cluster that a context may use, of a set of logical cores, by physical number. -/
def clusterOwn (s : State) (c : Ctx) (cluster : Nat) (lset : List Nat) : List Nat :=
  ((List.range 4).map fun i => cluster * 4 + i).filter fun p =>
    coreOpen s c p && lset.any fun l => l < c.cores.length && nth c.cores l 0 == p

/-- The cores for a block, with the partitions of its groups: the fitting set with the most free positions, then the lower numbers (R234). -/
def bestCores (s : State) (c : Ctx) (cluster : Nat) (lset : List Nat) (f : Foot) : Option (List Nat × List (List Nat)) :=
  (chooseN f.bcores (clusterOwn s c cluster lset)).foldl (fun a cores =>
    match fitCores s cores f 0 with
    | none => a
    | some ps =>
      match a with
      | some b => if freePositions s b.1 < freePositions s cores then some (cores, ps) else a
      | none => some (cores, ps)) none

/-! Starting a block (R10, R76, R82, R221). -/

/-- The entry of a descriptor's kernel: bit 0 of a computed address is taken as 0 (R38, R142, R221; DEDUCED, log 124). -/
def Desc.entryPc (d : Desc) : W64 := (d.code + d.kr.entry) &&& ~~~1

/-- The footprint of a kernel record. -/
def KRec.foot (k : KRec) : Foot :=
  { groups := k.bgrp, w := k.width, base := k.vregs, pool := k.pool, scratch := k.scratch, shared := k.shared, tlines := k.tlines,
    tways := k.tways, bcores := k.bcores }

/-- A group that starts: one runnable fibre at the entry, every register 0 but the scalars given. -/
def newGroup (w base : Nat) (pc pred : W64) (scalars : List W64) (place : Place) (at_ : Nat) : Group :=
  { w := w, total := base, base := base, ext := [], gang := 0,
    regs := { vreg := [], sreg := SMap.setList [] 0 scalars, kreg := [], ring := [], hv := [] },
    fibres := [(0, newFibre pc pred 0)], cur := none, starved := [], frames := [], wait := none,
    eng := { pend := 0, reset := false, abort := false, sealed := false }, tc := 0, contrib := [], place := place,
    readyAt := at_, handler := none, frag := none }

/-- The lanes of group g of a block of T threads at entry (R10). -/
def entryPred (k : KRec) (g : Nat) : W64 :=
  if k.threads != 0 && g + 1 == k.bgrp then lanesOf (k.threads - k.width * g) else lanesOf k.width

/-- The scalars at group start (R221). -/
def Desc.scalars (d : Desc) (addr : W64) : List W64 := [d.arg0, d.arg1, d.arg2, addr]

/-- A block that starts. -/
def newBlock (ctx : Nat) (of : BlockOf) (pt : Nat × Nat × Nat) (slot : Option Nat) (f : Foot) (lcores : List Nat) : Block :=
  { ctx := ctx, of := of, pt := pt, slot := slot, foot := f, lcores := lcores,
    free := SMap.setList [] 0 (List.replicate f.bcores (BitVec.ofNat 16 f.pool)), bars := [], teams := [], shared := [], tlines := [],
    tags := [], priv := [], slots := [], bad := [], saved := false }

/-- The partition of group g. -/
def partOfGroup (ps : List (List Nat)) (bcores g : Nat) : Nat := nth (nth ps (g % bcores) []) (g / bcores) 0

/-- The logical cores of physical cores. -/
def logicalOf (c : Ctx) (cores : List Nat) : List Nat := cores.map fun p => c.cores.findIdx (· == p)

/-- Add groups to a state. -/
def addGroups (s : State) (l : List (Nat × Group)) : State :=
  match l with
  | [] => s
  | e :: r => addGroups { s with groups := Tbl.set s.groups e.1 e.2 } r

/-- Place a block with its groups, made by index from their places. -/
def startBlock (s : State) (b : Block) (cores : List Nat) (ps : List (List Nat)) (mk : Nat → Place → Group) : State :=
  let bsn := s.nextBsn
  let s := cores.foldl (fun s k => modCore (wakeCluster s k) k fun k => { k with spad := [] }) { s with blocks := Tbl.set s.blocks bsn b, nextBsn := bsn + 1 }
  addGroups s ((List.range b.foot.groups).map fun g =>
    (bsn * 256 + g, mk g { core := nth cores (g % b.foot.bcores) 0, part := partOfGroup ps b.foot.bcores g, slot := none }))

/-- Place a block that runs a launch descriptor. -/
def startDesc (s : State) (c : Ctx) (b : Block) (d : Desc) (addr : W64) (cores : List Nat) (ps : List (List Nat)) : State :=
  startBlock s { b with lcores := logicalOf c cores } cores ps fun g pl =>
    newGroup d.kr.width d.kr.vregs d.entryPc (entryPred d.kr g) (d.scalars addr) pl s.steps

end Sys2Proof.Machine
end

