-- ==== Sys2Proof/Machine/Blend.lean ====
section
/-! DEFINITION. Depth, stencil and blending of one sample (R208, R224, R299). -/

namespace Sys2Proof.Machine

/-! Depth and stencil. -/

/-- The compares, in the order of R208's list. -/
def cmpCode (code a b : Nat) : Bool :=
  (code % 2 == 1 && a < b) || (code / 2 % 2 == 1 && a == b) || (code / 4 % 2 == 1 && b < a)

/-- The stencil operations, in the order of R208's list. -/
def stencilOp (code old ref : Nat) : Nat :=
  match code with
  | 0 => old
  | 1 => 0
  | 2 => ref
  | 3 => min 255 (old + 1)
  | 4 => old - 1
  | 5 => 255 - old
  | 6 => (old + 1) % 256
  | _ => (old + 255) % 256

/-- Depth as 24-bit unorm: clamped to [0, 1], ties to even; free for a NaN (DESIGN CHOICE, log 2). -/
def depth24 (z : Nat) (s : State) : Nat × State :=
  if fmt32.isNan z then let r := freshNat s; (r.1 % 2 ^ 24, r.2)
  else if fmt32.neg z || fmt32.isZero z then (0, s)
  else if fOne ≤ z then (2 ^ 24 - 1, s)
  else ((Dy.mul (fmt32.value z) ⟨2 ^ 24 - 1, 0⟩).toInt .rne |>.toNat, s)

/-- The D24S8 word after the tests of a sample, and whether both passed (R208, R224). (DEDUCED, log 61) -/
def testSample (ds word z : Nat) : Nat × Bool :=
  let f := fun (lo n : Nat) => ds / 2 ^ lo % 2 ^ n
  let zd := word / 256
  let st := word % 256
  let ref := f 0 8
  let sen := f 26 1 == 1
  let upd := fun (op : Nat) => if sen then stencilOp op st ref else st
  if sen && !cmpCode (f 23 3) ref st then (zd * 256 + upd (f 20 3), false)
  else if !cmpCode (f 28 3) z zd then (zd * 256 + upd (f 17 3), false)
  else ((if f 27 1 == 1 then z else zd) * 256 + upd (f 14 3), true)

/-! Planes. -/

/-- Components of an export to a plane format: RAW32 and D24S8 one, RGBA8 four, RG16F two (R205, R299). -/
def planeCount (fmt : Nat) : Nat :=
  match fmt with
  | 1 => 4
  | 2 => 2
  | _ => 1

/-- A component as an 8-bit unorm: clamped, NaN 0, `.rna` (R299). (DEDUCED, log 59) -/
def unorm8 (c : Nat) : Nat :=
  if fmt32.isNan c || fmt32.neg c then 0
  else if fOne ≤ c then 255
  else ((Dy.mul (fmt32.value c) ⟨255, 0⟩).toInt .rna).toNat

/-- A plane word as FP32 components (R208). (DESIGN CHOICE, log 60) -/
def planeVals (fmt word : Nat) : List Nat :=
  match fmt with
  | 1 => (List.range 4).map fun i => fDiv (fInt (word / 256 ^ i % 256 : Nat)) (fInt 255)
  | _ => (List.range 2).map fun i => fmt16.convert fmt32 .rne (word / 65536 ^ i % 65536)

/-- Components as a plane word (R208, R299). -/
def planeWord (fmt : Nat) (l : List Nat) : Nat :=
  match fmt with
  | 1 => (List.range 4).foldl (fun w i => w + unorm8 (nth l i 0) * 256 ^ i) 0
  | 2 => (List.range 2).foldl (fun w i => w + fmt32.convert fmt16 .rne (nth l i 0) * 65536 ^ i) 0
  | _ => nth l 0 0

/-- A blend factor (R224). -/
def blendFactor (code sc dc sa da : Nat) : Nat :=
  match code with
  | 0 => 0
  | 1 => fOne
  | 2 => sc
  | 3 => fSub fOne sc
  | 4 => dc
  | 5 => fSub fOne dc
  | 6 => sa
  | 7 => fSub fOne sa
  | 8 => da
  | _ => fSub fOne da

/-- One component blended: source × factor ⊕ destination × factor (R208, R224). -/
def blendComp (bl sc dc sa da : Nat) : Nat :=
  let x := fMul sc (blendFactor (bl / 256 % 16) sc dc sa da)
  let y := fMul dc (blendFactor (bl / 16 % 16) sc dc sa da)
  match bl / 4096 % 8 with
  | 0 => fAdd x y
  | 1 => fSub x y
  | 2 => fSub y x
  | 3 => fmt32.min sc dc
  | _ => fmt32.max sc dc

/-- The alphas of source and destination; a format without alpha has none, so they are free (DESIGN CHOICE, log 2). -/
def alphas (fmt : Nat) (src dst : List Nat) (s : State) : (Nat × Nat) × State :=
  if fmt == 1 then ((nth src 3 0, nth dst 3 0), s)
  else
    let a := freshNat s
    let b := freshNat a.2
    ((a.1 % 2 ^ 32, b.1 % 2 ^ 32), b.2)

/-- The plane word that a sample's export leaves (R208, R299). -/
def blendWord (fmt bl : Nat) (src : List Nat) (word : Nat) (s : State) : Nat × State :=
  if bl / 2 ^ 15 % 2 == 0 || (fmt != 1 && fmt != 2) then (planeWord fmt src, s)
  else
    let dst := planeVals fmt word
    let a := alphas fmt src dst s
    (planeWord fmt ((List.range (planeCount fmt)).map fun i => blendComp bl (nth src i 0) (nth dst i 0) a.1.1 a.1.2), a.2)

/-! Tile buffers (R205, R213). -/

/-- A word of a tile. -/
def tileWord (p : PassSt) (tile a : Nat) : Nat := (SMap.get ((Tbl.get? p.bufs tile).getD []) a).toNat
/-- The word of 64 bits of a tile's buffer with a tile address holds a double-bit error (R158). -/
def tileBad (p : PassSt) (tile a : Nat) : Bool := p.bad.contains (tile, a / 2)

/-- Put a word of a tile. -/
def putTile (p : PassSt) (tile a v : Nat) : PassSt :=
  { p with bad := p.bad.filter (· != (tile, a / 2)), bufs := Tbl.set p.bufs tile (SMap.set ((Tbl.get? p.bufs tile).getD []) a (BitVec.ofNat 32 v)) }
/-- A pixel of a tile is touched (R291). -/
def touchPix (p : PassSt) (tile pix : Nat) : PassSt :=
  { p with touched := Tbl.set p.touched tile (SMap.set ((Tbl.get? p.touched tile).getD []) pix 1) }
/-- Change a pass. -/
def modPass (s : State) (pid : Nat) (f : PassSt → PassSt) : State := { s with passes := Tbl.modify s.passes pid f }

/-- The tile address of a sample of a pixel in a plane. -/
def tileAddr (pix sample plane : Nat) : Nat := pix + 4096 * sample + 16384 * plane

/-- The D24S8 plane of a pass. -/
def depthPlane (h : PassHdr) : Option Nat := (List.range h.npl).find? fun n => planeFmt h n == 3

/-- Test and update depth and stencil of a sample (R208): true where both pass, or the pass has no such plane. -/
def depthStage (s : State) (pid : Nat) (h : PassHdr) (tile pix sample ds z : Nat) : Bool × State :=
  match depthPlane h, Tbl.get? s.passes pid with
  | some pl, some p =>
    let zz := depth24 z s
    let a := tileAddr pix sample pl
    let r := testSample ds (tileWord p tile a) zz.1
    (r.2, modPass zz.2 pid fun p => touchPix (putTile p tile a r.1) tile pix)
  | _, _ => (true, s)

/-- Blend each staged plane of a sample. -/
def blendStage (s : State) (pid : Nat) (h : PassHdr) (tile pix sample : Nat) (bl : List Half) (l : List (Nat × List W32)) : State :=
  match l with
  | [] => s
  | e :: r =>
    match Tbl.get? s.passes pid with
    | none => s
    | some p =>
      let a := tileAddr pix sample e.1
      let w := blendWord (planeFmt h e.1) (nth bl e.1 0).toNat (e.2.map (·.toNat)) (tileWord p tile a) s
      blendStage (modPass w.2 pid fun p => touchPix (putTile p tile a w.1) tile pix) pid h tile pix sample bl r

end Sys2Proof.Machine
end

