-- ==== Sys2Proof/Machine/TileBuf.lean ====
section
/-! DEFINITION. The tile buffer instructions, exports and commits (R208, R213 to R216, R299). -/

namespace Sys2Proof.Machine

/-- The pass, item and tile of a fragment group or a tile dispatch group. -/
def tileHome (s : State) (h : Here) : Option (Nat × Nat × Nat) :=
  match h.g.frag with
  | some f => some (f.pass, f.item, f.tile)
  | none => dispatchOf s h.gid

/-- A tile address names a sample and a plane of a pass (R213). -/
def tileAddrOk (h : PassHdr) (a : Nat) : Bool := a < 65536 && a / 4096 % 4 < h.samp && a / 16384 < h.npl

/-- The active lanes of a list by their tile addresses: those that may go on, and those that raise scratch-range (R213). -/
def tileLanes (s : State) (h : Here) (addr : Nat → Nat) (lanes : List Nat) : List Nat × List LaneBad :=
  let hd := (tileHome s h).bind fun t => passHdr s t.1
  let ok := fun (l : Nat) => match hd with | some d => tileAddrOk d (addr l) | none => false
  (lanes.filter ok, (lanes.filter fun l => !ok l).map fun l => ⟨l, 0x020, 0, addr l⟩)

/-- A lane's tile address. -/
def tbAddr (s : State) (h : Here) (f : UFmt) (l : Nat) : Nat :=
  if readsFragment f.pfx then fragElem s h (fragOf f.pfx).1 (fragOf f.pfx).2 l else selLane h f.pfx .n32 f.a l

/-- A tile address names a word with a double-bit error (R158). -/
def tileWordBad (s : State) (h : Here) (a : Nat) : Bool :=
  match tileHome s h with
  | none => false
  | some t => (match Tbl.get? s.passes t.1 with | some p => tileBad p t.2.2 a | none => false)

/-- Of lanes that read the tile buffer, those that go on, and those that take uncorrectable-error (R158). -/
def tileReads (s : State) (h : Here) (addr : Nat → Nat) (lanes : List Nat) : List Nat × List LaneBad :=
  (lanes.filter fun l => !tileWordBad s h (addr l), (lanes.filter fun l => tileWordBad s h (addr l)).map fun l => ⟨l, 0x025, 2, addr l⟩)

/-- The failing lanes of two lists, in lane order. -/
def mergeBads (a b : List LaneBad) : List LaneBad :=
  (List.range 64).flatMap fun l => (a ++ b).filter fun x => x.lane == l

/-- The shared frame of `tb.ld` and `tb.st`: A, or the fragment that AF names, gives each lane's tile address (R50, R51, R213); the lanes of a form that
`reads` test the words (R158). (DEDUCED, log 28) -/
def tbRun (spec : LaneSpec) (reads : Bool) (f : UFmt) (k : State → Here → (Nat → Nat) → List Nat → Option State) (s : State) : Out :=
  let len := lenOf f.pfx
  let msk := mskOf f.pfx
  issue s fun h =>
    let n := (if readsFragment f.pfx then {} else nameSel h f.pfx false f.a).and (nameVd h false f.vd)
    checked s h (uCauses spec f) true msk len
      (if outOfWindow h n then raiseA s h msk len 0x002 0
       else if badLatch h n then raiseA s h msk len 0x003 0
       else withFragment s h f.pfx msk len fun s => withRegs s h n fun s h =>
        let addr := tbAddr s h f
        let r := tileLanes s h addr (laneList (h.act msk))
        let x := if reads then tileReads s h addr r.1 else (r.1, [])
        match k s h addr x.1 with
        | some s => parkBads s h len (mergeBads r.2 x.2)
        | none => s)

/-- A fragment lane's load of a sample that it covers waits for earlier primitives (R215). -/
def tbLdDue (s : State) (h : Here) (addr : Nat → Nat) (lanes : List Nat) : Bool :=
  match h.g.frag with
  | none => false
  | some f => lanes.any fun l =>
      let a := addr l
      (SMap.get f.pix l).toNat == a % 4096 && (SMap.get f.cover l).getLsbD (a / 4096 % 4)
        && sampleDue s f.pass f.tile (f.item, f.prim) (a % 4096) (a / 4096 % 4)

/-- `tb.ld` (R213, R215). -/
def execTbLd (f : UFmt) (s : State) : Out :=
  tbRun tbLdSpec true f (fun s h addr lanes =>
    if tbLdDue s h addr lanes then none
    else
      let reg := h.f.wb * 8 + f.vd.toNat
      let word := fun (l : Nat) =>
        match tileHome s h with
        | some t => (match Tbl.get? s.passes t.1 with | some p => tileWord p t.2.2 (addr l) | none => 0)
        | none => 0
      some (modGroup s h.gid fun g =>
        zeroDisabled (lanes.foldl (fun g l => setVreg g reg l (BitVec.ofNat 32 (word l))) g) false reg (h.act (mskOf f.pfx)) (zroOf f.pfx))) s

/-- `tb.st`: the highest lane's value remains where lanes name one word (R213, R214). -/
def execTbSt (f : UFmt) (s : State) : Out :=
  tbRun tbStSpec false f (fun s h addr lanes =>
    match tileHome s h with
    | none => some s
    | some t =>
      some (modPass s t.1 fun p =>
        lanes.foldl (fun p l =>
          touchPix (putTile p t.2.2 (addr l) (getVreg h.g (h.f.wb * 8 + f.vd.toNat) l).toNat) t.2.2 (addr l % 4096)) p)) s

/-- `tb.fence`; a group outside a pass has no tile, and every active lane faults (R213, R216). -/
def execTbFence (f : UFmt) (s : State) : Out :=
  let len := lenOf f.pfx
  issue s fun h =>
    checked s h (tbFenceCauses f) true (mskOf f.pfx) len
      (if (tileHome s h).isNone then raiseA s h (mskOf f.pfx) len 0x020 0
       else if fenceDue s h.gid h.g then beginWait s h.gid { kind := .tbFence, fib := h.fid, len := len, dst := none }
       else h.advance s len)

/-! Export (R299). -/

/-- Where a lane's staged component lies. -/
def stageKey (lane plane c : Nat) : Nat := 32 * lane + 4 * plane + c

/-- Stage an export of a lane: depth, or a plane's components, in place of an earlier one. -/
def stageLane (g : Group) (f : FragInfo) (reg lane pl : Nat) (dep : Bool) (n : Nat) : FragInfo :=
  let old := (SMap.get f.staged lane).toNat
  if dep then
    { f with stage := SMap.set f.stage (32 * lane + 16) (getVreg g reg lane), staged := SMap.set f.staged lane (BitVec.ofNat 8 (old ||| 16)) }
  else
    { f with stage := (List.range n).foldl (fun m c => SMap.set m (stageKey lane pl c) (getVreg g (reg + c) lane)) f.stage,
             staged := SMap.set f.staged lane (BitVec.ofNat 8 (old ||| 2 ^ pl)) }

/-- The planes a lane has staged, with their components. -/
def stagedPlanes (f : FragInfo) (h : PassHdr) (lane : Nat) : List (Nat × List W32) :=
  ((List.range h.npl).filter fun p => (SMap.get f.staged lane).getLsbD p).map fun p =>
    (p, (List.range (planeCount (planeFmt h p))).map fun c => SMap.get f.stage (stageKey lane p c))

/-- The samples of a lane that a LAST export commits. -/
def lastSamples (f : FragInfo) (lane smsk : Nat) : List Nat :=
  (List.range 4).filter fun k => (SMap.get f.cover lane).getLsbD k && (smsk == 0 || smsk.testBit k)

/-- The commits of a lane's LAST export: with the staged depth, or the interpolated one. -/
def lastCommits (gid : Nat) (f : FragInfo) (h : PassHdr) (reg lane smsk : Nat) : List Commit :=
  (lastSamples f lane smsk).map fun k =>
    { gid := gid, lane := lane, item := f.item, prim := f.prim, tile := f.tile, pix := (SMap.get f.pix lane).toNat, sample := k,
      early := f.early,
      depth := if (SMap.get f.staged lane).getLsbD 4 && !f.early then SMap.get f.stage (32 * lane + 16) else SMap.get f.zval (4 * lane + k),
      planes := stagedPlanes f h lane, reg := reg }

/-- A lane's staging is cleared, and nothing of its commit has passed yet. -/
def clearStage (f : FragInfo) (reg lane : Nat) : FragInfo :=
  { f with staged := SMap.set f.staged lane 0, passed := SMap.set f.passed (256 * lane + reg) 0 }

/-- Change a group's fragment fields. -/
def modFrag (s : State) (gid : Nat) (k : FragInfo → FragInfo) : State := modGroup s gid fun g => { g with frag := g.frag.map k }

/-- A lane's LAST export: its commits are due, or, where it has none, its result is written (R299). -/
def exportLast (s : State) (h : Here) (hd : PassHdr) (pid reg smsk lane : Nat) : State :=
  match Tbl.get? s.groups h.gid with
  | none => s
  | some g =>
    match g.frag with
    | none => s
    | some f =>
      let l := lastCommits h.gid f hd reg lane smsk
      let s := modFrag s h.gid fun f => clearStage f reg lane
      if l.isEmpty then modGroup s h.gid fun g => setVreg g reg lane 0
      else modPass s pid fun p => { p with commits := p.commits ++ l }

/-- `pix.exp` (R296, R299). (DEDUCED, log 62) -/
def execPixExp (f : UFmt) (s : State) : Out :=
  pixRun (pixCauses pixESpec f) f 4 (fun s h reg =>
    let len := lenOf f.pfx
    let w := (uniVal h.g f.pfx f.a).toNat
    let pl := w % 4
    let dep := w / 64 % 2 == 1
    if 256 ≤ w then raiseP s h len 0x006 0
    else
      match h.g.frag with
      | none => raiseP s h len 0x020 0
      | some fr =>
        match passHdr s fr.pass with
        | none => s
        | some hd =>
          if hd.npl ≤ pl || dep != (planeFmt hd pl == 3) then raiseP s h len 0x006 0
          else
            let lanes := laneList (h.act (mskOf f.pfx) &&& ~~~fr.helper)
            let s := modFrag s h.gid fun x => lanes.foldl (fun x l => stageLane h.g x reg l pl dep (planeCount (planeFmt hd pl))) x
            h.advance (if w / 128 % 2 == 1 then lanes.foldl (fun s l => exportLast s h hd fr.pass reg (w / 4 % 16) l) s else s) len) s

/-! Commits (R208). -/

/-- A commit may be made: no earlier primitive has one to make at its sample, no earlier dispatch runs on its tile (R208, R215), and no earlier
export of its own lane is before it. -/
def commitReady (s : State) (pid : Nat) (p : PassSt) (k : Nat) (c : Commit) : Bool :=
  !sampleDue s pid c.tile (c.item, c.prim) c.pix c.sample && !dispatchDue s pid c.tile c.item
    && !(p.commits.take k).any fun e => e.tile == c.tile && e.pix == c.pix && e.sample == c.sample && e.item == c.item && e.prim == c.prim

/-- A commit is made: its lane's register receives the samples that passed once its last one is (R299). -/
def commitDone (s : State) (pid : Nat) (c : Commit) (ok : Bool) : State :=
  let key := 256 * c.lane + c.reg
  let s := if ok then
      modFrag s c.gid fun f => { f with passed := SMap.set f.passed key (SMap.get f.passed key ||| BitVec.ofNat 8 (2 ^ c.sample)) }
    else s
  let more := match Tbl.get? s.passes pid with
    | some p => p.commits.any fun e => e.gid == c.gid && e.lane == c.lane && e.reg == c.reg
    | none => false
  if more then s
  else modGroup s c.gid fun g =>
    match g.frag with
    | some f => setVreg g c.reg c.lane ((SMap.get f.passed key).zeroExtend 32)
    | none => g

/-- Commit one sample of a pass (R208). -/
def sampleCommit (s : State) (pid k : Nat) : State :=
  match Tbl.get? s.passes pid, passHdr s pid with
  | some p, some h =>
    match p.commits[k]? with
    | none => s
    | some c =>
      if !commitReady s pid p k c then s
      else
        match p.taken[c.item]? with
        | some (.draw d) =>
          let s := modPass s pid fun p => touchPix { p with commits := removeAt p.commits k } c.tile c.pix
          let r := if c.early then (true, s) else depthStage s pid h c.tile c.pix c.sample d.ds.toNat c.depth.toNat
          let s := if r.1 then blendStage r.2 pid h c.tile c.pix c.sample d.bl (c.planes.filter fun e => planeFmt h e.1 != 3) else r.2
          checkFences (commitDone s pid c r.1)
        | _ => s
  | _, _ => s

/-- A sample commits (R208). -/
def execSampleCommit (pass k : Nat) (s : State) : Out := .next (checkLadders (sampleCommit s pass k))

end Sys2Proof.Machine
end

