-- ==== Sys2Proof/Machine/Raster.lean ====
section
/-! DEFINITION. Primitives, their samples and their bins (R206, R207). -/

namespace Sys2Proof.Machine

/-! Coverage (R206). -/

/-- A point of the screen, in units of 2⁻¹⁴⁹ pixels, in which every finite FP32 coordinate is whole. -/
abbrev Pt := Int × Int

/-- Coordinates in eighths of a pixel as a point. -/
def ptEighths (x y : Int) : Pt := (x * 2 ^ 146, y * 2 ^ 146)

/-- The position of sample `k` in its pixel, in eighths of a pixel from the top-left corner (R206). -/
def samplePos (samp k : Nat) : Int × Int :=
  match samp with
  | 1 => (4, 4)
  | 2 => nth [(6, 6), (2, 2)] k (4, 4)
  | _ => nth [(3, 1), (7, 3), (1, 5), (5, 7)] k (4, 4)

/-- Twice the signed area of a, b and p: positive where p lies to the right of the edge from a to b, rows going down. -/
def edgeFn (a b p : Pt) : Int := (b.1 - a.1) * (p.2 - a.2) - (b.2 - a.2) * (p.1 - a.1)

/-- An edge of a triangle that keeps its inside to the right is a top or a left edge. -/
def topLeft (a b : Pt) : Bool := b.2 < a.2 || (a.2 == b.2 && a.1 < b.1)

/-- A position lies inside an edge; on it only where the edge is a top or a left edge (R206). -/
def insideEdge (a b p : Pt) : Bool := 0 < edgeFn a b p || (edgeFn a b p == 0 && topLeft a b)

/-- A triangle's vertices in the order that keeps its inside to the right of its edges. -/
def orient (t : Pt × Pt × Pt) : Pt × Pt × Pt := if edgeFn t.1 t.2.1 t.2.2 < 0 then (t.1, t.2.2, t.2.1) else t

/-- A position lies inside all three edges (R206). -/
def insideTri (t : Pt × Pt × Pt) (p : Pt) : Bool :=
  let o := orient t
  insideEdge o.1 o.2.1 p && insideEdge o.2.1 o.2.2 p && insideEdge o.2.2 o.1 p

/-! Primitives (R207). -/

/-- Where a vertex stands on the screen; the layout of what vertex work writes, and the way from a clip position to the screen, are not given, so the
place is free, one for a draw's vertex (DESIGN CHOICE, log 55). -/
def vertexAt (seed i : Nat) : Pt := (Config.vertexPos seed i false, Config.vertexPos seed i true)

/-- A primitive's triangle. -/
def Bin.tri (b : Bin) (prim : Nat) : Pt × Pt × Pt :=
  let v := nth b.prims prim (0, 0, 0)
  (vertexAt b.seed v.1, vertexAt b.seed v.2.1, vertexAt b.seed v.2.2)

/-- The top-left corner of a pixel of a tile, in eighths. -/
def pixCorner (h : PassHdr) (tile pix : Nat) : Int × Int :=
  (8 * (64 * (tile % h.tx) + pix % 64 : Nat), 8 * (64 * (tile / h.tx) + pix / 64 : Nat))

/-- The bounding box of what clipping leaves of a primitive touches a tile: it lies in that of the triangle. -/
def touchesTile (h : PassHdr) (b : Bin) (prim tile : Nat) : Bool :=
  let t := b.tri prim
  let k := Config.clipBox b.seed prim
  let c := pixCorner h tile 0
  let lo := ptEighths c.1 c.2
  let hi := ptEighths (c.1 + 512) (c.2 + 512)
  max (k false false) (min t.1.1 (min t.2.1.1 t.2.2.1)) ≤ hi.1 && lo.1 ≤ min (k true false) (max t.1.1 (max t.2.1.1 t.2.2.1))
    && max (k false true) (min t.1.2 (min t.2.1.2 t.2.2.2)) ≤ hi.2 && lo.2 ≤ min (k true true) (max t.1.2 (max t.2.1.2 t.2.2.2))

/-- A primitive's index goes to a tile's bin: clipping leaves something of it, and its bounding box touches the tile (R207). -/
def inBin (h : PassHdr) (b : Bin) (prim tile : Nat) : Bool := !Config.clipGone b.seed prim && touchesTile h b prim tile

/-- The tiles whose bins a primitive's index goes to. -/
def binTiles (h : PassHdr) (b : Bin) (prim : Nat) : List Nat := (List.range (h.tx * h.ty)).filter fun t => inBin h b prim t

/-- A primitive covers a sample: the bin of the tile holds it, clipping leaves the sample, and it lies inside (R206, R207). -/
def coversAt (h : PassHdr) (b : Bin) (prim tile pix k : Nat) : Bool :=
  let c := pixCorner h tile pix
  let o := samplePos h.samp k
  inBin h b prim tile && Config.clipKeeps b.seed prim (c.1 + o.1) (c.2 + o.2) && insideTri (b.tri prim) (ptEighths (c.1 + o.1) (c.2 + o.2))

/-- The pixel of lane position j of a quad. -/
def quadPix (quad j : Nat) : Nat := (j % 2 + 2 * (quad % 32)) + 64 * (j / 2 + 2 * (quad / 32))

/-- The samples of a quad that a primitive covers: bit j × SAMP + k for sample k of lane position j. -/
def quadCover (h : PassHdr) (b : Bin) (prim tile quad : Nat) : Nat :=
  ((List.range (4 * h.samp)).filter fun i => coversAt h b prim tile (quadPix quad (i / h.samp)) (i % h.samp)).foldl (fun n i => n + 2 ^ i) 0

/-- The quads of a primitive that a fragment group holds: the first `n` with a covered sample from quad `q` on. -/
def rasterQuads (h : PassHdr) (b : Bin) (prim tile q n : Nat) : List (Nat × Nat) :=
  (((List.range (1024 - q)).map fun i => (q + i, quadCover h b prim tile (q + i))).filter fun e => e.2 != 0).take n

/-- A ratio as FP32. -/
def ratio32 (a b : Int) : W32 :=
  BitVec.ofNat 32 (if a = 0 then 0 else fmt32.quot .rne (decide (a < 0) != decide (b < 0)) a.natAbs 0 b.natAbs 0)

/-- The barycentric weight of vertex `v` at a pixel's centre: the area of the triangle that the centre makes with the other two, over the whole
(R207; DESIGN CHOICE, log 55). -/
def weightAt (h : PassHdr) (b : Bin) (prim tile pix v : Nat) : W32 :=
  let t := b.tri prim
  let c := pixCorner h tile pix
  let p := ptEighths (c.1 + 4) (c.2 + 4)
  ratio32 (match v with | 0 => edgeFn t.2.1 t.2.2 p | 1 => edgeFn t.2.2 t.1 p | _ => edgeFn t.1 t.2.1 p) (edgeFn t.1 t.2.1 t.2.2)

/-! Binning (R207). -/

/-- An engine writes bytes with a context's translation, at most `fuel` translations; a peer page takes none (DESIGN CHOICE, log 20), nor a frame
of an output surface (R288). -/
def frontWrite (s : State) (cid : Nat) (c : Ctx) (va : Nat) (bs : List Byte) (fuel : Nat) : Take State :=
  match fuel with
  | 0 => .ok s
  | k + 1 =>
    match fill s cid c va true false with
    | .fault _ _ => .refuse 8
    | .wait _ => .wait
    | .ok e =>
      let p := partOf e va 0 bs.length
      match p.space with
      | .peer _ => .refuse 8
      | sp =>
        if sp == .loc && outputFrame s p.pa then .refuse 8
        else
        let s := writeFor s cid sp p.pa p.vpa (bs.take p.n)
        if bs.length ≤ p.n then .ok s else frontWrite s cid c (va + p.n) (bs.drop p.n) k

/-- A primitive's index is appended to the bins of a list of tiles, each at a free place of the bin area, whose layout is not given; none where a
frame is absent, and nothing written where the area cannot be. (DESIGN CHOICE, log 20) -/
def appendBins (s : State) (cid : Nat) (c : Ctx) (h : PassHdr) (prim : Nat) (l : List Nat) : Option State :=
  match l with
  | [] => some s
  | _ :: r =>
    if h.binsz < 4 then some s
    else
      let f := freshNat s
      match frontWrite f.2 cid c (h.bin.toNat + 4 * (f.1 % (h.binsz / 4))) (natLE 4 prim) 2 with
      | .wait => none
      | .refuse _ => appendBins f.2 cid c h prim r
      | .ok s => appendBins s cid c h prim r

/-- Three indices of a draw; free where its index buffer cannot be read (DESIGN CHOICE, log 134); none where a frame is absent. -/
def readIndices (s : State) (cid : Nat) (c : Ctx) (va : Nat) : Option ((Nat × Nat × Nat) × State) :=
  match frontBytes s cid c va 12 2 with
  | .wait => none
  | .ok bs => some ((fld bs 0 4, fld bs 4 4, fld bs 8 4), touchFront s cid c va 12 2)
  | .refuse _ =>
    let a := freshNat s
    let b := freshNat a.2
    let d := freshNat b.2
    some ((a.1 % 2 ^ 32, b.1 % 2 ^ 32, d.1 % 2 ^ 32), d.2)

/-- The bins of a draw, with a seed of its own before its first primitive. -/
def binOf (s : State) (p : PassSt) (item : Nat) : Bin × State :=
  match Tbl.get? p.bins item with
  | some b => (b, s)
  | none => let f := freshNat s; ({ seed := f.1, prims := [] }, f.2)

/-- A tile has come up to what is binned of a draw, and nothing of it is still running. -/
def caughtUp (s : State) (pid : Nat) (p : PassSt) (item prim tile : Nat) : Bool :=
  p.stored.contains tile || (!primLt ((tilePos p tile).1, (tilePos p tile).2.1) (item, prim) && !tileBusy s pid p tile)

/-- The front-end assembles and bins the next primitive of a draw (R207); after an overflow only once every tile has come up to what is binned. -/
def binPrim (s : State) (pid : Nat) (p : PassSt) (h : PassHdr) (c : Ctx) (item : Nat) (d : Draw) : State :=
  let b := binOf s p item
  let k := b.1.prims.length
  if d.nprim ≤ k || (p.binFull && !(List.range (h.tx * h.ty)).all fun t => caughtUp s pid p item k t) then s
  else
    match readIndices b.2 p.ctx c (d.ib.toNat + 12 * k) with
    | none => s
    | some r =>
      let bin := { b.1 with prims := b.1.prims ++ [r.1] }
      match appendBins r.2 p.ctx c h k (binTiles h bin k) with
      | none => s
      | some s => modPass s pid fun p => { p with bins := Tbl.set p.bins item bin, binFull := false }

end Sys2Proof.Machine
end

