-- ==== Sys2Proof/Machine/Pass.lean ====
section
/-! DEFINITION. The items, tiles and stores of a pass (R205 to R209, R215, R217, R223, R224, R290, R291). -/

namespace Sys2Proof.Machine

/-! Items (R224). -/

/-- A refused item: the slot stops, and an event of class 4 tells the host (R226). -/
def refuseSlot (s : State) (slot err : Nat) : State :=
  let cid := (slotOf s slot).ctx
  openEvent (modSlot s slot fun q => { q with st := 3, err := err }) cid 4 err

/-- The refusal of a draw's blend and depth words (R224, R226). (DEDUCED, log 57) (DEDUCED, log 58) -/
def drawErr (h : PassHdr) (bs : List Byte) : Option Nat :=
  let bl := (List.range 4).map fun i => fld bs (24 + 2 * i) 2
  firstErr
    [(!zeroBytes bs 1 23, 1), (fld bs 32 4 / 2 ^ 8 % 64 != 0, 1), (bl.any fun b => b % 16 != 0, 1),
     (bl.any fun b => 5 ≤ b / 4096 % 8 || 10 ≤ b / 256 % 16 || 10 ≤ b / 16 % 16, 7),
     ((List.range h.npl).any fun i => nth bl i 0 / 2 ^ 15 == 1 && (planeFmt h i == 0 || planeFmt h i == 3), 7),
     (fld bs 36 4 < 1 || 2 ^ 24 < fld bs 36 4, 7)]

/-- An item as the pass takes it, with the object of the launch it begins. (DESIGN CHOICE, log 33) -/
def takeItem (s : State) (cid : Nat) (c : Ctx) (h : PassHdr) (va : Nat) : Take (PassItem × Option ObjRef) :=
  (frontRead s cid c va 1).bind fun bs =>
    match fld bs 0 1 with
    | 1 =>
      match drawErr h bs with
      | some e => .refuse e
      | none =>
        (takeDesc s cid c (fld bs 56 8) .fragment fun _ => []).bind fun f =>
          (takeDesc s cid c (fld bs 48 8) .launch fun _ => []).bind fun v =>
            (objRefOf s cid c (fld v.1 80 8)).bind fun o =>
              .ok (.draw { fk := f.2, fkAddr := BitVec.ofNat 64 (fld bs 56 8), vk := v.2, vkAddr := BitVec.ofNat 64 (fld bs 48 8),
                           ib := BitVec.ofNat 64 (fld bs 40 8), nprim := fld bs 36 4, ds := BitVec.ofNat 32 (fld bs 32 4),
                           bl := (List.range 4).map fun i => BitVec.ofNat 16 (fld bs (24 + 2 * i) 2) }, o)
    | 2 =>
      if !zeroBytes bs 1 55 then .refuse 1
      else
        (takeDesc s cid c (fld bs 56 8) .tiles fun d => [(d.kr.bcores != 1 || !d.kr.dep.isEmpty, 7)]).bind fun d =>
            (objRefOf s cid c (fld d.1 80 8)).bind fun o =>
              .ok (.disp { d.2 with kr := { d.2.kr with ndim := 2, ext := (h.tx, h.ty, 1) } } (BitVec.ofNat 64 (fld bs 56 8)), o)
    | _ => .refuse 1

/-- What the front-end read of memory for an item at an address (R276). -/
def PassItem.reads (i : PassItem) (va : Nat) : List (Nat × Nat) :=
  match i with
  | .draw d => [(va, 64), (d.fkAddr.toNat, 128), (d.vkAddr.toNat, 128)]
  | .disp _ a => [(va, 64), (a.toNat, 128)]

/-- The launch that an item begins: a draw's vertex work, or a dispatch with a point for each tile (R207, R215). (DEDUCED, log 56) -/
def itemLaunch (cid slot pid n : Nat) (i : PassItem) (o : Option ObjRef) : Launch :=
  match i with
  | .draw d => newLaunch cid slot pid n d.vk d.vkAddr o []
  | .disp d a => { newLaunch cid slot pid n d a o [] with tiled := true }

/-- A pass takes its next item (R224); one that it refused waits for the restart of its slot (R226). -/
def passItemTake (s : State) (pid : Nat) : State :=
  match Tbl.get? s.passes pid, passHdr s pid, Tbl.get? s.recs pid with
  | some p, some h, some r =>
    match Tbl.get? s.ctxs p.ctx with
    | none => s
    | some c =>
      let n := p.taken.length
      if h.nitem ≤ n || p.refused || !mayStart s p.ctx c then s
      else
        match takeItem s p.ctx c h (h.items.toNat + 64 * n) with
        | .wait => s
        | .refuse e => refuseSlot (modPass s pid fun p => { p with refused := true }) r.slot e
        | .ok (i, o) =>
          let s := touchReads s p.ctx c (i.reads (h.items.toNat + 64 * n))
          beginLaunch (modPass s pid fun p => { p with taken := p.taken ++ [i] }) (itemLaunch p.ctx r.slot pid n i o)
  | _, _, _ => s

/-- A pass takes its next item (R224). -/
def execPassItemTake (pass : Nat) (s : State) : Out := .next (passItemTake s pass)

/-! Tiles (R205, R290). -/

/-- The logical cores of a pass, in core order. -/
def PassHdr.coreSet (h : PassHdr) : List Nat := (List.range 48).filter fun n => h.cset.getLsbD n
/-- The logical core of a tile (R205). -/
def PassHdr.tileCore (h : PassHdr) (tile : Nat) : Nat := nth h.coreSet (tile % h.coreSet.length) 0

/-- ST of a surface table entry (R290). -/
def tabSt (e : BitVec 128) : Bool := e.getLsbD 15
/-- LD. -/
def tabLd (e : BitVec 128) : Bool := e.getLsbD 14
/-- SID. -/
def tabSid (e : BitVec 128) : Nat := (e.extractLsb' 0 12).toNat
/-- CLR. -/
def tabClr (e : BitVec 128) : W32 := e.extractLsb' 96 32

/-- The surface pixel of a pixel of a tile (R290, R291). -/
def tabPixel (e : BitVec 128) (h : PassHdr) (tile pix : Nat) : Int × Int :=
  ((e.extractLsb' 64 16).toInt + 64 * (tile % h.tx : Nat) + (pix % 64 : Nat), (e.extractLsb' 80 16).toInt + 64 * (tile / h.tx : Nat) + (pix / 64 : Nat))

/-- A surface pixel lies inside. -/
def inSurface (a : SurfArgs) (q : Int × Int) : Bool := 0 ≤ q.1 && q.1 < a.w && 0 ≤ q.2 && q.2 < a.h

/-- The VPA of a surface pixel of 4 bytes. -/
def surfVpa (a : SurfArgs) (q : Int × Int) : Nat := a.base + q.2.toNat * a.pitch + q.1.toNat * 4

/-- The frame map entry of a surface pixel's frame, in the surface's VF (R291). -/
def surfFrame (s : State) (a : SurfArgs) (q : Int × Int) : Nat × Nat := frameEntry s a.vf (surfVpa a q / 32768)

/-- The physical address of a surface pixel. -/
def surfPa (s : State) (a : SurfArgs) (q : Int × Int) : Nat := (surfFrame s a q).2 * 32768 + surfVpa a q % 32768

/-- The surface of a plane, where its pixels have 4 bytes. (DEDUCED, log 66) -/
def loadSurf (s : State) (e : BitVec 128) : Option SurfArgs :=
  match Tbl.get? s.pix.surfs (tabSid e) with
  | some sf => if texelBytes sf.a.fmt == 4 then some sf.a else none
  | none => none

/-- The word that a pixel of a plane starts with (R290); CLR where its frame holds nothing. -/
def startWord (s : State) (h : PassHdr) (e : BitVec 128) (tile pix : Nat) : W32 :=
  if !tabLd e then tabClr e
  else
    match loadSurf s e with
    | none => tabClr e
    | some a =>
      let q := tabPixel e h tile pix
      if inSurface a q && (surfFrame s a q).1 == 1 then BitVec.ofNat 32 (rdNat s.mem.loc (surfPa s a q) 4) else tabClr e

/-- A frame that a tile loads is paged out or in transit. -/
def loadWaits (s : State) (h : PassHdr) (tab : List (BitVec 128)) (tile : Nat) : Bool :=
  (List.range h.npl).any fun p =>
    let e := nth tab p 0
    tabLd e && (match loadSurf s e with
      | none => false
      | some a => (List.range 4096).any fun pix =>
          let q := tabPixel e h tile pix
          inSurface a q && (surfFrame s a q).1 != 0 && (surfFrame s a q).1 != 1)

/-- A tile's buffer as it starts. (DEDUCED, log 67) -/
def startTile (s : State) (h : PassHdr) (tab : List (BitVec 128)) (tile : Nat) : SMap 32 :=
  (List.range (16384 * h.npl)).filterMap fun k =>
    let w := startWord s h (nth tab (k / 16384) 0) tile (k % 4096)
    if k / 4096 % 4 < h.samp && w != 0 then some (k, w) else none

/-- The pixels of a tile whose words its planes were loaded with: their lines, and the age of their frames (R8, R276). -/
def touchTile (s : State) (h : PassHdr) (tab : List (BitVec 128)) (tile : Nat) : State :=
  (List.range (4096 * h.npl)).foldl (fun s k =>
    let e := nth tab (k / 4096) 0
    match (if tabLd e then loadSurf s e else none) with
    | none => s
    | some a =>
      let q := tabPixel e h tile (k % 4096)
      if inSurface a q && (surfFrame s a q).1 == 1 then touchLoc s (surfPa s a q) 4 (potEntry s (surfPa s a q / 32768)).world false else s) s

/-- The address of a tile's buffer in the spill area: the buffers lie one after another by tile (DESIGN CHOICE, log 20). -/
def spillAddr (h : PassHdr) (tile : Nat) : Nat := h.spill.toNat + h.bufBytes * tile

/-- A tile's buffer leaves its core for the spill area (R207, R217); none where the area cannot be written now. -/
def spillTile (s : State) (pid : Nat) (p : PassSt) (h : PassHdr) (c : Ctx) (tile : Nat) : Option State :=
  match Tbl.get? p.bufs tile with
  | none => some s
  | some m =>
    match frontWrite s p.ctx c (spillAddr h tile) ((List.range (h.bufBytes / 4)).flatMap fun a => natLE 4 (SMap.get m a).toNat) 16 with
    | .ok s => some (modPass s pid fun p =>
        { p with bufs := Tbl.erase p.bufs tile, spilled := p.spilled ++ [tile],
                 cur := if Tbl.get? p.cur (h.tileCore tile) == some (some tile) then Tbl.set p.cur (h.tileCore tile) none else p.cur })
    | _ => none

/-- A tile's buffer as its core takes it: the one it has, the one in the spill area, or a new one (R207, R217, R290); none where it cannot be read now. -/
def bufferOf (s : State) (p : PassSt) (h : PassHdr) (c : Ctx) (tile : Nat) : Option (SMap 32) :=
  match Tbl.get? p.bufs tile with
  | some m => some m
  | none =>
    if p.spilled.contains tile then
      match frontBytes s p.ctx c (spillAddr h tile) h.bufBytes 16 with
      | .ok bs => some (((List.range (h.bufBytes / 4)).map fun a => (a, BitVec.ofNat 32 (fld bs (4 * a) 4))).filter fun e => e.2 != 0)
      | _ => none
    else if loadWaits s h p.surf tile then none
    else some (startTile s h p.surf tile)

/-- The state after a tile's buffer was read: from the spill area, or from the surfaces that its planes load. -/
def bufferRead (s : State) (p : PassSt) (h : PassHdr) (c : Ctx) (tile : Nat) : State :=
  if (Tbl.get? p.bufs tile).isSome then s
  else if p.spilled.contains tile then touchFront s p.ctx c (spillAddr h tile) h.bufBytes 16
  else touchTile s h p.surf tile

/-- A pass holds every core of its set, or finds room for its tile buffer on each; every one is in use (R205, R364). -/
def coresFit (s : State) (p : PassSt) (h : PassHdr) (c : Ctx) : Bool :=
  h.coreSet.all fun l => ((Tbl.get? p.cur l).isSome && coreUsable s (nth c.cores l 0))
    || (coreOpen s c (nth c.cores l 0) && scratchUsed s (nth c.cores l 0) + h.bufBytes ≤ 2 ^ 20)

/-- A tile takes its core, and the pass the cores of its set (R205): the tile starts, or its buffer is reloaded (R207, R217); none where its core is
not free for it. (DEDUCED, log 67) -/
def takeTile (s : State) (pid : Nat) (p : PassSt) (h : PassHdr) (c : Ctx) (tile : Nat) : Option State :=
  let l := h.tileCore tile
  let go := fun (_ : Unit) =>
    (bufferOf s p h c tile).map fun m =>
      modPass (h.coreSet.foldl (fun s i => wakeCluster s (nth c.cores i 0)) (bufferRead s p h c tile)) pid fun p =>
        { p with cur := Tbl.set (h.coreSet.foldl (fun q i => if (Tbl.get? q i).isNone then Tbl.set q i none else q) p.cur) l (some tile),
                 bufs := Tbl.set p.bufs tile m, spilled := p.spilled.filter (· != tile) }
  match Tbl.get? p.cur l with
  | some (some t) => if t = tile then some s else none
  | _ => if coresFit s p h c then go () else none

/-! Raster (R207, R209). -/

/-- Pixels, coverage and helpers of the lanes of the quads, from lane `l` on. -/
def quadLanes (samp l : Nat) (qs : List (Nat × Nat)) (f : FragInfo) : FragInfo :=
  match qs with
  | [] => f
  | q :: r =>
    let cov := fun (j : Nat) => q.2 / 2 ^ (j * samp) % 2 ^ samp
    let f := (List.range 4).foldl (fun (f : FragInfo) j =>
      { f with pix := SMap.set f.pix (l + j) (BitVec.ofNat 16 (quadPix q.1 j)), cover := SMap.set f.cover (l + j) (BitVec.ofNat 8 (cov j)),
               helper := if cov j = 0 then f.helper ||| oneLane (l + j) else f.helper }) f
    quadLanes samp (l + 4) r f

/-- Free FP32 values at consecutive keys: interpolated depths (DESIGN CHOICE, log 2). -/
def freeVals (n k : Nat) (m : SMap 32) (s : State) : SMap 32 × State :=
  match n with
  | 0 => (m, s)
  | n + 1 => let r := freshNat s; freeVals n (k + 1) (SMap.set m k (BitVec.ofNat 32 r.1)) r.2

/-- Early tests of a lane's samples: those that fail leave its coverage, so that v0 holds what passed (R207, R209; DESIGN CHOICE, log 153). -/
def earlyLane (pid : Nat) (h : PassHdr) (ds lane : Nat) (l : List Nat) (f : FragInfo) (s : State) : FragInfo × State :=
  match l with
  | [] => (f, s)
  | k :: r =>
    if !(SMap.get f.cover lane).getLsbD k then earlyLane pid h ds lane r f s
    else
      let t := depthStage s pid h f.tile (SMap.get f.pix lane).toNat k ds (SMap.get f.zval (4 * lane + k)).toNat
      let c := (SMap.get f.cover lane).toNat
      earlyLane pid h ds lane r (if t.1 then f else { f with cover := SMap.set f.cover lane (BitVec.ofNat 8 (c - 2 ^ k)) }) t.2

/-- Early tests of the lanes of a list. -/
def earlyLanes (pid : Nat) (h : PassHdr) (ds : Nat) (l : List Nat) (f : FragInfo) (s : State) : FragInfo × State :=
  match l with
  | [] => (f, s)
  | x :: r => let y := earlyLane pid h ds x [0, 1, 2, 3] f s; earlyLanes pid h ds r y.1 y.2

/-- PRED at entry of a fragment group of n lanes: covering lanes, and the helpers of quads that keep one (R207, R209). -/
def fragPred (f : FragInfo) (n : Nat) : W64 :=
  let lives := fun (l : Nat) => SMap.get f.cover l != 0
  laneSet n fun l => lives l || (inSet f.helper l && [0, 1, 2, 3].any fun j => lives (4 * (l / 4) + j))

/-- A fragment group at entry (R207): v0 the pixel and coverage, v1 and v2 the weights of two vertices, k1 0 for helpers. -/
def fragGroup (d : Draw) (f : FragInfo) (n : Nat) (weight : Nat → Nat → W32) (place : Place) (at_ : Nat) : Group :=
  let pred := fragPred f n
  let g := newGroup d.fk.kr.width d.fk.kr.vregs d.fk.entryPc pred (d.fk.scalars d.fkAddr) place at_
  let v0 := (List.range n).foldl (fun m l =>
    SMap.set m l (BitVec.ofNat 32 ((SMap.get f.pix l).toNat + 4096 * (SMap.get f.cover l).toNat))) ([] : SMap 32)
  let v := (List.range (2 * n)).foldl (fun m i => SMap.set m (64 * (1 + i / n) + i % n) (weight (i / n) (SMap.get f.pix (i % n)).toNat)) v0
  { g with regs := { g.regs with vreg := v, kreg := SMap.set [] 1 (pred &&& ~~~f.helper) }, frag := some f }

/-- Where a tile goes on after a group of a draw: the next quad of the primitive, the next primitive, or the next item. -/
def nextProg (item prim quad nprim : Nat) : Nat × Nat × Nat :=
  if quad < 1024 then (item, prim, quad)
  else if prim + 1 < nprim then (item, prim + 1, 0)
  else (item + 1, 0, 0)

/-- The front-end rasters a tile's next fragment group of a draw, of up to 16 quads (R207, R209; DESIGN CHOICE, log 55). -/
def rasterDraw (s : State) (pid : Nat) (p : PassSt) (h : PassHdr) (c : Ctx) (slot tile : Nat) (at_ : Nat × Nat × Nat) (b : Bin) (d : Draw) : State :=
  let core := nth c.cores (h.tileCore tile) 0
  let foot := { d.fk.kr.foot with groups := 1, bcores := 1 }
  let f := freshNat s
  let most := 1 + f.1 % min 16 (d.fk.kr.width / 4)
  let q := rasterQuads h b at_.2.1 tile at_.2.2 most
  let n := 4 * q.length
  let next := match q.getLast? with | some e => if q.length < most then 1024 else e.1 + 1 | none => 1024
  let go := fun (s : State) => modPass s pid fun p => { p with prog := Tbl.set p.prog tile (nextProg at_.1 at_.2.1 next d.nprim) }
  if q.isEmpty then go f.2
  else
    let early := d.ds.getLsbD 31
    let f0 : FragInfo :=
      { pass := pid, item := at_.1, tile := tile, prim := at_.2.1, early := early, cover := [], pix := [], zval := [], helper := 0, stage := [],
        staged := [], passed := [], n := n }
    let f1 := quadLanes h.samp 0 q f0
    let z := freeVals (4 * n) 0 [] f.2
    let f2 := { f1 with zval := z.1 }
    let due := early && (dispatchDue s pid tile at_.1 || (List.range n).any fun l =>
      (List.range 4).any fun k => (SMap.get f2.cover l).getLsbD k
        && sampleDue s pid tile (at_.1, at_.2.1) (SMap.get f2.pix l).toNat k)
    match (if coreUsable s core then fitCore s core foot 0 else none) with
    | none => s
    | some ps =>
      if due then s
      else
        let e := if early then earlyLanes pid h d.ds.toNat (List.range n) f2 z.2 else (f2, z.2)
        if fragPred e.1 n = 0 then go e.2
        else
          let k := newBlock p.ctx (.pass pid at_.1 tile) (tile % h.tx, tile / h.tx, 0) (some slot) foot [h.tileCore tile]
          go (startBlock e.2 k [core] [ps] fun _ pl =>
            fragGroup d e.1 n (fun i pix => weightAt h b at_.2.1 tile pix (Config.weightOf i).val) pl s.steps)

/-- The front-end goes on with a draw on a tile: a group of its next primitive, which is binned before (R207). -/
def walkDraw (s : State) (pid : Nat) (p : PassSt) (h : PassHdr) (c : Ctx) (slot tile : Nat) (at_ : Nat × Nat × Nat) (d : Draw) : State :=
  match Tbl.get? p.bins at_.1 with
  | some b => if at_.2.1 < b.prims.length then rasterDraw s pid p h c slot tile at_ b d else binPrim s pid p h c at_.1 d
  | none => binPrim s pid p h c at_.1 d

/-- A tile at a dispatch waits for its block to fire (R215, R233); where the dispatch has retired, cancelled, the tile goes on. -/
def passDispatch (s : State) (pid : Nat) (p : PassSt) (tile item : Nat) : State :=
  if p.done.contains item then modPass s pid fun p => { p with prog := Tbl.set p.prog tile (item + 1, 0, 0) } else s

/-- A tile of a pass has begun. -/
def tileBegun (p : PassSt) (tile : Nat) : Bool :=
  (Tbl.get? p.bufs tile).isSome || p.spilled.contains tile || (Tbl.get? p.prog tile).isSome

/-- Under a ladder a pass goes on, with the tiles begun, up to a boundary (R217). -/
def passGoes (p : PassSt) (h : PassHdr) (tile : Nat) : Bool := (passBoundary p h).isNone && (tileBegun p tile || p.binFull)

/-- The front-end walks a tile (R207): the next group of a draw whose vertex work is done, or a dispatch, whose block the front-end fires as a point.
Under a ladder it goes on up to a boundary of the pass, where the tile's buffer goes to the spill area (R217). -/
def tileRaster (s : State) (pid tile : Nat) : State :=
  match Tbl.get? s.passes pid, passHdr s pid, Tbl.get? s.recs pid with
  | some p, some h, some r =>
    match Tbl.get? s.ctxs p.ctx with
    | none => s
    | some c =>
      let at_ := tilePos p tile
      if h.tx * h.ty ≤ tile || p.stored.contains tile then s
      else if passStarts s p c || (passFinishes s p c && passGoes p h tile) then
        match p.taken[at_.1]? with
        | none => s
        | some i =>
          match takeTile s pid p h c tile with
          | none => s
          | some s1 =>
            match i with
            | .draw d => if p.done.contains at_.1 then walkDraw s1 pid p h c r.slot tile at_ d else s1
            | .disp _ _ => passDispatch s1 pid p tile at_.1
      else if passFinishes s p c && (passBoundary p h).isSome && !tileBusy s pid p tile then (spillTile s pid p h c tile).getD s
      else s
  | _, _, _ => s

/-- The front-end walks a tile (R207). -/
def execTileRaster (pass tile : Nat) (s : State) : Out := .next (checkLadders (tileRaster s pass tile))

/-- The first primitive that is not binned: item and primitive. -/
def binFront (p : PassSt) : Nat × Nat :=
  let n := fun (i : Nat) => match Tbl.get? p.bins i with | some b => b.prims.length | none => 0
  let waits := fun (i : Nat) => match p.taken[i]? with | some (.draw d) => decide (n i < d.nprim) | _ => false
  match (List.range p.taken.length).find? waits with
  | some i => (i, n i)
  | none => (p.taken.length, 0)

/-- The bin area is full (R207): each tile on its core that has come up to what is binned leaves for the spill area, so that every tile can come up
before binning goes on. (DESIGN CHOICE, log 20) -/
def binSpill (s : State) (pid : Nat) : State :=
  match Tbl.get? s.passes pid, passHdr s pid with
  | some p, some h =>
    match Tbl.get? s.ctxs p.ctx with
    | none => s
    | some c =>
      let l := (p.cur.filterMap (·.2)).filter fun t => caughtUp s pid p (binFront p).1 (binFront p).2 t
      l.foldl (fun s t => match Tbl.get? s.passes pid with | some p => (spillTile s pid p h c t).getD s | none => s)
        (modPass s pid fun p => { p with binFull := true })
  | _, _ => s

/-- The bin area is full (R207). -/
def execBinOverflowSpill (pass : Nat) (s : State) : Out := .next (binSpill s pass)

/-! Tile store (R291). -/

/-- A drop is counted (R291). -/
def countDrop (s : State) (cid : Nat) (disp : Option Nat) : State :=
  let s := modCounts s cid fun k => { k with dropc := k.dropc + 1 }
  match disp with
  | none => s
  | some d => { s with pix := { s.pix with disps := Tbl.set s.pix.disps d { dispSt s d with dropd := (dispSt s d).dropd + 1 } } }

/-- What becomes of a pixel of a plane. -/
inductive StoreTo where
  | skip
  | drop (disp : Option Nat)
  /-- the frame is paged out or in transit -/
  | wait
  /-- physical address and VPA of the word -/
  | write (vf pa vpa : Nat)
  deriving DecidableEq, Repr

/-- The checks of R291 on a pixel of a plane. -/
def storeTo (s : State) (oid : Nat) (h : PassHdr) (e : BitVec 128) (tile pix : Nat) : StoreTo :=
  match Tbl.get? s.pix.surfs (tabSid e) with
  | none => .drop none
  | some sf =>
    let a := sf.a
    let q := tabPixel e h tile pix
    let d := .drop (if a.kind = 2 then some a.disp else none)
    if !inSurface a q then .skip
    else if texelBytes a.fmt != 4 || a.kind == 3 || (a.kind == 1 && a.oid != oid) then d
    else if a.kind == 2 && (oid == 0 || match pomAt s a.disp (a.ox + q.1) (a.oy + q.2) with | some w => pomOid w != oid | none => true) then d
    else
      match surfFrame s a q with
      | (0, _) => d
      | (1, _) => .write a.vf (surfPa s a q) (surfVpa a q)
      | _ => .wait

/-- Write one word of a surface. -/
def writePixel (s : State) (vf pa vpa v : Nat) : State :=
  writeLoc s vf pa vpa (potEntry s (pa / 32768)).world (natLE 4 v)

/-- Store one pixel of one plane. -/
def storePixel (s : State) (cid oid : Nat) (h : PassHdr) (pid tile pix plane : Nat) : State :=
  match Tbl.get? s.passes pid with
  | none => s
  | some p =>
    match storeTo s oid h (nth p.surf plane 0) tile pix with
    | .skip => s
    | .wait => s
    | .drop d => countDrop s cid d
    | .write vf pa vpa => writePixel s vf pa vpa (tileWord p tile (tileAddr pix 0 plane))

/-- The planes of a pass that are stored. -/
def storedPlanes (h : PassHdr) (p : PassSt) : List Nat := (List.range h.npl).filter fun n => tabSt (nth p.surf n 0)

/-- Every touched pixel of a tile in every stored plane. -/
def storeList (h : PassHdr) (p : PassSt) (tile : Nat) : List (Nat × Nat) :=
  (((Tbl.get? p.touched tile).getD []).map (·.1)).flatMap fun pix => (storedPlanes h p).map fun n => (pix, n)

/-- What of a tile is still to store. -/
def storesLeft (h : PassHdr) (p : PassSt) (tile : Nat) : List (Nat × Nat) := (Tbl.get? p.storing tile).getD (storeList h p tile)

/-- A finished tile may be stored: every item is past, and nothing runs on it. -/
def storeDue (s : State) (pid : Nat) (p : PassSt) (h : PassHdr) (c : Ctx) (tile : Nat) : Bool :=
  tile < h.tx * h.ty && h.nitem ≤ (tilePos p tile).1 && !p.stored.contains tile && !tileBusy s pid p tile && passFinishes s p c

/-- Every pixel of a tile is stored: its core is free for another. -/
def tileStored (h : PassHdr) (tile : Nat) (p : PassSt) : PassSt :=
  let k := h.tileCore tile
  { p with stored := p.stored ++ [tile], bufs := Tbl.erase p.bufs tile, touched := Tbl.erase p.touched tile, storing := Tbl.erase p.storing tile,
           cur := if Tbl.get? p.cur k == some (some tile) then Tbl.set p.cur k none else p.cur }

/-- Some pixels of a finished tile are stored, chosen freely among those that wait for no frame (R291; DESIGN CHOICE, log 2); the pass retires with
its last tile (R220). -/
def tileStore (s : State) (pid tile : Nat) : State :=
  match Tbl.get? s.passes pid, passHdr s pid with
  | some p, some h =>
    match Tbl.get? s.ctxs p.ctx with
    | none => s
    | some c =>
      if !storeDue s pid p h c tile then s
      else
        match takeTile s pid p h c tile with
        | none => s
        | some s =>
          let f := freshNat s
          let todo := storesLeft h p tile
          let now := (List.range todo.length).filter fun i =>
            f.1.testBit i && storeTo s c.oid h (nth p.surf (nth todo i (0, 0)).2 0) tile (nth todo i (0, 0)).1 != .wait
          let left := ((List.range todo.length).filter fun i => !now.contains i).map fun i => nth todo i (0, 0)
          let s := now.foldl (fun s i => storePixel s p.ctx c.oid h pid tile (nth todo i (0, 0)).1 (nth todo i (0, 0)).2) f.2
          if left.isEmpty then finishPass (modPass s pid (tileStored h tile)) pid
          else modPass s pid fun p => { p with storing := Tbl.set p.storing tile left }
  | _, _ => s

/-- A finished tile is stored (R291). -/
def execTileStore (pass tile : Nat) (s : State) : Out := .next (checkLadders (tileStore s pass tile))

end Sys2Proof.Machine
end

