-- ==== Sys2Proof/Machine/Present.lean ====
section
/-! DEFINITION. Present queues, boundaries and composition (R284, R287, R295, R300 to R303). -/

namespace Sys2Proof.Machine

/-! Present records (R300). -/

/-- Change a present queue. -/
def modPq (s : State) (n : Nat) (f : PresQ → PresQ) : State := { s with pix := { s.pix with pqs := Tbl.modify s.pix.pqs n f } }

/-- A present record's fields. -/
def parsePres (idx : Half) (bs : List Byte) : PresRec :=
  { idx := idx, tgt := fld bs 56 8, h := (List.range 9).map fun i => BitVec.ofNat 32 (fld bs (16 + 4 * i) 4), seq := BitVec.ofNat 64 (fld bs 8 8),
    wdc := depcField (fld bs 2 2), wval := fld bs 4 2, sid := fld bs 0 2 % 4096 }

/-- A present record keeps to its table (R300). -/
def presOk (s : State) (q : PresQ) (bs : List Byte) : Bool :=
  let r := parsePres 0 bs
  zeroBytes bs 52 4 && zeroBytes bs 6 2 && fld bs 2 2 / 2 ^ 12 % 8 == 0
    && (match q.last with | some l => decide (l.toNat < r.seq.toNat) | none => true)
    && (match Tbl.get? s.ctxs q.a.ctx with | some c => depcOk s c.vf (fld bs 2 2) | none => false)
    && (match Tbl.get? s.pix.surfs r.sid with
        | some sf => sf.a.kind == 2 && sf.a.oid == q.a.oid && sf.a.disp == q.a.disp
        | none => false)

/-- The bytes of a present record in its ring. -/
def presBytes (s : State) (q : PresQ) (idx : Half) : Take (List Byte) :=
  match Tbl.get? s.ctxs q.a.ctx with
  | none => .wait
  | some c => frontRead s q.a.ctx c (q.a.ring.toNat + 64 * (idx.toNat % 2 ^ q.a.log2n)) 1

/-- The latched record as its ring holds it now (R301); as it was read last where it cannot be read. (DEDUCED, log 131) -/
def latNow (s : State) (q : PresQ) : Option PresRec :=
  q.lat.map fun l => match presBytes s q l.idx with | .ok bs => parsePres l.idx bs | _ => l

/-- A record retires as refused: an event of class 4 with code 1 (R300). -/
def presRefused (s : State) (q : PresQ) : State := openEvent s q.a.ctx 4 1

/-- Take `n` records of a present queue (R300); a page-in stops it. (DEDUCED, log 71) -/
def presTake (s : State) (pq n : Nat) : State :=
  match n with
  | 0 => s
  | n + 1 =>
    match Tbl.get? s.pix.pqs pq with
    | none => s
    | some q =>
      let next := fun (s : State) => modPq s pq fun q => { q with head := q.head + 1 }
      match presBytes s q q.head with
      | .wait => s
      | .refuse _ => presTake (presRefused (next s) q) pq n
      | .ok bs =>
        let s := (match Tbl.get? s.ctxs q.a.ctx with | some c => touchFront s q.a.ctx c (q.a.ring.toNat + 64 * (q.head.toNat % 2 ^ q.a.log2n)) 64 2 | none => s)
        if presOk s q bs then
          let r := parsePres q.head bs
          presTake (modPq (next s) pq fun q => { q with recs := q.recs ++ [r], last := some r.seq }) pq n
        else presTake (presRefused (next s) q) pq n

/-- The owner rings the queue's doorbell (R300); at most a ring of records is taken. -/
def execPresentDoorbell (pq tail : Nat) (s : State) : Out :=
  .next (match Tbl.get? s.pix.pqs pq with
    | none => s
    | some q => presTake s pq (min ((tail + 65536 - q.head.toNat) % 65536) (2 ^ q.a.log2n)))

/-! Latching (R301). -/

/-- A record is complete. -/
def presComplete (s : State) (r : PresRec) : Bool :=
  match r.wdc with
  | none => true
  | some n => decide (r.wval ≤ (SMap.get s.depc n).toNat)

/-- Identity. -/
def identity3 : List W32 := [0x3F800000, 0, 0, 0, 0x3F800000, 0, 0, 0, 0x3F800000]

/-- A product of two matrices: FP32, RNE, k ascending. -/
def mul3 (a b : List W32) : List W32 :=
  let at_ := fun (m : List W32) (i j : Nat) => (nth m (3 * i + j) 0).toNat
  (List.range 9).map fun e =>
    let i := e / 3
    let j := e % 3
    let p := fun k => fMul (at_ a i k) (at_ b k j)
    BitVec.ofNat 32 (fAdd (fAdd (p 0) (p 1)) (p 2))

/-- The index of the newest record that may be latched at a generation. -/
def newestPres (s : State) (gen : Nat) (l : List PresRec) : Option Nat :=
  ((List.range l.length).filter fun i =>
    match l[i]? with | some r => presComplete s r && decide (r.tgt ≤ gen) | none => false).getLast?

/-- A queue acts at the boundary to a generation (R301). -/
def latchPq (s : State) (gen : Nat) (q : PresQ) : PresQ :=
  if ((gen : Int) - q.a.phase) % (q.a.cad : Int) != 0 then q
  else
    match newestPres s gen q.recs with
    | some i =>
      (match q.recs[i]? with
       | some c => { q with recs := q.recs.drop (i + 1), lat := some c, rpc := 0, m := identity3, tl := c.seq }
       | none => q)
    | none =>
      match latNow s q with
      | some l => if q.rpc < q.a.maxrp then { q with rpc := q.rpc + 1, m := mul3 q.m l.h } else q
      | none => q

/-! Composition (R302, R303). -/

/-- A latched surface: SID, surface, its queue's M and blur radius. -/
structure Latched where
  sid : Nat
  a : SurfArgs
  m : List W32
  br : Nat

/-- `a` stands nearer than `b`: higher Z, then lower SID (R303). -/
def nearer (a b : Latched) : Bool := b.a.z < a.a.z || (a.a.z == b.a.z && a.sid < b.sid)

/-- Insert by nearness. -/
def insertLatched (x : Latched) (l : List Latched) : List Latched :=
  match l with
  | [] => [x]
  | y :: r => if nearer x y then x :: y :: r else y :: insertLatched x r

/-- The surface that a queue's latched record names, where it is one of the owner's on the queue's display (R300, R301). -/
def latSurf (s : State) (q : PresQ) : Option (Nat × SurfArgs) :=
  match latNow s q with
  | none => none
  | some r =>
    match Tbl.get? s.pix.surfs r.sid with
    | some sf => if sf.a.kind == 2 && sf.a.oid == q.a.oid && sf.a.disp == q.a.disp then some (r.sid, sf.a) else none
    | none => none

/-- The latched surfaces of a display, nearest first. -/
def latchedOf (s : State) (d : Nat) : List Latched :=
  ((s.pix.pqs.filter fun e => e.2.a.disp == d).filterMap fun e =>
    (latSurf s e.2).map fun x => ({ sid := x.1, a := x.2, m := e.2.m, br := e.2.a.br } : Latched)).foldr insertLatched []

/-- The overlay surfaces of a display, nearest first (R303). (DEDUCED, log 70) -/
def overlaysOf (s : State) (d : Nat) : List Latched :=
  ((s.pix.surfs.filter fun e => e.2.a.kind == 2 && e.2.a.disp == d && e.2.a.oid == 4095).map fun e =>
    ({ sid := e.1, a := e.2.a, m := identity3, br := 0 } : Latched)).foldr insertLatched []

/-- The surface pixel that stands on a display pixel. -/
def onSurface (a : SurfArgs) (x y : Int) : Int × Int := (x - a.ox, y - a.oy)

/-- The bytes of a surface pixel, an access of their lines and frame (R8, R276); free where its frame holds none (DESIGN CHOICE, log 2). -/
def surfBytes (s : State) (a : SurfArgs) (x y : Nat) : List Byte × State :=
  let n := texelBytes a.fmt
  let vpa := a.base + y * a.pitch + x * n
  let e := frameEntry s a.vf (vpa / 32768)
  let pa := e.2 * 32768 + vpa % 32768
  if e.1 == 1 then (SMap.getList s.mem.loc pa n, touchLoc s pa n (potEntry s e.2).world false)
  else
    let b0 := freeBytes s (min n 8)
    let b1 := freeBytes b0.2 (n - 8)
    (b0.1 ++ b1.1, b1.2)

/-- A surface pixel's four components. -/
def surfVals (s : State) (a : SurfArgs) (x y : Nat) : List Nat × State :=
  let r := surfBytes s a x y
  (texelOf a.fmt r.1, r.2)

/-- Four free components (DESIGN CHOICE, log 2). -/
def freeVals4 (s : State) : List Nat × State :=
  match freeTexel s with
  | (.ok l, s) => (l, s)
  | (_, s) => ([0, 0, 0, 0], s)

/-- BIL of a surface with clamp addressing (R212, R302). -/
def surfBil (s : State) (a : SurfArgs) (u v : Nat) : List Nat × State :=
  match bilAxis u a.w, bilAxis v a.h with
  | some (i, fx), some (j, fy) =>
    let t := fun (s : State) (i j : Int) => surfVals s a ((texAdr 1 i a.w).getD 0) ((texAdr 1 j a.h).getD 0)
    let t00 := t s i j
    let t10 := t t00.2 (i + 1) j
    let t01 := t t10.2 i (j + 1)
    let t11 := t t01.2 (i + 1) (j + 1)
    (four fun c => bilMix fx fy (nth t00.1 c 0) (nth t10.1 c 0) (nth t01.1 c 0) (nth t11.1 c 0), t11.2)
  | _, _ => freeVals4 s

/-- The pixel of a latched surface (R302); none is BG. -/
def latchedPixel (s : State) (l : Latched) (x y : Nat) : Option (List Nat) × State :=
  if l.m == identity3 then let r := surfVals s l.a x y; (some r.1, r.2)
  else
    let px := fAdd (fInt x) fHalf
    let py := fAdd (fInt y) fHalf
    let row := fun (i : Nat) =>
      let m := fun (j : Nat) => (nth l.m (3 * i + j) 0).toNat
      fAdd (fAdd (fMul (m 0) px) (fMul (m 1) py)) (fMul (m 2) fOne)
    let c := row 2
    if fmt32.cmp c 0 == .lt || fmt32.cmp c 0 == .eq then (none, s)
    else
      let r := surfBil s l.a (fDiv (fDiv (row 0) c) (fInt l.a.w)) (fDiv (fDiv (row 1) c) (fInt l.a.h))
      (some r.1, r.2)

/-- The pixel of a latched surface at a display pixel, BG where R302 says so; free outside the surface, which the blur may reach (DESIGN CHOICE, log 2). -/
def pixelAt (s : State) (bg : List Nat) (l : Latched) (x y : Int) : List Nat × State :=
  let q := onSurface l.a x y
  if inSurface l.a q then
    let r := latchedPixel s l q.1.toNat q.2.toNat
    (r.1.getD bg, r.2)
  else freeVals4 s

/-- Sum the pixels of a list of display positions, in order. -/
def sumPixels (s : State) (bg : List Nat) (l : Latched) (acc : Option (List Nat)) (ps : List (Int × Int)) : List Nat × State :=
  match ps with
  | [] => (acc.getD [0, 0, 0, 0], s)
  | p :: r =>
    let v := pixelAt s bg l p.1 p.2
    let a := match acc with | none => v.1 | some a => four fun c => fAdd (nth a c 0) (nth v.1 c 0)
    sumPixels v.2 bg l (some a) r

/-- The mean of a surface over the (2BR + 1)² pixels about a display pixel, row-major (R303). (DEDUCED, log 69) -/
def blurAt (s : State) (bg : List Nat) (l : Latched) (br : Nat) (x y : Int) : List Nat × State :=
  let n := 2 * br + 1
  let ps := (List.range (n * n)).map fun i => (x + (i % n : Nat) - br, y + (i / n : Nat) - br)
  let r := sumPixels s bg l none ps
  (four fun c => fDiv (nth r.1 c 0) (fInt (n * n : Nat)), r.2)

/-- A latched surface covers a display pixel. -/
def coversPix (l : Latched) (x y : Int) : Bool := inSurface l.a (onSurface l.a x y)

/-- What stands under a pixel of owner `oid`: the next lower surface where it is its own or granted with T, else BG (R303). -/
def underAt (s : State) (bg : List Nat) (oid br : Nat) (fx : Bool) (lower : List Latched) (x y : Int) : List Nat × State :=
  match lower.find? fun l => coversPix l x y with
  | none => (bg, s)
  | some u =>
    let q := onSurface u.a x y
    if u.a.oid == oid || (grants s u.a.oid oid u.sid q.1.toNat q.2.toNat).any (fun e => rightT e.rights) then
      if fx then blurAt s bg u br x y else pixelAt s bg u x y
    else (bg, s)

/-- A display pixel of a generation (R303). -/
def composePixel (s : State) (bg : List Nat) (ls ov : List Latched) (w : Half) (x y : Nat) : List Nat × State :=
  let oid := pomOid w
  if oid = 0 then (bg, s)
  else if oid = 4095 then
    match ov.find? fun l => coversPix l x y with
    | some l => pixelAt s bg l x y
    | none => (bg, s)
  else
    match ls.find? fun l => l.a.oid == oid && coversPix l x y with
    | none => (bg, s)
    | some l =>
      let col := pixelAt s bg l x y
      let a := nth col.1 3 0
      if fmt32.cmp a fOne == .lt then
        let und := underAt col.2 bg oid l.br (pomFx w) (ls.filter fun u => nearer l u) x y
        (four fun c => fAdd (nth col.1 c 0) (fMul (nth und.1 c 0) (fSub fOne a)), und.2)
      else col

/-- BG's components. -/
def bgOf (c : DispArgs) : List Nat := [c.bg.r.toNat, c.bg.g.toNat, c.bg.b.toNat, c.bg.a.toNat]

/-- The RGBA8 pixels of a frame, from pixel `i` on. -/
def composeFrom (s : State) (d : Nat) (c : DispArgs) (ls ov : List Latched) (i n : Nat) (acc : SMap 32) : SMap 32 × State :=
  match n with
  | 0 => (acc, s)
  | n + 1 =>
    let r := composePixel s (bgOf c) ls ov (SMap.get (dispSt s d).pom i) (i % c.w) (i / c.w)
    composeFrom r.2 d c ls ov (i + 1) n (SMap.set acc i (BitVec.ofNat 32 (planeWord 1 r.1)))

/-- The output surface of a display (R288). -/
def outputOf (s : State) (d : Nat) : Option SurfArgs := (s.pix.surfs.find? fun e => e.2.a.kind == 3 && e.2.a.disp == d).map (·.2.a)

/-- Write a frame to an output surface, where its frames are present. (DESIGN CHOICE, log 72) -/
def writeFrame (s : State) (a : SurfArgs) (w : Nat) (m : SMap 32) (i n : Nat) : State :=
  match n with
  | 0 => s
  | n + 1 =>
    let q : Int × Int := ((i % w : Nat), (i / w : Nat))
    let s := if inSurface a q && (surfFrame s a q).1 == 1 then writePixel s a.vf (surfPa s a q) (surfVpa a q) (SMap.get m i).toNat else s
    writeFrame s a w m (i + 1) n

/-- The frame of the generation that ends: sent over an output's link, and written to the display's output surface (R288, R303; DEDUCED, log 21). -/
def compose (s : State) (d : Nat) (c : DispArgs) : State :=
  let o := outputOf s d
  if 4 ≤ d && o.isNone then s
  else
    let r := composeFrom s d c (latchedOf s d) (overlaysOf s d) 0 (c.w * c.h) []
    let s := if d < 4 then { r.2 with pix := { r.2.pix with disps := Tbl.modify r.2.pix.disps d fun x => { x with sent := r.1 } } } else r.2
    match o with
    | some a => writeFrame s a c.w r.1 0 (c.w * c.h)
    | none => s

/-! Boundaries (R284). -/

/-- A POM write over its rectangle (R287). -/
def applyPom (w : Nat) (m : SMap 16) (p : PomCmd) : SMap 16 :=
  let nx := p.x1 + 1 - p.x0
  (List.range (nx * (p.y1 + 1 - p.y0))).foldl (fun m i => SMap.set m ((p.y0 + i / nx) * w + p.x0 + i % nx) p.word) m

/-- Tiles across a display. -/
def tilesX (c : DispArgs) : Nat := (c.w + 63) / 64
/-- Tiles of a display. -/
def tilesOf (c : DispArgs) : Nat := tilesX c * ((c.h + 63) / 64)

/-- The POM words of a tile's pixels inside the display. -/
def tileWords (c : DispArgs) (pom : SMap 16) (t : Nat) : List Half :=
  let x0 := 64 * (t % (tilesX c))
  let y0 := 64 * (t / (tilesX c))
  (List.range (min 64 (c.h - y0))).flatMap fun y => (List.range (min 64 (c.w - x0))).map fun x => SMap.get pom ((y0 + y) * c.w + x0 + x)

/-- The summary of a tile's words (R286): UNI with the word that all hold; bits 15:0 are 0 where they differ (DESIGN CHOICE, log 132). -/
def summaryOf (l : List Half) : W32 :=
  match l with
  | [] => 0
  | w :: r => if r.all fun v => v == w then 0x80000000 ||| w.zeroExtend 32 else 0

/-- The tile summaries are rebuilt (R286). -/
def rebuildSums (c : DispArgs) (pom : SMap 16) : SMap 32 :=
  ((List.range (tilesOf c)).map fun t => (t, summaryOf (tileWords c pom t))).filter fun e => e.2 != 0

/-- The staged POM writes apply, the summaries are rebuilt and GEN rises. -/
def beginGen (x : Display) (c : DispArgs) : Display :=
  let pom := x.staged.foldl (applyPom c.w) x.pom
  { x with pom := pom, sums := rebuildSums c pom, staged := [], gen := x.gen + 1, count := x.count + 1 }

/-- The time of boundary `k` of a display under its present timing, in ns, rounded down; boundaries are a period apart (R284). (DEDUCED, log 133) -/
def boundaryAt (c : DispArgs) (first k : Nat) : Nat :=
  match c.timing with
  | .period ns => first + k * ns
  | .mode pclk ht vt => first + k * (ht * vt * 1000000) / pclk

/-- The time at which a display's next boundary falls; none before its first DISP_CFG (R284). -/
def boundaryDue (x : Display) : Option Nat := x.cfg.map fun c => boundaryAt c x.first x.count

/-- A boundary of a display (R284): the frame is complete, POM writes apply, GEN rises, expired grants go, queues latch. There is none before its time. -/
def boundary (s : State) (d : Nat) : State :=
  let x := dispSt s d
  match x.cfg with
  | none => s
  | some c =>
    if decide (s.time < boundaryAt c x.first x.count) then s
    else
      let s := compose s d c
      let s := { s with pix := { s.pix with disps := Tbl.modify s.pix.disps d fun x => beginGen x c } }
      let g := genOf s d
      let s := { s with pix := { s.pix with cts := s.pix.cts.filter fun e => e.2.a.disp != d || decide (g ≤ e.2.a.last.toNat) } }
      let s := { s with pix := { s.pix with pqs := s.pix.pqs.map fun e => if e.2.a.disp == d then (e.1, latchPq s g e.2) else e } }
      checkTimelines s

/-- Time moves on by at most `ns`, up to the next boundary of any display: none falls late (R284). -/
def advanceTime (s : State) (ns : Nat) : Nat :=
  s.pix.disps.foldl (fun t e => match boundaryDue e.2 with | some b => max s.time (min t b) | none => t) (s.time + ns)

/-- A frame-generation boundary (R284). -/
def execDisplayBoundary (disp : Nat) (s : State) : Out := .next (boundary s disp)

end Sys2Proof.Machine
end

