-- ==== Sys2Proof/Machine/Front.lean ====
section
/-! DEFINITION. The front-end: doorbells, taking and beginning records, firing points, letting groups into active slots (R12, R13, R219 to R235, R248 to R253). -/

namespace Sys2Proof.Machine

/-! Doorbells and records (R219 to R226). -/

/-- Records rung and not taken. -/
def QSlot.avail (q : QSlot) : Nat := (q.tail - q.head).toNat

/-- A slot's doorbell: TAIL; more records than the ring holds stop the slot (R219). -/
def execQueueDoorbell (slot tail : Nat) (s : State) : Out :=
  .next (if (slotOf s slot).st == 0 then s
    else
      let s := modSlot s slot fun q => { q with tail := BitVec.ofNat 16 tail }
      if 2 ^ (slotOf s slot).log2n < (slotOf s slot).avail then refuseSlot s slot 9 else s)

/-- Ring records that the record at HEAD fills, as far as its header says. (DEDUCED, log 75) -/
def headNeed (s : State) (q : QSlot) (c : Ctx) : Nat :=
  match frontRead s q.ctx c (q.rbase.toNat + 128 * (q.head.toNat % 2 ^ q.log2n)) 2 with
  | .ok bs => if fld bs 0 1 == 2 && (firstErr (headerConds s q.vf bs ++ graphConds bs)).isNone then fld bs 16 1 + 1 else 1
  | _ => 1

/-- The front-end takes the record at HEAD, or refuses it (R226). It holds one record that has not begun. -/
def recordTake (s : State) (slot : Nat) : State :=
  let q := slotOf s slot
  match Tbl.get? s.ctxs q.ctx with
  | none => s
  | some c =>
    if q.st != 1 || c.stopped || c.held || q.avail == 0 || (recsOf s slot).any (fun e => !e.2.begun) || q.avail < headNeed s q c then s
    else
      match takeRecord s slot q q.ctx c with
      | .wait => s
      | .refuse e => refuseSlot (touchReads s q.ctx c [(q.rbase.toNat + 128 * (q.head.toNat % 2 ^ q.log2n), 128)]) slot e
      | .ok (r, n) =>
        let s := touchReads s q.ctx c (r.reads q n)
        { modSlot s slot (fun q => { q with head := q.head + BitVec.ofNat 16 n }) with
          recs := Tbl.set s.recs s.nextRec r, nextRec := s.nextRec + 1 }

/-- The front-end takes a record (R226). -/
def execRecordTake (slot : Nat) (s : State) : Out := .next (recordTake s slot)

/-! Beginning (R220). -/

/-- A record may begin: its slot runs, the record before it has retired where ORD asks for it, WDC, at most 16 begun (R220). The record before it is
the last that began, or was cancelled before it began (R13; DEDUCED, log 151). -/
def mayBegin (s : State) (slot : Nat) (r : Rec) : Bool :=
  (slotOf s slot).st == 1 && !r.begun
    && (!r.ord || (match (slotOf s slot).last with | some n => (Tbl.get? s.recs n).isNone | none => true))
    && (match r.wdc with | some n => r.wval ≤ (SMap.get s.depc n).toNat | none => true)
    && ((recsOf s slot).filter fun e => e.2.begun).length < 16

/-- A pass that begins. -/
def newPass (cid : Nat) (tab : List (BitVec 128)) : PassSt :=
  { ctx := cid, surf := tab, taken := [], done := [], bins := [], base := 0, prog := [], cur := [], bufs := [], spilled := [], binFull := false,
    touched := [], storing := [], stored := [], commits := [], refused := false }

/-- What a record's body starts (R220 to R225). -/
def beginBody (s : State) (slot rid cid : Nat) (c : Ctx) (r : Rec) : State :=
  let go := modSlot (modRec s rid fun r => { r with begun := true, began := s.steps }) slot fun q => { q with last := some rid }
  match r.body with
  | .launch d addr =>
    let l := newLaunch cid slot rid 0 d addr (nth r.objs 0 none) []
    if (allotArea s c l).isSome then beginLaunch go l else s
  | .graph ms pm _ => beginMembers go rid r ms (graphReady r pm ms.length)
  | .pass _ tab => { go with passes := Tbl.set go.passes rid (newPass cid tab) }
  | .wait _ => checkWake (modSlot go slot fun q => { q with st := 2 }) slot

/-- The taken record of a slot begins (R220). -/
def recordBegin (s : State) (slot : Nat) : State :=
  match (recsOf s slot).find? fun e => !e.2.begun, Tbl.get? s.ctxs (slotOf s slot).ctx with
  | some (rid, r), some c => if mayBegin s slot r then beginBody s slot rid (slotOf s slot).ctx c r else s
  | _, _ => s

/-- The taken record of a slot begins (R220). -/
def execRecordBegin (slot : Nat) (s : State) : Out := .next (recordBegin s slot)

/-! Choosing a point (R13, R233, R248 to R251). -/

/-- The k-th number that a rising list does not hold. -/
def kthFree (used : List Nat) (k : Nat) : Nat :=
  match used with
  | [] => k
  | u :: r => if u ≤ k then kthFree r (k + 1) else k

/-- The fireable point of lowest rank, row after row (R250). -/
def lowestFireable (l : Launch) : Option Nat :=
  (List.range l.desc.nrow).findSome? fun r =>
    ((List.range 65).map fun b => r * l.desc.ni + ((rowAt l r).pfx + b)).find? fun k => k / l.desc.ni == r && fireable l k

/-- The point that a launch offers: the lowest fireable, or one not fired chosen freely (R13, R250; DESIGN CHOICE, log 2). (DESIGN CHOICE, log 77) -/
def nextPoint (s : State) (l : Launch) : Option (Nat × State) :=
  if l.desc.vectors then (lowestFireable (wholeLaunch s l)).map fun r => (r, s)
  else
    let used := l.flying.foldr insertUp l.done
    let n := l.desc.points - used.length
    if n = 0 then none
    else let f := freshNat s; some (kthFree used (f.1 % n), f.2)

/-- The context has a trap record that an invocation could serve: its points wait (R149). -/
def handlerDue (s : State) (cid : Nat) (c : Ctx) : Bool := !c.queues.trapq.isEmpty && inService s cid < 4

/-- A saved block of the launch waits to be placed again (R238). -/
def savedBlocks (s : State) (lid : Nat) : Bool := s.blocks.any fun e => e.2.saved && e.2.ofLaunch lid

/-- A front-end considers a launch (R233). (DEDUCED, log 74) -/
def considers (s : State) (lid : Nat) (l : Launch) : Bool :=
  match Tbl.get? s.ctxs l.ctx with
  | some c => l.st == .running && mayStart s l.ctx c && !handlerDue s l.ctx c && !savedBlocks s lid
  | none => false

/-- The step at which a launch's record began. -/
def beganAt (s : State) (l : Launch) : Nat := match Tbl.get? s.recs l.recId with | some r => r.began | none => 0

/-- Of two launches that wait for an entry, the first takes it: its record began earlier, or, of one record, it began earlier itself (R251). -/
def entryBefore (s : State) (a b : Launch) : Bool := beganAt s a < beganAt s b || (beganAt s a == beganAt s b && a.lser < b.lser)

/-- Launches that hold an entry of the frontier table, and those that wait for one before a launch (R251). (DEDUCED, log 78) -/
def entriesAhead (s : State) (l : Launch) : Nat :=
  (s.launches.filter fun e => e.2.entry || (e.2.desc.vectors && entryBefore s e.2 l && considers s e.1 e.2)).length

/-- A launch holds an entry, needs none, or may take one (R251). -/
def entryOk (s : State) (l : Launch) : Bool := !l.desc.vectors || l.entry || entriesAhead s l < 32

/-- The order in which a front-end tries launches: PRI, then slots after the one last chosen, then age (R233). (DEDUCED, log 76) -/
def tryBefore (s : State) (rr : Nat) (a b : Launch) : Bool :=
  let p := fun (l : Launch) => (slotOf s l.slot).pri
  let d := fun (l : Launch) => (l.slot + 1023 - rr) % 1024
  p b < p a || (p a == p b && (d a < d b || (d a == d b && a.lser ≤ b.lser)))

/-- Insert a launch in that order. -/
def insertTry (s : State) (rr : Nat) (x : Nat × Launch) (l : List (Nat × Launch)) : List (Nat × Launch) :=
  match l with
  | [] => [x]
  | y :: r => if tryBefore s rr x.2 y.2 then x :: y :: r else y :: insertTry s rr x r

/-- The launches that a cluster's front-end tries, in order. -/
def tryList (s : State) (cluster : Nat) : List (Nat × Launch) :=
  (s.launches.filter fun e => considers s e.1 e.2).foldr (insertTry s (clusterSt s cluster).rr) []

/-- The logical cores that a launch's blocks may take: its context's, or its pass's (R205, R234). -/
def launchCores (s : State) (c : Ctx) (l : Launch) : List Nat :=
  match passHdr s l.recId with
  | some h => h.coreSet
  | none => List.range c.cores.length

/-- The tiles whose turn has come for a tile dispatch, on cores of a cluster: the tile stands at the dispatch, its core holds it, and no earlier
dispatch has a block on it (R205, R215). -/
def tileOffers (s : State) (cluster : Nat) (l : Launch) (c : Ctx) : List Nat :=
  match Tbl.get? s.passes l.recId, passHdr s l.recId with
  | some p, some h =>
    (List.range (h.tx * h.ty)).filter fun t =>
      Tbl.get? p.cur (h.tileCore t) == some (some t) && tilePos p t == (l.member, 0, 0)
        && nth c.cores (h.tileCore t) 0 / 4 == cluster && !dispatchDue s l.recId t l.member
  | _, _ => []

/-- A launch offers a point: one is fireable (R13, R241). -/
def offers (s : State) (lid : Nat) : Bool :=
  match Tbl.get? s.launches lid with
  | none => false
  | some l =>
    considers s lid l &&
      (if l.tiled then (match Tbl.get? s.ctxs l.ctx with | some c => (List.range 12).any fun k => !(tileOffers s k l c).isEmpty | none => false)
       else (nextPoint s l).isSome)

/-- The point fires: it joins the in-flight set and its block starts (R12, R221, R248). -/
def fireAt (s : State) (cluster lid : Nat) (l : Launch) (c : Ctx) (rank : Nat) (cores : List Nat) (ps : List (List Nat)) : State :=
  let s := modLaunch s lid fun l => { l with flying := insertUp rank l.flying }
  let s := modCluster s cluster fun k => { k with rr := l.slot }
  let s := if (Tbl.get? s.sys.unfit l.slot).any (·.1 == lid) then { s with sys := { s.sys with unfit := Tbl.erase s.sys.unfit l.slot } } else s
  startDesc s c (newBlock l.ctx (.point lid rank) (l.desc.ptOf rank) (some l.slot) l.desc.kr.foot []) l.desc l.addr cores ps

/-- A launch with vectors takes its entry, and the pages that a point's rule reads are resident (R251, R252); none where they cannot be. -/
def readyPoint (s : State) (lid : Nat) (l : Launch) (rank : Nat) : Option State :=
  if !l.desc.vectors then some s
  else
    let ps := pointPages l.desc rank
    needPages (modLaunch s lid fun l => { l with entry := true }) lid ps ps

/-- A launch of a slot has a point that found no fit: since when, where none of another launch waits there (R241). -/
def noteUnfit (s : State) (slot lid : Nat) : State :=
  let set := fun (_ : Unit) => { s with sys := { s.sys with unfit := Tbl.set s.sys.unfit slot (lid, s.time) } }
  match Tbl.get? s.sys.unfit slot with
  | some e => if e.1 = lid || offers s e.1 then s else set ()
  | none => set ()

/-- The core of a tile, with the partitions for a dispatch's block, where it fits. -/
def tileFit (s : State) (l : Launch) (c : Ctx) (t : Nat) : Option (Nat × List Nat) :=
  match passHdr s l.recId with
  | none => none
  | some h =>
    let core := nth c.cores (h.tileCore t) 0
    if coreUsable s core then (fitCore s core l.desc.kr.foot 0).map fun ps => (core, ps) else none

/-- A tile's point of a dispatch fires: the tile goes on to the next item (R215). -/
def fireTile (s : State) (cluster lid : Nat) (l : Launch) (c : Ctx) (t : Nat) (core : Nat) (ps : List Nat) : State :=
  let s := modPass s l.recId fun p => { p with prog := Tbl.set p.prog t (l.member + 1, 0, 0) }
  fireAt s cluster lid l c t [core] [ps]

/-- Fire the first point of a list of launches whose block fits on the cluster. A dispatch offers a tile that fits, chosen freely (DESIGN CHOICE, log 2). -/
def fireFrom (cluster : Nat) (l : List (Nat × Launch)) (s : State) : State :=
  match l with
  | [] => s
  | (lid, x) :: r =>
    match Tbl.get? s.ctxs x.ctx with
    | none => fireFrom cluster r s
    | some c =>
      if x.tiled then
        let offers := tileOffers s cluster x c
        let fits := offers.filter fun t => (tileFit s x c t).isSome
        let f := freshNat s
        let t := nth fits (f.1 % fits.length) 0
        match (if fits.isEmpty then none else tileFit s x c t) with
        | some (core, ps) => fireTile f.2 cluster lid x c t core ps
        | none => fireFrom cluster r (if offers.isEmpty then s else noteUnfit s x.slot lid)
      else
        match nextPoint s x with
        | none => fireFrom cluster r s
        | some (rank, s') =>
          if !entryOk s x then fireFrom cluster r s
          else
            match bestCores s c cluster (launchCores s c x) x.desc.kr.foot with
            | none => fireFrom cluster r (noteUnfit s x.slot lid)
            | some (cores, ps) =>
              match readyPoint s' lid x rank with
              | some s' => fireAt s' cluster lid x c rank cores ps
              | none => fireFrom cluster r s

/-- A cluster's front-end fires a point (R233). -/
def execPointFire (cluster : Nat) (s : State) : Out := .next (if cluster < 12 then fireFrom cluster (tryList s cluster) s else s)

/-! Handler invocations (R149). -/

/-- The footprint of a handler block. -/
def HandlerKernel.foot (k : HandlerKernel) : Foot :=
  { groups := 1, w := k.width, base := k.vregs, pool := k.pool, scratch := k.scratch, shared := k.shared, tlines := k.tlines,
    tways := k.tways, bcores := 1 }

/-- The cores where a handler block of a context fits, with its partitions: the first cluster, from one chosen freely on (R149; DESIGN CHOICE, log 2). (DESIGN CHOICE, log 79) -/
def handlerFit (s : State) (c : Ctx) (f : Foot) (clusters : List Nat) : Option (List Nat × List (List Nat)) :=
  clusters.findSome? fun n => bestCores s c n (List.range c.cores.length) f

/-- An access that a lane issued before it parked for a record has still to be performed: the invocation that serves it waits (R374). -/
def recordDue (s : State) (r : TrapRec) : Bool :=
  match r.since with
  | none => false
  | some (gid, n) => s.mem.pend.any fun p => match p with | .acc a => a.gid == gid && a.seq ≤ n && a.val.isNone | _ => false

/-- A handler invocation starts for the oldest record not in service (R149). -/
def handlerEntry (s : State) (cid : Nat) : State :=
  match Tbl.get? s.ctxs cid with
  | none => s
  | some c =>
    match c.handler, c.queues.trapq with
    | some k, r :: rest =>
      let f := freshNat s
      if 4 ≤ inService s cid || !mayFinish s cid c || recordDue s r then s
      else
        match handlerFit f.2 c (HandlerKernel.foot k) ((List.range 12).map fun n => (n + f.1) % 12) with
        | none => s
        | some (cores, ps) =>
          let s := modCtx f.2 cid fun c => { c with queues := { c.queues with trapq := rest } }
          let b := newBlock cid .handler r.pt r.slot (HandlerKernel.foot k) (logicalOf c cores)
          startBlock s b cores ps fun _ pl =>
            { newGroup k.width k.vregs k.entry (lanesOf k.width) [r.handle, r.cause, r.pc, r.addr] pl s.steps with handler := some r }
    | _, _ => s

/-- A handler invocation starts (R149). -/
def execHandlerEntry (ctx : Nat) (s : State) : Out := .next (handlerEntry s ctx)

/-! Active slots (R12, R235). -/

/-- A group is ready for an active slot: it has a runnable fibre, waits for nothing and holds none. -/
def slotReady (s : State) (e : Nat × Group) : Bool :=
  e.2.place.slot.isNone && e.2.wait.isNone && e.2.fibres.any (fun f => f.2.st == .runnable) && blockResident s (bsnOf e.1)

/-- Enters before another of the same partition: ready first, then the lower GIDX, then the older block (R235). -/
def entersFirst (a b : Nat × Group) : Bool :=
  a.2.readyAt < b.2.readyAt || (a.2.readyAt == b.2.readyAt &&
    (gidxOf a.1 < gidxOf b.1 || (gidxOf a.1 == gidxOf b.1 && a.1 ≤ b.1)))

/-- The free active slot of a partition, the lowest of 4. -/
def freeActive (s : State) (core part : Nat) : Option Nat :=
  (List.range 4).find? fun k => !((residents s core).any fun e => e.2.place.part == part && e.2.place.slot == some k)

/-- A group enters an active slot of its partition, its latches invalid (R92, R235). -/
def activeSlotEntry (s : State) (gid : Nat) : State :=
  match Tbl.get? s.groups gid with
  | none => s
  | some g =>
    let first := (residents s g.place.core).all fun e =>
      !(e.2.place.part == g.place.part && slotReady s e) || entersFirst (gid, g) e
    match freeActive s g.place.core g.place.part with
    | none => s
    | some k =>
      if !slotReady s (gid, g) || !first then s
      else
        let g := { g with place := { g.place with slot := some k }, regs := { g.regs with ring := [] } }
        { modGroup s gid (fun _ => switchPoint g none) with ready := s.ready ++ [gid] }

/-- A group enters an active slot (R235). -/
def execActiveSlotEntry (gid : Nat) (s : State) : Out := .next (activeSlotEntry s gid)

end Sys2Proof.Machine
end

