-- ==== Sys2Proof/Machine/Retire.lean ====
section
/-! DEFINITION. Claim deadlock, the retirement of points and launches, and the commit of deterministic sums (R11, R36, R89, R173, R230, R249). -/

namespace Sys2Proof.Machine

/-! Claim deadlock (R89). -/

/-- A group is blocked: every fibre waits in `v.claim`, `bar.sync` or `bar.team`. -/
def blockedGroup (g : Group) : Bool :=
  (match g.wait with
   | some w => (match w.kind with | .claim _ => true | .barSync _ => true | .barTeam _ => true | _ => false)
   | none => false)
  && g.fibres.all fun f => f.2.st == .waiting

/-- The head claim of a core is satisfiable. -/
def headMeets (s : State) (core : Nat) : Bool := match headClaim s core with | some (_, n, free) => n ≤ free | none => false

/-- A barrier of a block or team has the arrivals it needs. -/
def barFull (s : State) (bsn : Nat) (b : Block) : Bool :=
  let full := fun (team : Option Nat) (n : Nat) => (barOf b team n).arr != 0 && (barOf b team n).arr == liveOf s bsn b team
  (List.range 4).any fun n => full none n || (List.range b.foot.bcores).any fun c => full (some c) n

/-- A group waits in a claim. -/
def claims (g : Group) : Bool :=
  match g.wait with | some w => (match w.kind with | .claim _ => true | _ => false) | none => false

/-- The three conditions (R89). -/
def claimDead (s : State) (bsn : Nat) (b : Block) : Bool :=
  !b.saved && (groupsOf s bsn).any (fun e => claims e.2) && (groupsOf s bsn).all (fun e => blockedGroup e.2)
    && (blockCores s b).all (fun c => !headMeets s c) && !barFull s bsn b

/-- The claim of a group is withdrawn. -/
def withdrawClaim (s : State) (gid : Nat) : State := dropWait { s with claimq := s.claimq.map fun e => (e.1, e.2.filter (· != gid)) } gid

/-- The fibre of a withdrawn claim parks at it; its record. -/
def parkClaim (r : List (Here × TrapRec) × State) (e : Nat × Wait) : List (Here × TrapRec) × State :=
  let s := r.2
  match hereOf s e.1 e.2.fib with
  | none => r
  | some h =>
    if h.f.pred = 0 then (r.1, h.advance s e.2.len)
    else
      match parkLanes s h h.f.pred h.f.pc h.f.micro with
      | none => r
      | some (s, fnum, _) => (r.1 ++ [(h, trapRec s h fnum h.f.pc 1 0x011 0 0)], afterSwitch s e.1 none)

/-- The record of a claim-deadlock fault is placed; a handler's stops its context, and a context stopped by another of them takes no more (R149, R150). -/
def placeClaim (s : State) (e : Here × TrapRec) : State :=
  if (match Tbl.get? s.ctxs e.1.cid with | some c => c.stopped | none => true) then s
  else if e.1.isHandler then stopContext s e.1.cid e.2.cause
  else placeRecord s e.1.cid e.2

/-- The claims of groups fail: all are withdrawn, every fibre parks at its claim with claim-deadlock, and then the records are placed (R89, R406). -/
def failClaims (s : State) (l : List (Nat × Group)) : State :=
  let ws := l.filterMap fun e => e.2.wait.map fun w => (e.1, w)
  let r := ws.foldl parkClaim (([] : List (Here × TrapRec)), (ws.map (·.1)).foldl withdrawClaim s)
  r.1.foldl placeClaim r.2

/-- The claim-deadlock fault on a block (R89). -/
def execClaimDeadlock (bsn : Nat) (s : State) : Out :=
  match Tbl.get? s.blocks bsn with
  | none => .next s
  | some b =>
    .next (if claimDead s bsn b then
      let s' := failClaims s ((groupsOf s bsn).filter fun e => claims e.2)
      (blockCores s b).foldl grantHead s'
    else s)

/-! Points (R11, R249). -/

/-- The block of a point may be over: the page of its row can be made resident, unless its launch was cancelled (R249, R252). -/
def rowReady (s : State) (lid rank : Nat) : Bool :=
  match Tbl.get? s.launches lid with
  | none => true
  | some l => l.st == .cancelled || (rowResident s lid rank).isSome

/-- The block of a point is over: the point retires, or its cancelled launch goes on to its retirement (R14, R249). -/
def pointOver (s : State) (lid rank : Nat) : State :=
  match Tbl.get? s.launches lid with
  | none => s
  | some l => if l.st == .cancelled then finishLaunch s lid else retirePointOf s lid rank

/-- A point retires, or the block of a pass item ends (R11, R249). -/
def pointRetire (s : State) (bsn : Nat) : State :=
  match Tbl.get? s.blocks bsn with
  | none => s
  | some b =>
    if b.saved || !(groupsOf s bsn).isEmpty || blockDue s bsn then s
    else
      match b.of with
      | .point lid rank => if rowReady s lid rank then pointOver (dropBlock s bsn) lid rank else s
      | .handler => dropBlock s bsn
      | .pass pid _ _ => finishCancelled (dropBlock s bsn) pid

/-- A point retires (R249). -/
def execPointRetire (bsn : Nat) (s : State) : Out := .next (pointRetire s bsn)

/-! The commit (R36, R173). -/

/-- Key order: PRANK, LRANK, SEQ. -/
def contribLe (a b : Contrib) : Bool :=
  a.prank < b.prank || (a.prank == b.prank && (a.lrank < b.lrank || (a.lrank == b.lrank && a.seq ≤ b.seq)))

/-- Insert by key. -/
def insertContrib (x : Contrib) (l : List Contrib) : List Contrib :=
  match l with
  | [] => [x]
  | y :: r => if contribLe x y then x :: y :: r else y :: insertContrib x r

/-- The log in key order. -/
def sortLog (l : List Contrib) : List Contrib := l.foldr insertContrib []

/-- Bytes of a contribution's target. -/
def Contrib.size (c : Contrib) : Nat := if c.f64 then 8 else 4
/-- The memory of a target. -/
def Contrib.space (c : Contrib) : Space := match c.peer with | some p => .peer p | none => if c.host then .host else .loc
/-- Two targets share a byte. -/
def Contrib.meets (a b : Contrib) : Bool := a.space == b.space && a.pa < b.pa + b.size && b.pa < a.pa + a.size
/-- One target of the commit. -/
def Contrib.same (a b : Contrib) : Bool := a.space == b.space && a.pa == b.pa && a.f64 == b.f64

/-- A contribution that overlaps one of the other type: its target keeps its value. -/
def conflicts (l : List Contrib) (c : Contrib) : Bool := l.any fun d => d.f64 != c.f64 && d.meets c

/-- The value of a target after its contributions, in key order (R36). -/
def commitSum (f64 : Bool) (v : Nat) (l : List Contrib) : Nat :=
  match l with
  | [] => v
  | c :: r => commitSum f64 ((fmtOf (if f64 then .f64 else .f32)).add .rne v (c.value.toNat % 2 ^ (if f64 then 64 else 32))) r

/-- Write one target: local and host memory at once, a peer's over the fabric, in the name of the launch. -/
def commitTarget (s : State) (cid lid : Nat) (c : Contrib) (l : List Contrib) : State :=
  let old := leNat (readPhys s.mem c.space c.pa c.size)
  let bs := natLE c.size (commitSum c.f64 old l)
  match c.space with
  | .peer n =>
    sendPeer { s with mem := { s.mem with tick := s.mem.tick + 1 } }
      { gid := launchGid lid, pc := 0, ctx := cid, lane := 0, seq := s.steps, space := .peer n, pa := c.pa, n := c.size, kind := .loose, vpa := c.vpa,
        world := c.world, op := .store bs, dst := none, val := none, micro := none, tied := none }
  | sp => writeFor s cid sp c.pa c.vpa bs

/-- Commit the targets of a list in key order, each once, at its first contribution. -/
def commitAll (s : State) (cid lid : Nat) (l all : List Contrib) (done : List Contrib) : State :=
  match l with
  | [] => s
  | c :: r =>
    if done.any (fun d => d.same c) || conflicts all c then commitAll s cid lid r all done
    else commitAll (commitTarget s cid lid c (all.filter fun d => d.same c)) cid lid r all (c :: done)

/-- Every point of a launch has retired. -/
def Launch.allRetired (l : Launch) : Bool := l.retn == l.desc.points && l.flying.isEmpty

/-- Another launch has committed and not retired: commits follow the order of retirements (R174). -/
def commitWaits (s : State) : Bool := s.launches.any fun e => e.2.st == .committed || e.2.st == .retiring

/-- A target on a peer overlaps a write of the context that is not acknowledged: the commit stalls (R376). -/
def targetHeld (s : State) (cid : Nat) (c : Contrib) : Bool :=
  c.peer.isSome && s.mem.fab.any fun e => e.ctx == cid && e.writes && e.space == c.space && e.pa < c.pa + c.size && c.pa < e.pa + e.n

/-- The commit of a launch whose points have all retired (R11, R173, R174); its writes to peer pages find room in the counter of R351. -/
def detCommit (s : State) (lid : Nat) : State :=
  match Tbl.get? s.launches lid with
  | none => s
  | some l =>
    if l.st != .running || !l.allRetired || commitWaits s || l.log.any (targetHeld s l.ctx) || !ackRoom s l.ctx (l.log.filter fun c => c.peer.isSome).length then s
    else
      let log := sortLog l.log
      let s := commitAll s l.ctx lid log log []
      modLaunch s lid fun l => { l with st := .committed, log := [], status := if log.any (conflicts log) then .conflict else l.status }

/-- A launch's deterministic sums are committed (R173). -/
def execDetCommit (launch : Nat) (s : State) : Out := .next (detCommit s launch)

/-! Launches (R11, R230). -/

/-- A committed launch retires once its peer targets are acknowledged (R173). -/
def launchRetire (s : State) (lid : Nat) : State :=
  match Tbl.get? s.launches lid with
  | none => s
  | some l =>
    if l.st != .committed || inFlight s (fun a => a.gid == launchGid lid) then s
    else retireLaunch s lid l.status l.tails l.chain

/-- A launch retires (R11). -/
def execLaunchRetire (launch : Nat) (s : State) : Out := .next (launchRetire s launch)

end Sys2Proof.Machine
end

