-- ==== Sys2Proof/Machine/Deliver.lean ====
section
/-! DEFINITION. Deliveries: signals, event records, accesses that are performed, data that returns (R152, R153, R163, R166, R232, R345). -/

namespace Sys2Proof.Machine

/-- The entries in flight before entry `k`. -/
def before (s : State) (k : Nat) : List Pend := s.mem.pend.take k

/-- An access of a group among the entries has not been performed. -/
def accDue (gid : Nat) (l : List Pend) : Bool :=
  l.any fun p => match p with | .acc a => a.gid == gid && a.val.isNone | _ => false

/-- What a group issued before entry `k` is not all performed at device scope: accesses, peer acknowledgements, copies, `acc.st` (R153). (DEDUCED, log 83) -/
def earlierDue (s : State) (k gid : Nat) : Bool :=
  accDue gid (before s k) || groupOnFabric s gid || copiesDue s gid || accStoresDue s gid

/-! Signals (R152, R153, R225). -/

/-- The bits of a signal reach their target: a slot of the context's VF at that time, or the context's doorbell (DESIGN CHOICE, log 139). -/
def signalArrive (s : State) (cid : Nat) (slot : Option Nat) (v : W64) : State :=
  match slot with
  | none => modCounts s cid fun k => { k with mgmt := k.mgmt ||| v }
  | some n =>
    match Tbl.get? s.ctxs cid with
    | none => s
    | some c => if slotOfVf s n c.vf then checkWake (modSlot s n fun q => { q with wake := q.wake ||| v }) n else s

/-- A held signal is delivered (R153). -/
def execSignalDelivery (k : Nat) (s : State) : Out :=
  match s.mem.pend[k]? with
  | some (.signal gid cid slot v) => .next (if earlierDue s k gid then s else signalArrive (dropPend s k) cid slot v)
  | _ => .next s

/-- The management core reads a context's doorbell and clears it (R152). -/
def execMgmtDoorbellRead (ctx : Nat) (s : State) : Out := .next (modCounts s ctx fun k => { k with mgmt := 0 })

/-- An event record is written, or dropped and counted (R232). -/
def execEventRecordWrite (k : Nat) (s : State) : Out :=
  match s.mem.pend[k]? with
  | some (.event gid cid r) => .next (if earlierDue s k gid then s else pushEvent (dropPend s k) cid r)
  | _ => .next s

/-! Accesses (R163, R166). -/

/-- Put entry `k`. -/
def putPend (s : State) (k : Nat) (p : Pend) : State := { s with mem := { s.mem with pend := modifyAt s.mem.pend k fun _ => p } }

/-- Access `k` is performed: a peer's leaves for the fabric; one with a destination keeps its data until they return (R163, R351). -/
def performAt (s : State) (k : Nat) (a : Acc) : State :=
  if a.isPeer then sendPeer (dropPend s k) a
  else
    let r := performAcc s a
    if a.dst.isSome then putPend r.1 k (.acc { a with val := some r.2 }) else dropPend r.1 k

/-- Entry `k` is an access that may be performed. -/
def mayAt (s : State) (k : Nat) : Bool :=
  match s.mem.pend[k]? with | some (.acc a) => a.val.isNone && mayPerform s (before s k) a | _ => false

/-- Where the other half of an access in one page stands (R366). -/
def otherHalf (s : State) (a : Acc) : Option Nat :=
  (List.range s.mem.pend.length).find? fun i => match s.mem.pend[i]? with | some (.acc b) => a.halves b | _ => false

/-- Access `k` is performed, with its other half where it is one of two in one page, the later entry first (R366). -/
def performWhole (s : State) (k : Nat) (a : Acc) : State :=
  match otherHalf s a with
  | none => performAt s k a
  | some j =>
    match mayAt s j, s.mem.pend[j]? with
    | true, some (.acc b) => if j < k then performAt (performAt s k a) j b else performAt (performAt s j b) k a
    | _, _ => s

/-- A store, atomic or load is performed; a texture read completes; a barrier update held back takes effect (R163, R293, R345). -/
def execMemoryAccessPerform (k : Nat) (s : State) : Out :=
  match s.mem.pend[k]? with
  | some (.acc a) => .next (if mayAt s k then performWhole s k a else s)
  | some (.tex x) => .next (texComplete (dropPend s k) x)
  | some (.barrier gid addr post n) => .next (if earlierDue s k gid then s else applyBar (dropPend s k) gid addr post n)
  | _ => .next s

/-- An access of a group has its data. -/
def hasData (gid : Nat) (p : Pend) : Bool := match p with | .acc a => a.gid == gid && a.val.isSome | _ => false

/-- Return the data of the accesses of a list that have them. -/
def returnAll (gid : Nat) (l : List Pend) (s : State) : State :=
  match l with
  | [] => s
  | .acc a :: r =>
    returnAll gid r (match a.val with | some bs => if a.gid == gid then returnData s gid a.dst bs else s | none => s)
  | _ :: r => returnAll gid r s

/-- The data of a group's performed loads and atomics arrive in their registers (R166). -/
def execLoadDataReturn (gid : Nat) (s : State) : Out :=
  let t := returnAll gid s.mem.pend s
  .next { t with mem := { t.mem with pend := t.mem.pend.filter fun p => !hasData gid p } }

end Sys2Proof.Machine
end

