-- ==== Sys2Proof/Machine/Paging.lean ====
section
/-! DEFINITION. Frames: removal of translations, victims, page-out and page-in (R275, R276, R280, R281). -/

namespace Sys2Proof.Machine

/-! Removal of translations (R280, R281). -/

/-- A translation lies in a physical frame of local memory. -/
def entryInFrame (pfn : Nat) (e : TlbEntry) : Bool := e.space == .loc && e.base / 32768 == pfn
/-- An access lies in a frame. -/
def accInFrame (pfn : Nat) (a : Acc) : Bool := a.space == .loc && (a.pa / 32768 == pfn || (a.pa + a.n - 1) / 32768 == pfn)
/-- A placed piece lies in a frame. -/
def partInFrame (pfn : Nat) (p : Part) : Bool := p.space == .loc && (p.pa / 32768 == pfn || (p.pa + p.n - 1) / 32768 == pfn)

/-- A place of a scale, at most 4 bytes, as a piece of memory. -/
def PhysRef.part (r : PhysRef) : Part := { off := 0, n := 4, pa := r.pa, space := r.space, kind := .loose, vpa := r.vpa, world := 0, tied := none }

/-- The pieces of memory that an accepted operation has still to reach: those of `acc.ld` and `acc.st`, the scales of an `mm`. -/
def MashKind.parts (k : MashKind) : List Part :=
  match k with
  | .ld _ l => l
  | .st _ l => l
  | .mm op => (op.a.scales ++ op.b.scales).map PhysRef.part
  | _ => []

/-- An engine still works through a translation: a copy request, an accepted operation, or one that waits in the rendezvous latch (R192, R280). -/
def engineUses (s : State) (p : TlbEntry → Bool) (ctx : Nat → Bool) (q : Part → Bool) : Bool :=
  s.cores.any fun e => e.2.kicks.any (fun x => x.pages.any p) || e.2.mashq.any (fun o => ctx o.ctx && o.kind.parts.any q)
    || e.2.latch.any fun x => ctx x.ctx && (MashKind.mm x.op).parts.any q

/-- Keep the cached translations that a test does not choose (R280). -/
def dropTlb (s : State) (p : TlbEntry → Bool) : State :=
  let f := fun (t : Tbl (List TlbEntry)) => t.map fun e => (e.1, e.2.filter fun x => !p x)
  { s with mem := { s.mem with tlb := f s.mem.tlb, walk := f s.mem.walk } }

/-- Removal of the translations of a frame: its accesses are performed first; none where something through it is still due (R280, R281). -/
def clearFrame (s : State) (pfn : Nat) : Option State :=
  let s := settle s (accInFrame pfn)
  if inFlight s (fun a => accInFrame pfn a && a.val.isNone) || engineUses s (entryInFrame pfn) (fun _ => true) (partInFrame pfn) then none
  else some (dropTlb s (entryInFrame pfn))

/-- The same for frames from `lo` on. -/
def clearFrames (s : State) (l : List Nat) : Option State :=
  match l with
  | [] => some s
  | p :: r => match clearFrame s p with | some s => clearFrames s r | none => none

/-! Physical frames (R276). -/

/-- Frames of local memory in service. -/
def frameCount (s : State) : Nat := (if s.full then Config.localBytes else Config.stack0Bytes) / 32768

/-- Numbers of the physical frames that are not free, rising. -/
def usedFrames (s : State) : List Nat := (s.tables.pot.filter fun e => e.2.state != 0 && decide (e.1 < frameCount s)).map (·.1)

/-- A free physical frame, chosen freely (R276; DESIGN CHOICE, log 2). -/
def freeFrame (s : State) : Option (Nat × State) :=
  let u := usedFrames s
  let n := frameCount s - u.length
  if n = 0 then none else let f := freshNat s; some (kthFree u (f.1 % n), f.2)

/-- Put a frame map entry. -/
def setFrame (s : State) (vf frame : Nat) (e : Nat × Nat) : State :=
  { s with tables := { s.tables with frames := Tbl.set s.tables.frames (frameKey vf frame) e } }
/-- Put a POT entry. -/
def setPot (s : State) (pfn : Nat) (e : PotEntry) : State := { s with tables := { s.tables with pot := Tbl.set s.tables.pot pfn e } }

/-! Victims (R276). -/

/-- The tables that a page table names, itself first. -/
def tablesFrom (s : State) (c : Ctx) (t level : Nat) : List Nat :=
  t :: match level, tablePa s c t with
    | l + 1, .at_ pa =>
      (List.range 512).flatMap fun i =>
        let e := rdNat s.mem.loc (pa + 8 * i) 8
        if pteV e && !pteLeaf e then tablesFrom s c (pteAddr e) l else []
    | _, _ => []

/-- A VF's frame holds a page table, or a save area of one of its contexts (DESIGN CHOICE, log 22). -/
def frameKept (s : State) (vf frame : Nat) : Bool :=
  s.ctxs.any fun e => e.2.vf == vf &&
    ((e.2.saveArea / 32768 ≤ frame && frame ≤ e.2.saveEnd / 32768)
      || (tablesFrom s e.2 e.2.tbase.toNat 3).any fun t => t / 32768 == frame)

/-- The places of a VF's backing area in use. -/
def backUsed (s : State) (vf : Nat) : List Nat := (vfFrames s vf).filterMap fun e => if e.2.1 == 3 then some e.2.2 else none

/-- The lowest free place of a VF's backing area. -/
def backPlace (s : State) (vf : Nat) : Option Nat :=
  match (vfOf s vf).back with
  | none => none
  | some b => (List.range (b.2 / 32768)).find? fun n => !(backUsed s vf).contains n

/-- The victim VF (R276). -/
def victimVf (s : State) (want : Nat) : Nat :=
  match s.vfs.foldl (fun (m : Option (Nat × Nat)) e =>
      let excess := e.2.hf.toNat - e.2.gf.toNat
      if excess != 0 && (backPlace s e.1).isSome then (match m with | some x => if x.2 < excess then some (e.1, excess) else m | none => some (e.1, excess))
      else m) none with
  | some x => x.1
  | none => want

/-- The victim frame of a VF: resident, not accessed for longest, ties to the lower VPA (R276). -/
def victimFrame (s : State) (vf : Nat) : Option (Nat × Nat) :=
  let age := fun (pfn : Nat) => (Tbl.get? s.tables.age pfn).getD 0
  ((vfFrames s vf).filter fun e => e.2.1 == 1 && !frameKept s vf e.1).foldl (fun (m : Option (Nat × Nat)) e =>
    match m with
    | some x => if age e.2.2 < age x.2 then some (e.1, e.2.2) else m
    | none => some (e.1, e.2.2)) none

/-! Moving a frame's bytes. -/

/-- The ciphertext of a frame, by offset. -/
def cipherBytes (key stamp b : Nat) : SMap 8 :=
  (List.range 32768).filterMap fun i => let x := Config.cipherByte key stamp i; if x = 0 then none else some (b + i, x)

/-- Page out a VF's frame to its backing area (R276). -/
def pageOutFrame (s : State) (vf frame pfn : Nat) : Option State :=
  match (vfOf s vf).back, backPlace s vf, clearFrame s pfn with
  | some b, some n, some s =>
    let key := frameKey vf frame
    let w := (potEntry s pfn).world
    let at_ := b.1 + 32768 * n
    let f := freshNat s
    let plain := rangeAt s.mem.loc (pfn * 32768) 32768 0
    let out := if w = 0 then rangeAt s.mem.loc (pfn * 32768) 32768 at_ else cipherBytes key f.1 at_
    let s := if w = 0 then s else f.2
    let s := { s with mem := { dropLines s.mem pfn with host := putRange s.mem.host at_ 32768 out,
                                                         loc := putRange s.mem.loc (pfn * 32768) 32768 [] } }
    let s := { s with tables := { s.tables with
      paged := Tbl.set s.tables.paged key { world := w, stamp := f.1, plain := if w = 0 then [] else plain } } }
    let s := setPot (setFrame s vf frame (3, n)) pfn { vf := 0, state := 0, world := 63 }
    some (setVf s vf fun v => { v with hf := v.hf - 1 })
  | _, _, _ => none

/-- Some victim's frame could be taken for a VF, at once or when what uses it is over (R276). -/
def victimThere (s : State) (want : Nat) : Bool :=
  (victimFrame s (victimVf s want)).isSome && (backPlace s (victimVf s want)).isSome

/-- Evict a victim for a VF that needs a frame (R276). -/
def pageOut (s : State) (want : Nat) : Option State :=
  match victimFrame s (victimVf s want) with
  | none => none
  | some x => pageOutFrame s (victimVf s want) x.1 x.2

/-- Take a physical frame for a VF: a free one, or a victim's (R276). (DESIGN CHOICE, log 84) -/
def takeFrame (s : State) (vf : Nat) : Option (Nat × State) :=
  match freeFrame s with
  | some x => some x
  | none => match pageOut s vf with | some s => freeFrame s | none => none

/-- A victim is paged out for a VF, no physical frame being free (R276). -/
def execPageOut (vf : Nat) (s : State) : Out :=
  .next (if (freeFrame s).isSome then s else (pageOut s vf).getD s)

/-- The bytes that come back: as stored, or, where the ciphertext was changed outside, free ones (R270, R276; DESIGN CHOICE, log 22). -/
def pagedBytes (s : State) (key at_ : Nat) (p : Paged) (base : Nat) : SMap 8 × State :=
  if p.world = 0 then (rangeAt s.mem.host at_ 32768 base, s)
  else if rangeAt s.mem.host at_ 32768 at_ == cipherBytes key p.stamp at_ then (p.plain.map fun e => (base + e.1, e.2), s)
  else let f := freshNat s; (cipherBytes key f.1 base, f.2)

/-- Bring an absent frame back (R276). -/
def pageIn (s : State) (vf frame : Nat) : State :=
  let m := frameEntry s vf frame
  let v := vfOf s vf
  match v.back, Tbl.get? s.tables.paged (frameKey vf frame) with
  | some b, some p =>
    if m.1 != 3 || v.bf.toNat < v.hf.toNat + 1 then s
    else
      match takeFrame s vf with
      | none => s
      | some (pfn, s) =>
        let r := pagedBytes s (frameKey vf frame) (b.1 + 32768 * m.2) p (pfn * 32768)
        let s := { r.2 with mem := { r.2.mem with loc := putRange r.2.mem.loc (pfn * 32768) 32768 r.1 } }
        let s := { s with tables := { s.tables with paged := Tbl.erase s.tables.paged (frameKey vf frame),
                                                    age := Tbl.set s.tables.age pfn (s.time / 1000000) } }
        let s := setFrame (setPot s pfn { vf := vf, state := 1, world := p.world }) vf frame (1, pfn)
        setVf s vf fun v => { v with hf := v.hf + 1 }
  | _, _ => s

/-- An absent frame comes back; accesses that wait for it go on when they issue again (R276). -/
def execPageIn (vf frame : Nat) (s : State) : Out := .next (pageIn s vf frame)

end Sys2Proof.Machine
end

