-- ==== Sys2Proof/WellFormed.lean ====
section
/-! DEFINITION. Well-formed instructions: no static cause of illegal-instruction (R58) applies. -/

namespace Sys2Proof

/-- No field holds a value that R40 to R57 refuse. -/
def Instr.wf (i : Instr) : Bool := (Machine.fieldCauses i).isEmpty

end Sys2Proof
end

