-- ==== Sys2Proof/Decode.lean ====
section
/-! DEFINITION. The decoder (R38 to R57, R324, R325), total on any bytes, and after it the encoder. -/

namespace Sys2Proof

/-- Why bytes are no instruction. -/
inductive Reject where
  /-- fewer bytes than the instruction's length -/
  | truncated
  /-- major 0x7F or a reserved major: subcode 0x01 (R55) -/
  | reservedMajor
  /-- an FN code not listed: subcode 0x02 (R56) -/
  | unlistedFn
  /-- a refused prefix pairing: subcode 0x05 alone (R52) -/
  | refusedPairing
  /-- the halfword 0x0000: subcode 0x06 (R53) -/
  | zeroHalfword
  /-- a micro-op word not listed: subcode 0x0A (R325) -/
  | unlistedUop
  deriving DecidableEq, Repr

/-- An instruction with its length in bytes, or a rejection with the length and the prefix mask of the refused word. -/
inductive Decoded where
  | instr (i : Instr) (len : Nat)
  | reject (r : Reject) (len msk : Nat)
  deriving DecidableEq, Repr

/-- The subcode of illegal-instruction that a rejection reports (R58). -/
def Reject.subcode (r : Reject) : Nat :=
  match r with
  | .truncated => 0
  | .reservedMajor => 1
  | .unlistedFn => 2
  | .refusedPairing => 5
  | .zeroHalfword => 6
  | .unlistedUop => 10

/-- A field of a word: `len` bits from bit `lo`. -/
def field {n : Nat} (w : BitVec n) (lo len : Nat) : BitVec len := w.extractLsb' lo len

/-- The prefix's fields (R48). -/
def decPrefix (w : W32) : Prefix :=
  { d := field w 24 8, rnd := field w 21 3, msk := field w 18 3, zro := w.getLsbD 17, sb := field w 15 2,
    typ := field w 11 4, af := w.getLsbD 10, ahi := field w 8 2 }

/-- Format V (R40). -/
def decV (p : Option Prefix) (w : W32) : VFmt :=
  { pfx := p, b := field w 24 8, a := field w 16 8, nw := w.getLsbD 15, vd := field w 8 7 }
/-- Format VC (R45). -/
def decVC (p : Option Prefix) (w : W32) : VCFmt :=
  { pfx := p, b := field w 24 8, a := field w 16 8, cc := field w 12 4, rsv := w.getLsbD 11, kd := field w 8 3 }
/-- Format U (R45). -/
def decU (p : Option Prefix) (w : W32) : UFmt :=
  { pfx := p, a := field w 16 8, nw := w.getLsbD 15, vd := field w 8 7 }
/-- Format U with FN kept (R56). -/
def decUN (p : Option Prefix) (w : W32) : UNFmt :=
  { pfx := p, fn := field w 24 8, a := field w 16 8, nw := w.getLsbD 15, vd := field w 8 7 }
/-- Format S. -/
def decS (p : Option Prefix) (w : W32) : SFmt := { pfx := p, b := field w 24 8, a := field w 16 8, sd := field w 8 8 }
/-- Format SU. -/
def decSU (p : Option Prefix) (w : W32) : SUFmt := { pfx := p, a := field w 16 8, sd := field w 8 8 }
/-- Format SI. -/
def decSI (w : W32) : SIFmt := { imm := field w 16 16, sd := field w 8 8 }
/-- Format K. -/
def decK (p : Option Prefix) (w : W32) : KFmt :=
  { pfx := p, s := field w 24 8, ka := field w 16 3, rsv := field w 11 5, kd := field w 8 3 }
/-- Format M. -/
def decM (p : Option Prefix) (w : W32) : MFmt :=
  { pfx := p, b := field w 24 8, a := field w 16 8, sp := w.getLsbD 15, vd := field w 8 7 }
/-- Format J. -/
def decJ (p : Option Prefix) (w : W32) : JFmt := { pfx := p, off := field w 16 16, c := field w 8 8 }
/-- Format G. -/
def decG (p : Option Prefix) (w : W32) : GFmt := { pfx := p, b := field w 24 8, a := field w 16 8 }
/-- Format X. -/
def decX (p : Option Prefix) (w : W32) : XFmt :=
  { pfx := p, nf := field w 26 6, mf := field w 24 2, a := field w 16 8, fn := field w 8 8 }
/-- Format Y. -/
def decY (p : Option Prefix) (w : W32) : YFmt :=
  { pfx := p, sys := field w 20 12, fn := field w 16 4, a := field w 8 8 }
/-- Format XO. -/
def decXO (p : Option Prefix) (w : W32) : XOFmt :=
  { pfx := p, b := field w 24 8, a := field w 16 8, xi := field w 11 5, rsv := field w 8 3 }
/-- A 16-bit form (R53). -/
def decC (h : Half) : CFmt := { vd := field h 7 5, b := field h 1 6 }
/-- A micro-op word (R324). -/
def decUop (w : W64) : UopFmt :=
  { d := field w 52 4, a := field w 48 4, b := field w 44 4, c := field w 40 4, rsvHi := w.getLsbD 39,
    sp := w.getLsbD 38, rsvLo := field w 32 6, imm := field w 0 32 }

/-- The major opcode (R40). -/
def majorOf (w : W32) : Nat := (field w 1 7).toNat

/-- The sub-functions of major 0x24 (R56). -/
def fn24 (fn : Nat) (f : UFmt) : Option Instr :=
  match fn with
  | 0 => some (.vmov f)
  | 1 => some (.vnot f)
  | 2 => some (.vneg f)
  | 3 => some (.vabs f)
  | 4 => some (.vpopc f)
  | 5 => some (.vclz f)
  | 6 => some (.vctz f)
  | 7 => some (.vbrev f)
  | 8 => some (.vfneg f)
  | 9 => some (.vfabs f)
  | 10 => some (.vfsqrt f)
  | 11 => some (.vfrnd f)
  | _ => none

/-- The sub-functions of major 0x26 (R56). -/
def fn26 (fn : Nat) (f : UFmt) : Option Instr :=
  match fn with
  | 0 => some (.vsfuSin f)
  | 1 => some (.vsfuCos f)
  | 2 => some (.vsfuExp2 f)
  | 3 => some (.vsfuLog2 f)
  | 4 => some (.vsfuRcp f)
  | 5 => some (.vsfuRsqrt f)
  | _ => none

/-- The sub-functions of major 0x27 (R56). -/
def fn27 (fn : Nat) (f : UFmt) : Option Instr :=
  match fn with
  | 0 => some (.vredSum f)
  | 1 => some (.vredMax f)
  | 2 => some (.vredMin f)
  | _ => none

/-- The sub-functions of major 0x44 (R56). -/
def fn44 (fn : Nat) (f : SUFmt) : Option Instr :=
  match fn with
  | 0 => some (.smov f)
  | 1 => some (.snot f)
  | 2 => some (.sneg f)
  | 3 => some (.spopc f)
  | 4 => some (.sclz f)
  | 5 => some (.sctz f)
  | _ => none

/-- The sub-functions of major 0x47 (R56). -/
def fn47 (fn : Nat) (f : KFmt) : Option Instr :=
  match fn with
  | 0 => some (.kand f)
  | 1 => some (.kor f)
  | 2 => some (.kxor f)
  | 3 => some (.kandn f)
  | 4 => some (.knot f)
  | 5 => some (.kfromv f)
  | 6 => some (.kfroms f)
  | 7 => some (.ktos f)
  | _ => none

/-- The sub-functions of major 0x5F (R56). -/
def fn5F (fn : Nat) (f : GFmt) : Option Instr :=
  match fn with
  | 0 => some (.fibJoin f)
  | 1 => some (.fibExit f)
  | 2 => some (.fibYield f)
  | 3 => some (.ret f)
  | 4 => some (.brInd f)
  | 5 => some (.callInd f)
  | 6 => some (.nop f)
  | _ => none

/-- The sub-functions of major 0x64 (R56). -/
def fn64 (fn : Nat) (f : GFmt) : Option Instr :=
  match fn with
  | 0 => some (.qTail f)
  | 1 => some (.qCancel f)
  | 2 => some (.qEvt f)
  | _ => none

/-- The sub-functions of major 0x65 (R56). -/
def fn65 (fn : Nat) (f : GFmt) : Option Instr :=
  match fn with
  | 0 => some (.pkRd f)
  | 1 => some (.pkMask f)
  | 2 => some (.pkPc f)
  | 3 => some (.pkResume f)
  | 4 => some (.pkKill f)
  | 5 => some (.hdlRet f)
  | _ => none

/-- The sub-functions of major 0x66 (R56). -/
def fn66 (fn : Nat) (f : GFmt) : Option Instr :=
  match fn with
  | 0 => some (.spSet f)
  | 1 => some (.spInv f)
  | _ => none

/-- The sub-functions of major 0x69 (R56). -/
def fn69 (fn : Nat) (f : GFmt) : Option Instr :=
  match fn with
  | 0 => some (.accClr f)
  | 1 => some (.accMov f)
  | 2 => some (.accLd f)
  | 3 => some (.accSt f)
  | 4 => some (.accPut f)
  | 5 => some (.osClaim f)
  | 6 => some (.osRel f)
  | 7 => some (.mmWait f)
  | _ => none

/-- The sub-functions of major 0x6E (R56). -/
def fn6E (fn : Nat) (f : UFmt) : Option Instr :=
  match fn with
  | 0 => some (.tbLd f)
  | 1 => some (.tbSt f)
  | 2 => some (.tbFence f)
  | _ => none

/-- The sub-functions of major 0x6F (R56). -/
def fn6F (fn : Nat) (f : UFmt) : Option Instr :=
  match fn with
  | 0 => some (.pixOwn f)
  | 1 => some (.pixExp f)
  | 2 => some (.ctLook f)
  | _ => none

/-- The sub-functions of major 0x70 (R56). -/
def fn70 (fn : Nat) (f : GFmt) : Option Instr :=
  match fn with
  | 0 => some (.frtRetire f)
  | 1 => some (.frtYield f)
  | 2 => some (.frtQuery f)
  | 3 => some (.frtCancel f)
  | _ => none

/-- The sub-functions of major 0x71 (R56). -/
def fn71 (fn : Nat) (f : GFmt) : Option Instr :=
  match fn with
  | 0 => some (.tdSet f)
  | 1 => some (.tdGet f)
  | 2 => some (.tdInv f)
  | 3 => some (.cpKick f)
  | 4 => some (.cpGather f)
  | _ => none

/-- The sub-functions of major 0x72 (R56). -/
def fn72 (fn : Nat) (f : GFmt) : Option Instr :=
  match fn with
  | 0 => some (.barSync f)
  | 1 => some (.barTeam f)
  | 2 => some (.barArrive f)
  | 3 => some (.barPost f)
  | 4 => some (.barWait f)
  | 5 => some (.tlWait f)
  | 6 => some (.tlRd f)
  | 7 => some (.cntRd f)
  | _ => none

/-- The sub-functions of major 0x73 (R56). -/
def fn73 (fn : Nat) (f : GFmt) : Option Instr :=
  match fn with
  | 0 => some (.vClaim f)
  | 1 => some (.vRel f)
  | 2 => some (.winSet f)
  | 3 => some (.winAdd f)
  | _ => none

/-- The sub-functions of major 0x74 (R56). -/
def fn74 (fn : Nat) (f : GFmt) : Option Instr :=
  match fn with
  | 0 => some (.wcsLd f)
  | 1 => some (.wcsBind f)
  | 2 => some (.wcsUnbind f)
  | 3 => some (.wcsInv f)
  | _ => none

/-- The instruction of a 32-bit word under an optional prefix (R55, R56); none where FN is not listed or the major is reserved. -/
def decodeOp (p : Option Prefix) (w : W32) : Option Instr :=
  match majorOf w with
  | 0x00 => some (.vadd (decV p w))
  | 0x01 => some (.vsub (decV p w))
  | 0x02 => some (.vmul (decV p w))
  | 0x03 => some (.vmulh (decV p w))
  | 0x04 => some (.vmad (decV p w))
  | 0x05 => some (.vmin (decV p w))
  | 0x06 => some (.vmax (decV p w))
  | 0x07 => some (.vabsd (decV p w))
  | 0x08 => some (.vand (decV p w))
  | 0x09 => some (.vor (decV p w))
  | 0x0A => some (.vxor (decV p w))
  | 0x0B => some (.vandn (decV p w))
  | 0x0C => some (.vshl (decV p w))
  | 0x0D => some (.vshr (decV p w))
  | 0x0E => some (.vsra (decV p w))
  | 0x0F => some (.vrot (decV p w))
  | 0x10 => some (.vadds (decV p w))
  | 0x11 => some (.vsubs (decV p w))
  | 0x12 => some (.vcmp (decVC p w))
  | 0x13 => some (.vbfx (decV p w))
  | 0x14 => some (.vbfi (decV p w))
  | 0x15 => some (.vsel (decV p w))
  | 0x16 => some (.vrq (decV p w))
  | 0x17 => some (.vaddr (decV p w))
  | 0x18 => some (.vfadd (decV p w))
  | 0x19 => some (.vfsub (decV p w))
  | 0x1A => some (.vfmul (decV p w))
  | 0x1B => some (.vfma (decV p w))
  | 0x1C => some (.vfms (decV p w))
  | 0x1D => some (.vfmin (decV p w))
  | 0x1E => some (.vfmax (decV p w))
  | 0x1F => some (.vfdiv (decV p w))
  | 0x20 => some (.vfcmp (decVC p w))
  | 0x21 => some (.vfdp2 (decV p w))
  | 0x22 => some (.vfsgn (decV p w))
  | 0x23 => some (.vperm (decV p w))
  | 0x24 => fn24 (field w 24 8).toNat (decU p w)
  | 0x25 => some (.vcvt (decUN p w))
  | 0x26 => fn26 (field w 24 8).toNat (decU p w)
  | 0x27 => fn27 (field w 24 8).toNat (decU p w)
  | 0x28 => some (.vshf (decUN p w))
  | 0x30 => some (.sadd (decS p w))
  | 0x31 => some (.ssub (decS p w))
  | 0x32 => some (.smul (decS p w))
  | 0x33 => some (.smulh (decS p w))
  | 0x34 => some (.sand (decS p w))
  | 0x35 => some (.sor (decS p w))
  | 0x36 => some (.sxor (decS p w))
  | 0x37 => some (.sshl (decS p w))
  | 0x38 => some (.sshr (decS p w))
  | 0x39 => some (.ssra (decS p w))
  | 0x3A => some (.smin (decS p w))
  | 0x3B => some (.smax (decS p w))
  | 0x3C => some (.sseq (decS p w))
  | 0x3D => some (.ssne (decS p w))
  | 0x3E => some (.sslt (decS p w))
  | 0x3F => some (.ssle (decS p w))
  | 0x40 => some (.srdl (decS p w))
  | 0x41 => some (.swrl (decV p w))
  | 0x42 => some (.sli (decSI w))
  | 0x43 => some (.slih (decSI w))
  | 0x44 => fn44 (field w 24 8).toNat (decSU p w)
  | 0x47 => fn47 (field w 19 5).toNat (decK p w)
  | 0x48 => some (.ld (decM p w))
  | 0x49 => some (.st (decM p w))
  | 0x4A => some (.sld (decS p w))
  | 0x4B => some (.sst (decS p w))
  | 0x4C => some (.pf (decM p w))
  | 0x4D => some (.stMc (decM p w))
  | 0x4E => some (.stRed (decM p w))
  | 0x4F => some (.spLook (decS p w))
  | 0x50 => some (.atmAdd (decM p w))
  | 0x51 => some (.atmMin (decM p w))
  | 0x52 => some (.atmMax (decM p w))
  | 0x53 => some (.atmAnd (decM p w))
  | 0x54 => some (.atmOr (decM p w))
  | 0x55 => some (.atmXor (decM p w))
  | 0x56 => some (.atmXchg (decM p w))
  | 0x57 => some (.atmCas (decM p w))
  | 0x58 => some (.atmFadd (decM p w))
  | 0x59 => some (.atmFaddDet (decM p w))
  | 0x5A => some (.fence (decY p w))
  | 0x5B => some (.fibFork (decJ p w))
  | 0x5C => some (.br (decJ p w))
  | 0x5D => some (.brn (decJ p w))
  | 0x5E => some (.call (decJ p w))
  | 0x5F => fn5F (field w 8 8).toNat (decG p w)
  | 0x60 => some (.sysRd (decY p w))
  | 0x61 => some (.sysWr (decY p w))
  | 0x62 => some (.trap (decY p w))
  | 0x63 => some (.sig (decY p w))
  | 0x64 => fn64 (field w 8 8).toNat (decG p w)
  | 0x65 => fn65 (field w 8 8).toNat (decG p w)
  | 0x66 => fn66 (field w 8 8).toNat (decG p w)
  | 0x68 => some (.mm (decX p w))
  | 0x69 => fn69 (field w 8 8).toNat (decG p w)
  | 0x6C => some (.tex (decV p w))
  | 0x6D => some (.texFetch (decV p w))
  | 0x6E => fn6E (field w 24 8).toNat (decU p w)
  | 0x6F => fn6F (field w 24 8).toNat (decU p w)
  | 0x70 => fn70 (field w 8 8).toNat (decG p w)
  | 0x71 => fn71 (field w 8 8).toNat (decG p w)
  | 0x72 => fn72 (field w 8 8).toNat (decG p w)
  | 0x73 => fn73 (field w 8 8).toNat (decG p w)
  | 0x74 => fn74 (field w 8 8).toNat (decG p w)
  | 0x78 => some (.xop (decXO p w))
  | _ => none

/-- The major is assigned (R55). -/
def majorListed (m : Nat) : Bool :=
  m ≤ 0x28 || (0x30 ≤ m && m ≤ 0x44) || (0x47 ≤ m && m ≤ 0x66) || m == 0x68 || m == 0x69 || (0x6C ≤ m && m ≤ 0x74)
    || m == 0x78 || m == 0x7E

/-- A word of this major may follow a prefix (R50, R52). -/
def pairable (m : Nat) : Bool := majorListed m && m != 0x42 && m != 0x43 && m != 0x7E

/-- The major's format accepts a mask, so that a refused FN keeps the prefix's (R50, R58). -/
def masked (m : Nat) : Bool := m ≤ 0x28 || (0x48 ≤ m && m ≤ 0x59) || (0x6C ≤ m && m ≤ 0x6F) || m == 0x78

/-- A 16-bit word (R53, R54). -/
def decodeShort (h : Half) : Decoded :=
  if h = 0 then .reject .zeroHalfword 2 0
  else
    let f := decC h
    match (field h 12 4).toNat with
    | 0 => .instr (.cAdd f) 2
    | 1 => .instr (.cSub f) 2
    | 2 => .instr (.cMul f) 2
    | 3 => .instr (.cAnd f) 2
    | 4 => .instr (.cOr f) 2
    | 5 => .instr (.cXor f) 2
    | 6 => .instr (.cShl f) 2
    | 7 => .instr (.cShr f) 2
    | 8 => .instr (.cMov f) 2
    | 9 => .instr (.cFadd f) 2
    | 10 => .instr (.cFsub f) 2
    | 11 => .instr (.cFmul f) 2
    | 12 => .instr (.cFmin f) 2
    | 13 => .instr (.cFmax f) 2
    | 14 => .instr (.cMin f) 2
    | _ => .instr (.cMax f) 2

/-- A 32-bit word that is not a prefix. -/
def decodeWord (w : W32) : Decoded :=
  if majorListed (majorOf w) then
    match decodeOp none w with
    | some i => .instr i 4
    | none => .reject .unlistedFn 4 0
  else .reject .reservedMajor 4 0

/-- A prefix followed by a word (R39, R52). -/
def decodePair (p w : W32) : Decoded :=
  if w.getLsbD 0 && pairable (majorOf w) then
    match decodeOp (some (decPrefix p)) w with
    | some i => .instr i 8
    | none => .reject .unlistedFn 8 (if masked (majorOf w) then (decPrefix p).msk.toNat else 0)
  else .reject .refusedPairing (if w.getLsbD 0 then 8 else 6) 0

/-- Two halfwords as a word, the low one first (R38). -/
def wordOf (lo hi : Half) : W32 := hi ++ lo

/-- The instruction at the head of a list of halfwords (R38, R39); a refused pairing has no mask of its own (DESIGN CHOICE, log 136). -/
def decodeHalves (hs : List Half) : Decoded :=
  match hs with
  | [] => .reject .truncated 0 0
  | h0 :: r =>
    if !h0.getLsbD 0 then decodeShort h0
    else
      match r with
      | [] => .reject .truncated 2 0
      | h1 :: r =>
        if majorOf (wordOf h0 h1) = 0x7E then
          match r with
          | [] => .reject .truncated 4 0
          | h2 :: r =>
            if h2.getLsbD 0 && pairable (majorOf (wordOf h2 0)) then
              match r with
              | [] => .reject .truncated 6 0
              | h3 :: _ => decodePair (wordOf h0 h1) (wordOf h2 h3)
            else .reject .refusedPairing (if h2.getLsbD 0 then 8 else 6) 0
        else decodeWord (wordOf h0 h1)

/-- Bytes as little-endian halfwords (R38). -/
def halvesOf (bs : List Byte) : List Half :=
  match bs with
  | b0 :: b1 :: r => (b1 ++ b0) :: halvesOf r
  | _ => []

/-- The instruction at the head of a list of bytes. -/
def decode (bs : List Byte) : Decoded := decodeHalves (halvesOf bs)

/-- The micro-op of a control store word (R325). -/
def uopOf (opc : Nat) (f : UopFmt) : Option Instr :=
  match opc with
  | 0x01 => some (.uadd f)
  | 0x02 => some (.usub f)
  | 0x03 => some (.umul f)
  | 0x04 => some (.umad f)
  | 0x05 => some (.uand f)
  | 0x06 => some (.uor f)
  | 0x07 => some (.uxor f)
  | 0x08 => some (.uandn f)
  | 0x09 => some (.ushl f)
  | 0x0A => some (.ushr f)
  | 0x0B => some (.usra f)
  | 0x0C => some (.umin f)
  | 0x0D => some (.umax f)
  | 0x0E => some (.uminn f)
  | 0x0F => some (.umaxn f)
  | 0x10 => some (.useq f)
  | 0x11 => some (.usne f)
  | 0x12 => some (.uslt f)
  | 0x13 => some (.usle f)
  | 0x14 => some (.usltn f)
  | 0x15 => some (.usel f)
  | 0x18 => some (.ubfx f)
  | 0x19 => some (.uzx32 f)
  | 0x1A => some (.usx32 f)
  | 0x20 => some (.ufadd f)
  | 0x21 => some (.ufsub f)
  | 0x22 => some (.ufmul f)
  | 0x23 => some (.uffma f)
  | 0x24 => some (.ufmin f)
  | 0x25 => some (.ufmax f)
  | 0x26 => some (.ufcvti f)
  | 0x27 => some (.uicvtf f)
  | 0x30 => some (.umov f)
  | 0x32 => some (.upick f)
  | 0x40 => some (.uld32 f)
  | 0x41 => some (.uld64 f)
  | 0x42 => some (.ust32 f)
  | 0x43 => some (.ust64 f)
  | 0x50 => some (.ujmp f)
  | 0x51 => some (.ubnz f)
  | 0x52 => some (.ubz f)
  | 0x53 => some (.uend f)
  | 0x60 => some (.uout f)
  | _ => none

/-- Decode a micro-op word (R324, R325). -/
def decodeUop (w : W64) : Decoded :=
  match uopOf (field w 56 8).toNat (decUop w) with
  | some i => if (Machine.fieldCauses i).isEmpty then .instr i 8 else .reject .unlistedUop 8 0
  | none => .reject .unlistedUop 8 0

/-- The little-endian bytes of `n` bytes of a number. -/
def bytesLE (n w : Nat) : List Byte :=
  match n with
  | 0 => []
  | n + 1 => BitVec.ofNat 8 w :: bytesLE n (w / 256)

/-- The instruction of a word numbered as the opcode table numbers it; operand bits above `nbits` are 0. -/
def decodeTableWord (nbits w : Nat) : Option Instr :=
  match decode (bytesLE (max 8 (nbits / 8)) w) with
  | .instr i _ => some i
  | .reject _ _ _ => none

/-! The encoder, from the same tables. -/

/-- The prefix word (R48). -/
def encPrefix (p : Prefix) : W32 :=
  p.d ++ p.rnd ++ p.msk ++ BitVec.ofBool p.zro ++ p.sb ++ p.typ ++ BitVec.ofBool p.af ++ p.ahi ++ (0x7E : BitVec 7) ++ (1 : BitVec 1)

/-- The tail of every 32-bit word: the major opcode and the length bit (R40). -/
def encTail (maj : BitVec 7) : Byte := maj ++ (1 : BitVec 1)

/-- Format V. -/
def encV (maj : BitVec 7) (f : VFmt) : W32 := f.b ++ f.a ++ BitVec.ofBool f.nw ++ f.vd ++ encTail maj
/-- Format VC. -/
def encVC (maj : BitVec 7) (f : VCFmt) : W32 := f.b ++ f.a ++ f.cc ++ BitVec.ofBool f.rsv ++ f.kd ++ encTail maj
/-- Format U. -/
def encU (maj : BitVec 7) (fn : Byte) (f : UFmt) : W32 := fn ++ f.a ++ BitVec.ofBool f.nw ++ f.vd ++ encTail maj
/-- Format U with FN kept. -/
def encUN (maj : BitVec 7) (f : UNFmt) : W32 := f.fn ++ f.a ++ BitVec.ofBool f.nw ++ f.vd ++ encTail maj
/-- Format S. -/
def encS (maj : BitVec 7) (f : SFmt) : W32 := f.b ++ f.a ++ f.sd ++ encTail maj
/-- Format SU. -/
def encSU (maj : BitVec 7) (fn : Byte) (f : SUFmt) : W32 := fn ++ f.a ++ f.sd ++ encTail maj
/-- Format SI. -/
def encSI (maj : BitVec 7) (f : SIFmt) : W32 := f.imm ++ f.sd ++ encTail maj
/-- Format K. -/
def encK (maj : BitVec 7) (fn : BitVec 5) (f : KFmt) : W32 := f.s ++ fn ++ f.ka ++ f.rsv ++ f.kd ++ encTail maj
/-- Format M. -/
def encM (maj : BitVec 7) (f : MFmt) : W32 := f.b ++ f.a ++ BitVec.ofBool f.sp ++ f.vd ++ encTail maj
/-- Format J. -/
def encJ (maj : BitVec 7) (f : JFmt) : W32 := f.off ++ f.c ++ encTail maj
/-- Format G. -/
def encG (maj : BitVec 7) (fn : Byte) (f : GFmt) : W32 := f.b ++ f.a ++ fn ++ encTail maj
/-- Format X. -/
def encX (maj : BitVec 7) (f : XFmt) : W32 := f.nf ++ f.mf ++ f.a ++ f.fn ++ encTail maj
/-- Format Y. -/
def encY (maj : BitVec 7) (f : YFmt) : W32 := f.sys ++ f.fn ++ f.a ++ encTail maj
/-- Format XO. -/
def encXO (maj : BitVec 7) (f : XOFmt) : W32 := f.b ++ f.a ++ f.xi ++ f.rsv ++ encTail maj
/-- A 16-bit form (R53). -/
def encC (op : BitVec 4) (f : CFmt) : Half := op ++ f.vd ++ f.b ++ (0 : BitVec 1)
/-- A micro-op word (R324). -/
def encUop (opc : Byte) (f : UopFmt) : W64 :=
  opc ++ f.d ++ f.a ++ f.b ++ f.c ++ BitVec.ofBool f.rsvHi ++ BitVec.ofBool f.sp ++ f.rsvLo ++ f.imm

/-- The halfwords of a word, the low one first (R38). -/
def halves (w : W32) : List Half := [field w 0 16, field w 16 16]

/-- A word with its prefix, as halfwords. -/
def withPrefix (p : Option Prefix) (w : W32) : List Half :=
  match p with
  | none => halves w
  | some q => halves (encPrefix q) ++ halves w

/-- The halfwords of an instruction, in memory order; none for a micro-op, a command or an event, which are no words of the
instruction stream. -/
def encode (i : Instr) : List Half :=
  match i with
  | .vadd f => withPrefix f.pfx (encV 0x00 f)
  | .vsub f => withPrefix f.pfx (encV 0x01 f)
  | .vmul f => withPrefix f.pfx (encV 0x02 f)
  | .vmulh f => withPrefix f.pfx (encV 0x03 f)
  | .vmad f => withPrefix f.pfx (encV 0x04 f)
  | .vmin f => withPrefix f.pfx (encV 0x05 f)
  | .vmax f => withPrefix f.pfx (encV 0x06 f)
  | .vabsd f => withPrefix f.pfx (encV 0x07 f)
  | .vand f => withPrefix f.pfx (encV 0x08 f)
  | .vor f => withPrefix f.pfx (encV 0x09 f)
  | .vxor f => withPrefix f.pfx (encV 0x0A f)
  | .vandn f => withPrefix f.pfx (encV 0x0B f)
  | .vshl f => withPrefix f.pfx (encV 0x0C f)
  | .vshr f => withPrefix f.pfx (encV 0x0D f)
  | .vsra f => withPrefix f.pfx (encV 0x0E f)
  | .vrot f => withPrefix f.pfx (encV 0x0F f)
  | .vadds f => withPrefix f.pfx (encV 0x10 f)
  | .vsubs f => withPrefix f.pfx (encV 0x11 f)
  | .vcmp f => withPrefix f.pfx (encVC 0x12 f)
  | .vbfx f => withPrefix f.pfx (encV 0x13 f)
  | .vbfi f => withPrefix f.pfx (encV 0x14 f)
  | .vsel f => withPrefix f.pfx (encV 0x15 f)
  | .vrq f => withPrefix f.pfx (encV 0x16 f)
  | .vaddr f => withPrefix f.pfx (encV 0x17 f)
  | .vfadd f => withPrefix f.pfx (encV 0x18 f)
  | .vfsub f => withPrefix f.pfx (encV 0x19 f)
  | .vfmul f => withPrefix f.pfx (encV 0x1A f)
  | .vfma f => withPrefix f.pfx (encV 0x1B f)
  | .vfms f => withPrefix f.pfx (encV 0x1C f)
  | .vfmin f => withPrefix f.pfx (encV 0x1D f)
  | .vfmax f => withPrefix f.pfx (encV 0x1E f)
  | .vfdiv f => withPrefix f.pfx (encV 0x1F f)
  | .vfcmp f => withPrefix f.pfx (encVC 0x20 f)
  | .vfdp2 f => withPrefix f.pfx (encV 0x21 f)
  | .vfsgn f => withPrefix f.pfx (encV 0x22 f)
  | .vperm f => withPrefix f.pfx (encV 0x23 f)
  | .vmov f => withPrefix f.pfx (encU 0x24 0 f)
  | .vnot f => withPrefix f.pfx (encU 0x24 1 f)
  | .vneg f => withPrefix f.pfx (encU 0x24 2 f)
  | .vabs f => withPrefix f.pfx (encU 0x24 3 f)
  | .vpopc f => withPrefix f.pfx (encU 0x24 4 f)
  | .vclz f => withPrefix f.pfx (encU 0x24 5 f)
  | .vctz f => withPrefix f.pfx (encU 0x24 6 f)
  | .vbrev f => withPrefix f.pfx (encU 0x24 7 f)
  | .vfneg f => withPrefix f.pfx (encU 0x24 8 f)
  | .vfabs f => withPrefix f.pfx (encU 0x24 9 f)
  | .vfsqrt f => withPrefix f.pfx (encU 0x24 10 f)
  | .vfrnd f => withPrefix f.pfx (encU 0x24 11 f)
  | .vcvt f => withPrefix f.pfx (encUN 0x25 f)
  | .vsfuSin f => withPrefix f.pfx (encU 0x26 0 f)
  | .vsfuCos f => withPrefix f.pfx (encU 0x26 1 f)
  | .vsfuExp2 f => withPrefix f.pfx (encU 0x26 2 f)
  | .vsfuLog2 f => withPrefix f.pfx (encU 0x26 3 f)
  | .vsfuRcp f => withPrefix f.pfx (encU 0x26 4 f)
  | .vsfuRsqrt f => withPrefix f.pfx (encU 0x26 5 f)
  | .vredSum f => withPrefix f.pfx (encU 0x27 0 f)
  | .vredMax f => withPrefix f.pfx (encU 0x27 1 f)
  | .vredMin f => withPrefix f.pfx (encU 0x27 2 f)
  | .vshf f => withPrefix f.pfx (encUN 0x28 f)
  | .cAdd f => [encC 0 f]
  | .cSub f => [encC 1 f]
  | .cMul f => [encC 2 f]
  | .cAnd f => [encC 3 f]
  | .cOr f => [encC 4 f]
  | .cXor f => [encC 5 f]
  | .cShl f => [encC 6 f]
  | .cShr f => [encC 7 f]
  | .cMov f => [encC 8 f]
  | .cFadd f => [encC 9 f]
  | .cFsub f => [encC 10 f]
  | .cFmul f => [encC 11 f]
  | .cFmin f => [encC 12 f]
  | .cFmax f => [encC 13 f]
  | .cMin f => [encC 14 f]
  | .cMax f => [encC 15 f]
  | .sadd f => withPrefix f.pfx (encS 0x30 f)
  | .ssub f => withPrefix f.pfx (encS 0x31 f)
  | .smul f => withPrefix f.pfx (encS 0x32 f)
  | .smulh f => withPrefix f.pfx (encS 0x33 f)
  | .sand f => withPrefix f.pfx (encS 0x34 f)
  | .sor f => withPrefix f.pfx (encS 0x35 f)
  | .sxor f => withPrefix f.pfx (encS 0x36 f)
  | .sshl f => withPrefix f.pfx (encS 0x37 f)
  | .sshr f => withPrefix f.pfx (encS 0x38 f)
  | .ssra f => withPrefix f.pfx (encS 0x39 f)
  | .smin f => withPrefix f.pfx (encS 0x3A f)
  | .smax f => withPrefix f.pfx (encS 0x3B f)
  | .sseq f => withPrefix f.pfx (encS 0x3C f)
  | .ssne f => withPrefix f.pfx (encS 0x3D f)
  | .sslt f => withPrefix f.pfx (encS 0x3E f)
  | .ssle f => withPrefix f.pfx (encS 0x3F f)
  | .srdl f => withPrefix f.pfx (encS 0x40 f)
  | .swrl f => withPrefix f.pfx (encV 0x41 f)
  | .sli f => halves (encSI 0x42 f)
  | .slih f => halves (encSI 0x43 f)
  | .smov f => withPrefix f.pfx (encSU 0x44 0 f)
  | .snot f => withPrefix f.pfx (encSU 0x44 1 f)
  | .sneg f => withPrefix f.pfx (encSU 0x44 2 f)
  | .spopc f => withPrefix f.pfx (encSU 0x44 3 f)
  | .sclz f => withPrefix f.pfx (encSU 0x44 4 f)
  | .sctz f => withPrefix f.pfx (encSU 0x44 5 f)
  | .kand f => withPrefix f.pfx (encK 0x47 0 f)
  | .kor f => withPrefix f.pfx (encK 0x47 1 f)
  | .kxor f => withPrefix f.pfx (encK 0x47 2 f)
  | .kandn f => withPrefix f.pfx (encK 0x47 3 f)
  | .knot f => withPrefix f.pfx (encK 0x47 4 f)
  | .kfromv f => withPrefix f.pfx (encK 0x47 5 f)
  | .kfroms f => withPrefix f.pfx (encK 0x47 6 f)
  | .ktos f => withPrefix f.pfx (encK 0x47 7 f)
  | .ld f => withPrefix f.pfx (encM 0x48 f)
  | .st f => withPrefix f.pfx (encM 0x49 f)
  | .sld f => withPrefix f.pfx (encS 0x4A f)
  | .sst f => withPrefix f.pfx (encS 0x4B f)
  | .pf f => withPrefix f.pfx (encM 0x4C f)
  | .stMc f => withPrefix f.pfx (encM 0x4D f)
  | .stRed f => withPrefix f.pfx (encM 0x4E f)
  | .spLook f => withPrefix f.pfx (encS 0x4F f)
  | .atmAdd f => withPrefix f.pfx (encM 0x50 f)
  | .atmMin f => withPrefix f.pfx (encM 0x51 f)
  | .atmMax f => withPrefix f.pfx (encM 0x52 f)
  | .atmAnd f => withPrefix f.pfx (encM 0x53 f)
  | .atmOr f => withPrefix f.pfx (encM 0x54 f)
  | .atmXor f => withPrefix f.pfx (encM 0x55 f)
  | .atmXchg f => withPrefix f.pfx (encM 0x56 f)
  | .atmCas f => withPrefix f.pfx (encM 0x57 f)
  | .atmFadd f => withPrefix f.pfx (encM 0x58 f)
  | .atmFaddDet f => withPrefix f.pfx (encM 0x59 f)
  | .fence f => withPrefix f.pfx (encY 0x5A f)
  | .fibFork f => withPrefix f.pfx (encJ 0x5B f)
  | .br f => withPrefix f.pfx (encJ 0x5C f)
  | .brn f => withPrefix f.pfx (encJ 0x5D f)
  | .call f => withPrefix f.pfx (encJ 0x5E f)
  | .fibJoin f => withPrefix f.pfx (encG 0x5F 0 f)
  | .fibExit f => withPrefix f.pfx (encG 0x5F 1 f)
  | .fibYield f => withPrefix f.pfx (encG 0x5F 2 f)
  | .ret f => withPrefix f.pfx (encG 0x5F 3 f)
  | .brInd f => withPrefix f.pfx (encG 0x5F 4 f)
  | .callInd f => withPrefix f.pfx (encG 0x5F 5 f)
  | .nop f => withPrefix f.pfx (encG 0x5F 6 f)
  | .sysRd f => withPrefix f.pfx (encY 0x60 f)
  | .sysWr f => withPrefix f.pfx (encY 0x61 f)
  | .trap f => withPrefix f.pfx (encY 0x62 f)
  | .sig f => withPrefix f.pfx (encY 0x63 f)
  | .qTail f => withPrefix f.pfx (encG 0x64 0 f)
  | .qCancel f => withPrefix f.pfx (encG 0x64 1 f)
  | .qEvt f => withPrefix f.pfx (encG 0x64 2 f)
  | .pkRd f => withPrefix f.pfx (encG 0x65 0 f)
  | .pkMask f => withPrefix f.pfx (encG 0x65 1 f)
  | .pkPc f => withPrefix f.pfx (encG 0x65 2 f)
  | .pkResume f => withPrefix f.pfx (encG 0x65 3 f)
  | .pkKill f => withPrefix f.pfx (encG 0x65 4 f)
  | .hdlRet f => withPrefix f.pfx (encG 0x65 5 f)
  | .spSet f => withPrefix f.pfx (encG 0x66 0 f)
  | .spInv f => withPrefix f.pfx (encG 0x66 1 f)
  | .mm f => withPrefix f.pfx (encX 0x68 f)
  | .accClr f => withPrefix f.pfx (encG 0x69 0 f)
  | .accMov f => withPrefix f.pfx (encG 0x69 1 f)
  | .accLd f => withPrefix f.pfx (encG 0x69 2 f)
  | .accSt f => withPrefix f.pfx (encG 0x69 3 f)
  | .accPut f => withPrefix f.pfx (encG 0x69 4 f)
  | .osClaim f => withPrefix f.pfx (encG 0x69 5 f)
  | .osRel f => withPrefix f.pfx (encG 0x69 6 f)
  | .mmWait f => withPrefix f.pfx (encG 0x69 7 f)
  | .tex f => withPrefix f.pfx (encV 0x6C f)
  | .texFetch f => withPrefix f.pfx (encV 0x6D f)
  | .tbLd f => withPrefix f.pfx (encU 0x6E 0 f)
  | .tbSt f => withPrefix f.pfx (encU 0x6E 1 f)
  | .tbFence f => withPrefix f.pfx (encU 0x6E 2 f)
  | .pixOwn f => withPrefix f.pfx (encU 0x6F 0 f)
  | .pixExp f => withPrefix f.pfx (encU 0x6F 1 f)
  | .ctLook f => withPrefix f.pfx (encU 0x6F 2 f)
  | .frtRetire f => withPrefix f.pfx (encG 0x70 0 f)
  | .frtYield f => withPrefix f.pfx (encG 0x70 1 f)
  | .frtQuery f => withPrefix f.pfx (encG 0x70 2 f)
  | .frtCancel f => withPrefix f.pfx (encG 0x70 3 f)
  | .tdSet f => withPrefix f.pfx (encG 0x71 0 f)
  | .tdGet f => withPrefix f.pfx (encG 0x71 1 f)
  | .tdInv f => withPrefix f.pfx (encG 0x71 2 f)
  | .cpKick f => withPrefix f.pfx (encG 0x71 3 f)
  | .cpGather f => withPrefix f.pfx (encG 0x71 4 f)
  | .barSync f => withPrefix f.pfx (encG 0x72 0 f)
  | .barTeam f => withPrefix f.pfx (encG 0x72 1 f)
  | .barArrive f => withPrefix f.pfx (encG 0x72 2 f)
  | .barPost f => withPrefix f.pfx (encG 0x72 3 f)
  | .barWait f => withPrefix f.pfx (encG 0x72 4 f)
  | .tlWait f => withPrefix f.pfx (encG 0x72 5 f)
  | .tlRd f => withPrefix f.pfx (encG 0x72 6 f)
  | .cntRd f => withPrefix f.pfx (encG 0x72 7 f)
  | .vClaim f => withPrefix f.pfx (encG 0x73 0 f)
  | .vRel f => withPrefix f.pfx (encG 0x73 1 f)
  | .winSet f => withPrefix f.pfx (encG 0x73 2 f)
  | .winAdd f => withPrefix f.pfx (encG 0x73 3 f)
  | .wcsLd f => withPrefix f.pfx (encG 0x74 0 f)
  | .wcsBind f => withPrefix f.pfx (encG 0x74 1 f)
  | .wcsUnbind f => withPrefix f.pfx (encG 0x74 2 f)
  | .wcsInv f => withPrefix f.pfx (encG 0x74 3 f)
  | .xop f => withPrefix f.pfx (encXO 0x78 f)
  | .uadd _ => []
  | .usub _ => []
  | .umul _ => []
  | .umad _ => []
  | .uand _ => []
  | .uor _ => []
  | .uxor _ => []
  | .uandn _ => []
  | .ushl _ => []
  | .ushr _ => []
  | .usra _ => []
  | .umin _ => []
  | .umax _ => []
  | .uminn _ => []
  | .umaxn _ => []
  | .useq _ => []
  | .usne _ => []
  | .uslt _ => []
  | .usle _ => []
  | .usltn _ => []
  | .usel _ => []
  | .ubfx _ => []
  | .uzx32 _ => []
  | .usx32 _ => []
  | .ufadd _ => []
  | .ufsub _ => []
  | .ufmul _ => []
  | .uffma _ => []
  | .ufmin _ => []
  | .ufmax _ => []
  | .ufcvti _ => []
  | .uicvtf _ => []
  | .umov _ => []
  | .upick _ => []
  | .uld32 _ => []
  | .uld64 _ => []
  | .ust32 _ => []
  | .ust64 _ => []
  | .ujmp _ => []
  | .ubnz _ => []
  | .ubz _ => []
  | .uend _ => []
  | .uout _ => []
  | .status _ => []
  | .vfEnable _ _ => []
  | .vfQuota _ _ => []
  | .slotAssign _ _ => []
  | .slotRestart _ _ => []
  | .slotFree _ _ => []
  | .depcAssign _ _ _ => []
  | .depcReset _ _ => []
  | .ctxCreate _ _ => []
  | .ctxDestroy _ _ => []
  | .ctxSwitch _ _ _ => []
  | .ctxStat _ _ => []
  | .ctxRoot _ _ _ => []
  | .ctxResume _ _ => []
  | .preempt _ _ => []
  | .evqRead _ _ => []
  | .tlbInv _ _ _ _ => []
  | .frmAllot _ _ _ _ _ => []
  | .frmFree _ _ _ _ => []
  | .frmQuota _ _ _ _ _ _ => []
  | .potSet _ _ _ _ _ _ => []
  | .dirtyBase _ _ _ _ _ => []
  | .dirtySwap _ _ => []
  | .dispCfg _ _ => []
  | .pomWrite _ _ _ => []
  | .surfReg _ _ => []
  | .surfFree _ _ => []
  | .rvalSet _ _ _ => []
  | .ctGrant _ _ => []
  | .ctWithdraw _ _ => []
  | .pqCreate _ _ => []
  | .pqFree _ _ => []
  | .wcsAssign _ _ _ _ => []
  | .xopLoad _ _ _ => []
  | .xopQuery _ _ => []
  | .mashReset _ _ => []
  | .clkSet _ _ _ => []
  | .ldoSet _ _ _ => []
  | .kilnSet _ _ _ _ => []
  | .thermQuery _ _ => []
  | .pwrStat _ _ => []
  | .errLog _ _ _ => []
  | .errInject _ _ _ => []
  | .worldNew _ => []
  | .sealKey _ _ _ _ => []
  | .worldUnseal _ _ _ => []
  | .worldFree _ _ => []
  | .patchStage _ _ _ => []
  | .patchActivate _ => []
  | .fabMap _ _ _ => []
  | .collPost _ _ => []
  | .migOut _ _ _ => []
  | .migIn _ _ => []
  | .migStat _ _ => []
  | .unknownCommand _ _ => []
  | .mbsemRead _ _ => []
  | .mbsemRel _ _ => []
  | .mbstatViolClear _ => []
  | .registerWrite _ _ _ _ => []
  | .getVersion _ _ => []
  | .getCapabilities _ _ => []
  | .negotiateAlgorithms _ _ => []
  | .getDigests _ _ => []
  | .getCertificate _ _ => []
  | .challenge _ _ => []
  | .getMeasurements _ _ => []
  | .keyExchange _ _ => []
  | .finish _ _ => []
  | .heartbeat _ _ => []
  | .keyUpdate _ _ => []
  | .endSession _ _ => []
  | .unsupportedRequest _ _ => []
  | .queueDoorbell _ _ => []
  | .recordTake _ => []
  | .recordBegin _ => []
  | .pointFire _ => []
  | .blockRestorePlace _ => []
  | .activeSlotEntry _ => []
  | .claimDeadlock _ => []
  | .pointRetire _ => []
  | .detCommit _ => []
  | .launchRetire _ => []
  | .handlerEntry _ => []
  | .signalDelivery _ => []
  | .mgmtDoorbellRead _ => []
  | .eventRecordWrite _ => []
  | .memoryAccessPerform _ => []
  | .loadDataReturn _ => []
  | .pageOut _ => []
  | .pageIn _ _ => []
  | .accumulatorOwnershipTrap _ _ => []
  | .mashOpStart _ => []
  | .mashOpComplete _ => []
  | .accOpExecute _ => []
  | .mashTimeoutReset _ => []
  | .copyByteArrival _ _ _ => []
  | .kilnStep _ => []
  | .kilnRequest _ _ => []
  | .vectorBurstEnd _ _ => []
  | .thermalSample _ _ => []
  | .droopAlarm _ => []
  | .denyEnd _ => []
  | .hotSpotMigration _ => []
  | .retentionEntry _ => []
  | .retentionExit _ => []
  | .sliceExpiry _ => []
  | .drainExpiry _ => []
  | .coopBudgetExpiry _ => []
  | .preemptTExpiry _ => []
  | .forcedSave _ => []
  | .displayBoundary _ => []
  | .presentDoorbell _ _ => []
  | .passItemTake _ => []
  | .tileRaster _ _ => []
  | .binOverflowSpill _ => []
  | .sampleCommit _ _ => []
  | .tileStore _ _ => []
  | .deviceReset => []
  | .configRecordVerify => []
  | .linkDown _ => []
  | .hotReset _ => []
  | .hostAccess _ => []
  | .fabricWriteAck _ => []
  | .fabricReadResponse _ _ => []
  | .peerRequest _ _ _ => []
  | .fabricTimeout _ => []
  | .collRetire _ => []
  | .migCompletion _ _ => []
  | .softErrorDetect _ => []
  | .reservedMajor _ _ _ => []
  | .refusedWord _ => []
  | .linkUp _ => []

/-- The control store word of a micro-op; none for other instructions. -/
def encodeUop (i : Instr) : Option W64 :=
  match i with
  | .vadd _ => none
  | .vsub _ => none
  | .vmul _ => none
  | .vmulh _ => none
  | .vmad _ => none
  | .vmin _ => none
  | .vmax _ => none
  | .vabsd _ => none
  | .vand _ => none
  | .vor _ => none
  | .vxor _ => none
  | .vandn _ => none
  | .vshl _ => none
  | .vshr _ => none
  | .vsra _ => none
  | .vrot _ => none
  | .vadds _ => none
  | .vsubs _ => none
  | .vcmp _ => none
  | .vbfx _ => none
  | .vbfi _ => none
  | .vsel _ => none
  | .vrq _ => none
  | .vaddr _ => none
  | .vfadd _ => none
  | .vfsub _ => none
  | .vfmul _ => none
  | .vfma _ => none
  | .vfms _ => none
  | .vfmin _ => none
  | .vfmax _ => none
  | .vfdiv _ => none
  | .vfcmp _ => none
  | .vfdp2 _ => none
  | .vfsgn _ => none
  | .vperm _ => none
  | .vmov _ => none
  | .vnot _ => none
  | .vneg _ => none
  | .vabs _ => none
  | .vpopc _ => none
  | .vclz _ => none
  | .vctz _ => none
  | .vbrev _ => none
  | .vfneg _ => none
  | .vfabs _ => none
  | .vfsqrt _ => none
  | .vfrnd _ => none
  | .vcvt _ => none
  | .vsfuSin _ => none
  | .vsfuCos _ => none
  | .vsfuExp2 _ => none
  | .vsfuLog2 _ => none
  | .vsfuRcp _ => none
  | .vsfuRsqrt _ => none
  | .vredSum _ => none
  | .vredMax _ => none
  | .vredMin _ => none
  | .vshf _ => none
  | .cAdd _ => none
  | .cSub _ => none
  | .cMul _ => none
  | .cAnd _ => none
  | .cOr _ => none
  | .cXor _ => none
  | .cShl _ => none
  | .cShr _ => none
  | .cMov _ => none
  | .cFadd _ => none
  | .cFsub _ => none
  | .cFmul _ => none
  | .cFmin _ => none
  | .cFmax _ => none
  | .cMin _ => none
  | .cMax _ => none
  | .sadd _ => none
  | .ssub _ => none
  | .smul _ => none
  | .smulh _ => none
  | .sand _ => none
  | .sor _ => none
  | .sxor _ => none
  | .sshl _ => none
  | .sshr _ => none
  | .ssra _ => none
  | .smin _ => none
  | .smax _ => none
  | .sseq _ => none
  | .ssne _ => none
  | .sslt _ => none
  | .ssle _ => none
  | .srdl _ => none
  | .swrl _ => none
  | .sli _ => none
  | .slih _ => none
  | .smov _ => none
  | .snot _ => none
  | .sneg _ => none
  | .spopc _ => none
  | .sclz _ => none
  | .sctz _ => none
  | .kand _ => none
  | .kor _ => none
  | .kxor _ => none
  | .kandn _ => none
  | .knot _ => none
  | .kfromv _ => none
  | .kfroms _ => none
  | .ktos _ => none
  | .ld _ => none
  | .st _ => none
  | .sld _ => none
  | .sst _ => none
  | .pf _ => none
  | .stMc _ => none
  | .stRed _ => none
  | .spLook _ => none
  | .atmAdd _ => none
  | .atmMin _ => none
  | .atmMax _ => none
  | .atmAnd _ => none
  | .atmOr _ => none
  | .atmXor _ => none
  | .atmXchg _ => none
  | .atmCas _ => none
  | .atmFadd _ => none
  | .atmFaddDet _ => none
  | .fence _ => none
  | .fibFork _ => none
  | .br _ => none
  | .brn _ => none
  | .call _ => none
  | .fibJoin _ => none
  | .fibExit _ => none
  | .fibYield _ => none
  | .ret _ => none
  | .brInd _ => none
  | .callInd _ => none
  | .nop _ => none
  | .sysRd _ => none
  | .sysWr _ => none
  | .trap _ => none
  | .sig _ => none
  | .qTail _ => none
  | .qCancel _ => none
  | .qEvt _ => none
  | .pkRd _ => none
  | .pkMask _ => none
  | .pkPc _ => none
  | .pkResume _ => none
  | .pkKill _ => none
  | .hdlRet _ => none
  | .spSet _ => none
  | .spInv _ => none
  | .mm _ => none
  | .accClr _ => none
  | .accMov _ => none
  | .accLd _ => none
  | .accSt _ => none
  | .accPut _ => none
  | .osClaim _ => none
  | .osRel _ => none
  | .mmWait _ => none
  | .tex _ => none
  | .texFetch _ => none
  | .tbLd _ => none
  | .tbSt _ => none
  | .tbFence _ => none
  | .pixOwn _ => none
  | .pixExp _ => none
  | .ctLook _ => none
  | .frtRetire _ => none
  | .frtYield _ => none
  | .frtQuery _ => none
  | .frtCancel _ => none
  | .tdSet _ => none
  | .tdGet _ => none
  | .tdInv _ => none
  | .cpKick _ => none
  | .cpGather _ => none
  | .barSync _ => none
  | .barTeam _ => none
  | .barArrive _ => none
  | .barPost _ => none
  | .barWait _ => none
  | .tlWait _ => none
  | .tlRd _ => none
  | .cntRd _ => none
  | .vClaim _ => none
  | .vRel _ => none
  | .winSet _ => none
  | .winAdd _ => none
  | .wcsLd _ => none
  | .wcsBind _ => none
  | .wcsUnbind _ => none
  | .wcsInv _ => none
  | .xop _ => none
  | .uadd f => some (encUop 0x01 f)
  | .usub f => some (encUop 0x02 f)
  | .umul f => some (encUop 0x03 f)
  | .umad f => some (encUop 0x04 f)
  | .uand f => some (encUop 0x05 f)
  | .uor f => some (encUop 0x06 f)
  | .uxor f => some (encUop 0x07 f)
  | .uandn f => some (encUop 0x08 f)
  | .ushl f => some (encUop 0x09 f)
  | .ushr f => some (encUop 0x0A f)
  | .usra f => some (encUop 0x0B f)
  | .umin f => some (encUop 0x0C f)
  | .umax f => some (encUop 0x0D f)
  | .uminn f => some (encUop 0x0E f)
  | .umaxn f => some (encUop 0x0F f)
  | .useq f => some (encUop 0x10 f)
  | .usne f => some (encUop 0x11 f)
  | .uslt f => some (encUop 0x12 f)
  | .usle f => some (encUop 0x13 f)
  | .usltn f => some (encUop 0x14 f)
  | .usel f => some (encUop 0x15 f)
  | .ubfx f => some (encUop 0x18 f)
  | .uzx32 f => some (encUop 0x19 f)
  | .usx32 f => some (encUop 0x1A f)
  | .ufadd f => some (encUop 0x20 f)
  | .ufsub f => some (encUop 0x21 f)
  | .ufmul f => some (encUop 0x22 f)
  | .uffma f => some (encUop 0x23 f)
  | .ufmin f => some (encUop 0x24 f)
  | .ufmax f => some (encUop 0x25 f)
  | .ufcvti f => some (encUop 0x26 f)
  | .uicvtf f => some (encUop 0x27 f)
  | .umov f => some (encUop 0x30 f)
  | .upick f => some (encUop 0x32 f)
  | .uld32 f => some (encUop 0x40 f)
  | .uld64 f => some (encUop 0x41 f)
  | .ust32 f => some (encUop 0x42 f)
  | .ust64 f => some (encUop 0x43 f)
  | .ujmp f => some (encUop 0x50 f)
  | .ubnz f => some (encUop 0x51 f)
  | .ubz f => some (encUop 0x52 f)
  | .uend f => some (encUop 0x53 f)
  | .uout f => some (encUop 0x60 f)
  | .status _ => none
  | .vfEnable _ _ => none
  | .vfQuota _ _ => none
  | .slotAssign _ _ => none
  | .slotRestart _ _ => none
  | .slotFree _ _ => none
  | .depcAssign _ _ _ => none
  | .depcReset _ _ => none
  | .ctxCreate _ _ => none
  | .ctxDestroy _ _ => none
  | .ctxSwitch _ _ _ => none
  | .ctxStat _ _ => none
  | .ctxRoot _ _ _ => none
  | .ctxResume _ _ => none
  | .preempt _ _ => none
  | .evqRead _ _ => none
  | .tlbInv _ _ _ _ => none
  | .frmAllot _ _ _ _ _ => none
  | .frmFree _ _ _ _ => none
  | .frmQuota _ _ _ _ _ _ => none
  | .potSet _ _ _ _ _ _ => none
  | .dirtyBase _ _ _ _ _ => none
  | .dirtySwap _ _ => none
  | .dispCfg _ _ => none
  | .pomWrite _ _ _ => none
  | .surfReg _ _ => none
  | .surfFree _ _ => none
  | .rvalSet _ _ _ => none
  | .ctGrant _ _ => none
  | .ctWithdraw _ _ => none
  | .pqCreate _ _ => none
  | .pqFree _ _ => none
  | .wcsAssign _ _ _ _ => none
  | .xopLoad _ _ _ => none
  | .xopQuery _ _ => none
  | .mashReset _ _ => none
  | .clkSet _ _ _ => none
  | .ldoSet _ _ _ => none
  | .kilnSet _ _ _ _ => none
  | .thermQuery _ _ => none
  | .pwrStat _ _ => none
  | .errLog _ _ _ => none
  | .errInject _ _ _ => none
  | .worldNew _ => none
  | .sealKey _ _ _ _ => none
  | .worldUnseal _ _ _ => none
  | .worldFree _ _ => none
  | .patchStage _ _ _ => none
  | .patchActivate _ => none
  | .fabMap _ _ _ => none
  | .collPost _ _ => none
  | .migOut _ _ _ => none
  | .migIn _ _ => none
  | .migStat _ _ => none
  | .unknownCommand _ _ => none
  | .mbsemRead _ _ => none
  | .mbsemRel _ _ => none
  | .mbstatViolClear _ => none
  | .registerWrite _ _ _ _ => none
  | .getVersion _ _ => none
  | .getCapabilities _ _ => none
  | .negotiateAlgorithms _ _ => none
  | .getDigests _ _ => none
  | .getCertificate _ _ => none
  | .challenge _ _ => none
  | .getMeasurements _ _ => none
  | .keyExchange _ _ => none
  | .finish _ _ => none
  | .heartbeat _ _ => none
  | .keyUpdate _ _ => none
  | .endSession _ _ => none
  | .unsupportedRequest _ _ => none
  | .queueDoorbell _ _ => none
  | .recordTake _ => none
  | .recordBegin _ => none
  | .pointFire _ => none
  | .blockRestorePlace _ => none
  | .activeSlotEntry _ => none
  | .claimDeadlock _ => none
  | .pointRetire _ => none
  | .detCommit _ => none
  | .launchRetire _ => none
  | .handlerEntry _ => none
  | .signalDelivery _ => none
  | .mgmtDoorbellRead _ => none
  | .eventRecordWrite _ => none
  | .memoryAccessPerform _ => none
  | .loadDataReturn _ => none
  | .pageOut _ => none
  | .pageIn _ _ => none
  | .accumulatorOwnershipTrap _ _ => none
  | .mashOpStart _ => none
  | .mashOpComplete _ => none
  | .accOpExecute _ => none
  | .mashTimeoutReset _ => none
  | .copyByteArrival _ _ _ => none
  | .kilnStep _ => none
  | .kilnRequest _ _ => none
  | .vectorBurstEnd _ _ => none
  | .thermalSample _ _ => none
  | .droopAlarm _ => none
  | .denyEnd _ => none
  | .hotSpotMigration _ => none
  | .retentionEntry _ => none
  | .retentionExit _ => none
  | .sliceExpiry _ => none
  | .drainExpiry _ => none
  | .coopBudgetExpiry _ => none
  | .preemptTExpiry _ => none
  | .forcedSave _ => none
  | .displayBoundary _ => none
  | .presentDoorbell _ _ => none
  | .passItemTake _ => none
  | .tileRaster _ _ => none
  | .binOverflowSpill _ => none
  | .sampleCommit _ _ => none
  | .tileStore _ _ => none
  | .deviceReset => none
  | .configRecordVerify => none
  | .linkDown _ => none
  | .hotReset _ => none
  | .hostAccess _ => none
  | .fabricWriteAck _ => none
  | .fabricReadResponse _ _ => none
  | .peerRequest _ _ _ => none
  | .fabricTimeout _ => none
  | .collRetire _ => none
  | .migCompletion _ _ => none
  | .softErrorDetect _ => none
  | .reservedMajor _ _ _ => none
  | .refusedWord _ => none
  | .linkUp _ => none

/-- A list of halfwords as bytes, little-endian. -/
def bytesOfHalves (hs : List Half) : List Byte :=
  match hs with
  | [] => []
  | h :: r => field h 0 8 :: field h 8 8 :: bytesOfHalves r

/-- The bytes of an instruction in memory order. -/
def encodeBytes (i : Instr) : List Byte := bytesOfHalves (encode i)

end Sys2Proof
end

