-- ==== Sys2Proof/Machine/LaneInt.lean ====
section
/-! DEFINITION. The integer lane instructions and the 16-bit integer forms (R54, R97 to R102, R108). -/

namespace Sys2Proof.Machine

/-- An element-wise integer operation in format V. -/
def intV (spec : LaneSpec) (op : Ty → Nat → Nat → Nat → Nat) (f : VFmt) (s : State) : Out :=
  let j := jobV spec f
  laneRun s j noImage (elemOp j.td (op j.td))

/-- An element-wise integer operation in format U. -/
def intU (spec : LaneSpec) (op : Ty → Nat → Nat) (f : UFmt) (s : State) : Out :=
  let j := jobU spec f
  laneRun s j noImage (elemOp j.td fun a _ _ => op j.td a)

/-- A 16-bit integer form: the halfword's own causes, then the V form (R53, R54). -/
def intC (op : Nat) (spec : LaneSpec) (o : Ty → Nat → Nat → Nat → Nat) (f : CFmt) (s : State) : Out :=
  let j := { jobV spec (cAsV f) with causes := cCauses op f, len := 2 }
  laneRun s j noImage (elemOp j.td (o j.td))

/-- `vadd`: a + b mod 2ⁿ (R97). -/
def execVadd (f : VFmt) (s : State) : Out := intV intI intAdd f s

/-- `vsub`: a − b mod 2ⁿ (R97). -/
def execVsub (f : VFmt) (s : State) : Out := intV intI intSub f s

/-- `vmul`: the low half of a × b (R97). -/
def execVmul (f : VFmt) (s : State) : Out := intV intI intMul f s

/-- `vmulh`: the high half of a × b (R97). -/
def execVmulh (f : VFmt) (s : State) : Out := intV intI intMulh f s

/-- `vmin`: the smaller (R97). -/
def execVmin (f : VFmt) (s : State) : Out := intV intI intMin f s

/-- `vmax`: the larger (R97). -/
def execVmax (f : VFmt) (s : State) : Out := intV intI intMax f s

/-- `vabsd`: |a − b| (R97). -/
def execVabsd (f : VFmt) (s : State) : Out := intV intI intAbsd f s

/-- `vand`: a AND b (R97). -/
def execVand (f : VFmt) (s : State) : Out := intV intN intAnd f s

/-- `vor`: a OR b (R97). -/
def execVor (f : VFmt) (s : State) : Out := intV intN intOr f s

/-- `vxor`: a XOR b (R97). -/
def execVxor (f : VFmt) (s : State) : Out := intV intN intXor f s

/-- `vandn`: a AND NOT b (R97). -/
def execVandn (f : VFmt) (s : State) : Out := intV intN intAndn f s

/-- `vshl`: shift left (R97). -/
def execVshl (f : VFmt) (s : State) : Out := intV intN intShl f s

/-- `vshr`: logical shift right (R97). -/
def execVshr (f : VFmt) (s : State) : Out := intV intN intShr f s

/-- `vsra`: arithmetic shift right (R97). -/
def execVsra (f : VFmt) (s : State) : Out := intV intI intSra f s

/-- `vrot`: rotate left (R97). -/
def execVrot (f : VFmt) (s : State) : Out := intV intN intRot f s

/-- `vadds`: saturating sum (R97). -/
def execVadds (f : VFmt) (s : State) : Out := intV intI intAdds f s

/-- `vsubs`: saturating difference (R97). -/
def execVsubs (f : VFmt) (s : State) : Out := intV intI intSubs f s

/-- `vmad` (R98). -/
def execVmad (f : VFmt) (s : State) : Out := intV madSpec intMad f s

/-- `vbfx` (R99). -/
def execVbfx (f : VFmt) (s : State) : Out := intV bfxSpec intBfx f s

/-- `vbfi` (R99). -/
def execVbfi (f : VFmt) (s : State) : Out := intV bfiSpec intBfi f s

/-- `vsel`: A where the mask bit is 1, else B, in every lane of PRED (R100). -/
def execVsel (f : VFmt) (s : State) : Out :=
  let j := { jobV selSpec f with sel := true }
  laneRun s j noImage fun _ _ x l => if inSet x.msk l then x.a l else x.b l

/-- `vrq`: A, B and C read as `.i32` (R102). -/
def execVrq (f : VFmt) (s : State) : Out :=
  let j := jobV rqSpec f
  let t := j.td
  let j := { j with ta := .i32, tb := .i32, tc := .i32, nb := .i32, td := .i32 }
  laneRun s j noImage fun _ _ x l => intRq t (x.a l) (x.b l) (x.c l)

/-- `vaddr`: a 64-bit base plus a 32-bit value, zero- or sign-extended by the type (R101). -/
def execVaddr (f : VFmt) (s : State) : Out :=
  let j := jobV addrSpec f
  let t := j.td
  laneRun s { j with tb := .i32 } noImage fun _ _ x l =>
    if t == .i64 then wrapN 64 ((x.a l : Int) + sxInt 32 (x.b l)) else (x.a l + x.b l) % 2 ^ 64

/-- `vmov` (R108). -/
def execVmov (f : UFmt) (s : State) : Out := intU movSpec (fun _ a => a) f s

/-- `vnot` (R108). -/
def execVnot (f : UFmt) (s : State) : Out := intU intN (fun t a => 2 ^ t.width - 1 - a) f s

/-- `vneg` (R108). -/
def execVneg (f : UFmt) (s : State) : Out := intU negSpec (fun t a => wrapN t.width (-(a : Int))) f s

/-- `vabs` (R108). -/
def execVabs (f : UFmt) (s : State) : Out := intU negSpec (fun t a => wrapN t.width (valInt t a).natAbs) f s

/-- `vpopc` (R108). -/
def execVpopc (f : UFmt) (s : State) : Out := intU intN (fun t a => popN t.width a) f s

/-- `vclz` (R108). -/
def execVclz (f : UFmt) (s : State) : Out := intU intN (fun t a => clzN t.width a) f s

/-- `vctz` (R108). -/
def execVctz (f : UFmt) (s : State) : Out := intU intN (fun t a => ctzN t.width a) f s

/-- `vbrev` (R108). -/
def execVbrev (f : UFmt) (s : State) : Out := intU intN (fun t a => brevN t.width a) f s

/-- The 16-bit form of operation 0 (R54). -/
def execCAdd (f : CFmt) (s : State) : Out := intC 0 intI intAdd f s

/-- The 16-bit form of operation 1 (R54). -/
def execCSub (f : CFmt) (s : State) : Out := intC 1 intI intSub f s

/-- The 16-bit form of operation 2 (R54). -/
def execCMul (f : CFmt) (s : State) : Out := intC 2 intI intMul f s

/-- The 16-bit form of operation 3 (R54). -/
def execCAnd (f : CFmt) (s : State) : Out := intC 3 intN intAnd f s

/-- The 16-bit form of operation 4 (R54). -/
def execCOr (f : CFmt) (s : State) : Out := intC 4 intN intOr f s

/-- The 16-bit form of operation 5 (R54). -/
def execCXor (f : CFmt) (s : State) : Out := intC 5 intN intXor f s

/-- The 16-bit form of operation 6 (R54). -/
def execCShl (f : CFmt) (s : State) : Out := intC 6 intN intShl f s

/-- The 16-bit form of operation 7 (R54). -/
def execCShr (f : CFmt) (s : State) : Out := intC 7 intN intShr f s

/-- The 16-bit form of operation 14 (R54). -/
def execCMin (f : CFmt) (s : State) : Out := intC 14 intI intMin f s

/-- The 16-bit form of operation 15 (R54). -/
def execCMax (f : CFmt) (s : State) : Out := intC 15 intI intMax f s

/-- `c.mov`: `vmov.n32` of B (R54). -/
def execCMov (f : CFmt) (s : State) : Out :=
  let j := { jobU movSpec (cAsU f) with causes := cCauses 8 f, len := 2 }
  laneRun s j noImage fun _ _ x l => x.a l

end Sys2Proof.Machine
end

