-- ==== Sys2Proof/Machine/Aes.lean ====
section
/-! DEFINITION. AES-256 and XTS-AES-256 decryption of a data unit, as R307 names the cipher (IEEE Std 1619). -/

namespace Sys2Proof.Machine

/-- Multiply by x in GF(2^8), modulus 0x11B. -/
def gfX (a : Nat) : Nat := if 128 ≤ a % 256 then a % 256 * 2 % 256 ^^^ 0x1B else a % 256 * 2

/-- Multiply in GF(2^8), over the low `n` bits of `b`. -/
def gfMul (n a b : Nat) : Nat :=
  match n with
  | 0 => 0
  | n + 1 => (if b % 2 = 1 then a else 0) ^^^ gfMul n (gfX a) (b / 2)

/-- Power in GF(2^8). -/
def gfPow (a n : Nat) : Nat :=
  match n with
  | 0 => 1
  | n + 1 => gfMul 8 a (gfPow a n)

/-- The inverse in GF(2^8): a²·a⁴·…·a¹²⁸; 0 for 0. -/
def gfInv (a : Nat) : Nat :=
  let a2 := gfMul 8 a a
  let a4 := gfMul 8 a2 a2
  let a8 := gfMul 8 a4 a4
  let a16 := gfMul 8 a8 a8
  let a32 := gfMul 8 a16 a16
  let a64 := gfMul 8 a32 a32
  let a128 := gfMul 8 a64 a64
  gfMul 8 (gfMul 8 (gfMul 8 a2 a4) (gfMul 8 a8 a16)) (gfMul 8 (gfMul 8 a32 a64) a128)

/-- Rotate a byte left. -/
def rotB (x n : Nat) : Nat := x * 2 ^ n % 256 + x / 2 ^ (8 - n)

/-- The S-box. -/
def sbox (a : Nat) : Nat :=
  let b := gfInv a
  b ^^^ rotB b 1 ^^^ rotB b 2 ^^^ rotB b 3 ^^^ rotB b 4 ^^^ 0x63

/-- The inverse S-box. -/
def sboxInv (a : Nat) : Nat := gfInv (rotB a 1 ^^^ rotB a 3 ^^^ rotB a 6 ^^^ 0x05)

/-- Exclusive or of byte lists. -/
def xorB (a b : List Nat) : List Nat := List.zipWith (fun x y => x ^^^ y) a b

/-- The key schedule of AES-256: `w` holds the words so far, newest first. -/
def keyWords (n : Nat) (w : List (List Nat)) : List (List Nat) :=
  match n with
  | 0 => w
  | n + 1 =>
    let i := w.length
    let t := nth w 0 []
    let t :=
      if i % 8 = 0 then
        let r := (t.drop 1 ++ t.take 1).map sbox
        xorB r [gfPow 2 (i / 8 - 1), 0, 0, 0]
      else if i % 8 = 4 then t.map sbox else t
    keyWords n (xorB (nth w 7 []) t :: w)

/-- The first words of a key of 32 bytes. -/
def keyStart (n : Nat) (k : List Nat) : List (List Nat) :=
  match n with
  | 0 => []
  | n + 1 => k.take 4 :: keyStart n (k.drop 4)

/-- The sixteen bytes of each of the 15 round keys, first round first. -/
def roundKeys (k : List Nat) : List (List Nat) :=
  let w := (keyWords 52 (keyStart 8 k).reverse).reverse
  (List.range 15).map fun r => (List.range 4).flatMap fun c => nth w (4 * r + c) []

/-- ShiftRows, rows by offset (column-major bytes). -/
def shiftRows (s : List Nat) : List Nat := (List.range 16).map fun i => nth s ((i + 4 * (i % 4)) % 16) 0
/-- Its inverse. -/
def unshiftRows (s : List Nat) : List Nat := (List.range 16).map fun i => nth s ((i + 16 - 4 * (i % 4)) % 16) 0
/-- MixColumns with the coefficients of a row. -/
def mixWith (k : List Nat) (s : List Nat) : List Nat :=
  (List.range 16).map fun i =>
    (List.range 4).foldl (fun a j => a ^^^ gfMul 8 (nth s (i / 4 * 4 + j) 0) (nth k ((j + 4 - i % 4) % 4) 0)) 0

/-- The middle rounds of encryption, and the last. -/
def encRounds (ks : List (List Nat)) (s : List Nat) : List Nat :=
  match ks with
  | [] => s
  | [k] => xorB (shiftRows (s.map sbox)) k
  | k :: r => encRounds r (xorB (mixWith [2, 3, 1, 1] (shiftRows (s.map sbox))) k)

/-- AES-256 encryption of a block of 16 bytes. -/
def aesEnc (key b : List Nat) : List Nat :=
  match roundKeys key with
  | [] => b
  | k :: r => encRounds r (xorB b k)

/-- The rounds of decryption over the round keys, last first. -/
def decRounds (ks : List (List Nat)) (s : List Nat) : List Nat :=
  match ks with
  | [] => s
  | [k] => xorB ((unshiftRows s).map sboxInv) k
  | k :: r => decRounds r (mixWith [14, 11, 13, 9] (xorB ((unshiftRows s).map sboxInv) k))

/-- AES-256 decryption of a block over the round keys of its key. -/
def aesDec (ks : List (List Nat)) (b : List Nat) : List Nat :=
  match ks.reverse with
  | [] => b
  | k :: r => decRounds r (xorB b k)

/-- The tweak times α in GF(2^128), little-endian bytes (IEEE Std 1619). -/
def tweakNext (t : List Nat) : List Nat :=
  let carry := nth t 15 0 / 128
  (List.range 16).map fun i =>
    (nth t i 0 * 2 % 256 + (if i = 0 then 0 else nth t (i - 1) 0 / 128)) ^^^ (if i = 0 && carry = 1 then 0x87 else 0)

/-- Decrypt `n` blocks under the tweak `t`. -/
def xtsBlocks (ks : List (List Nat)) (n : Nat) (t : List Nat) (bs : List Nat) : List Nat :=
  match n with
  | 0 => []
  | n + 1 => xorB (aesDec ks (xorB (bs.take 16) t)) t ++ xtsBlocks ks n (tweakNext t) (bs.drop 16)

/-- Bytes of a number, little-endian. -/
def numBytes (n x : Nat) : List Nat :=
  match n with
  | 0 => []
  | n + 1 => x % 256 :: numBytes n (x / 256)

/-- Decrypt a data unit of sequence number `unit` under a 512-bit key: Key1 its low 32 bytes, Key2 the next (R307). (DEDUCED, log 47) -/
def xtsDecrypt (key : BitVec 512) (unit : Nat) (bs : List Nat) : List Nat :=
  let k := numBytes 64 key.toNat
  xtsBlocks (roundKeys (k.take 32)) (bs.length / 16) (aesEnc (k.drop 32) (numBytes 16 unit)) bs

end Sys2Proof.Machine
end

