-- ==== Sys2Proof/Machine/Copies.lean ====
section
/-! DEFINITION. Copy requests and the Grist engine (R312 to R320). -/

namespace Sys2Proof.Machine

/-! The request (R312, R313). -/

/-- The size in half bytes of an element of a request's type; none where the type is refused or the record's image is illegal (R26, R312). -/
def copyNib (etype : Nat) (td : BitVec 512) : Option Nat :=
  match Ty.ofCode etype with
  | none => none
  | some .q => if imgLegal (tdFmt td) then some (imgContainer (tdFmt td) / 4) else none
  | some t => some (t.width / 4)

/-- Half bytes of an element of an accepted request. -/
def CopyReq.nib (q : CopyReq) : Nat := (copyNib q.etype q.td).getD 2
/-- Bytes of a tile row. -/
def CopyReq.rowBytes (q : CopyReq) : Nat := q.ext.1 * q.nib / 2
/-- Rows of the tile. -/
def CopyReq.nrows (q : CopyReq) : Nat := q.ext.2.1 * q.ext.2.2.1 * q.ext.2.2.2
/-- The byte count c. -/
def CopyReq.bytes (q : CopyReq) : Nat := q.rowBytes * q.nrows
/-- Local bytes from row to row. -/
def CopyReq.pitch (q : CopyReq) : Nat := if q.lpitch = 0 then q.rowBytes else q.lpitch
/-- Elements of a row that lie inside dimension 0. -/
def CopyReq.inRow (q : CopyReq) : Nat := min q.ext.1 (tdDim q.td 0 - q.org.1)

/-- The byte offset from BASE of a tile row's first element; none where the row lies outside dimensions 1 to 3 (R307, R313). -/
def CopyReq.rowOff (q : CopyReq) (r : Nat) : Option Nat :=
  let a1 := r % q.ext.2.1
  let t1 := if q.gather then nth q.rows a1 0 else q.org.2.1 + a1
  let t2 := q.org.2.2.1 + r / q.ext.2.1 % q.ext.2.2.1
  let t3 := q.org.2.2.2 + r / q.ext.2.1 / q.ext.2.2.1
  if t1 < tdDim q.td 1 && t2 < tdDim q.td 2 && t3 < tdDim q.td 3 && q.inRow != 0 then
    some (q.org.1 * q.nib / 2 + t1 * tdStride q.td 1 + t2 * tdStride q.td 2 + t3 * tdStride q.td 3)
  else none

/-- Bytes of a row that an inside element reaches. -/
def CopyReq.rowIn (q : CopyReq) : Nat := (q.inRow * q.nib + 1) / 2

/-- The bits of byte `b` of a row that belong to inside elements: all, the low half, none. -/
def CopyReq.byteMask (q : CopyReq) (b : Nat) : Byte :=
  if 2 * b + 2 ≤ q.inRow * q.nib then 0xFF else if 2 * b + 1 ≤ q.inRow * q.nib then 0x0F else 0

/-- The first virtual address of each 32 KiB frame that a run of bytes touches. -/
def frameVas (va n fuel : Nat) : List Nat :=
  match fuel with
  | 0 => []
  | f + 1 =>
    if n = 0 then []
    else
      let room := 32768 - va % 32768
      va % 2 ^ 64 :: (if n ≤ room then [] else frameVas (va + room) (n - room) f)

/-- The addresses that a request translates, in request order. -/
def CopyReq.vas (q : CopyReq) : List Nat :=
  (List.range q.nrows).flatMap fun r =>
    match q.rowOff r with
    | some o => frameVas (tdBase q.td + o) q.rowIn (q.rowIn / 32768 + 2)
    | none => []

/-- The memory range of a request: from its least byte to one past its greatest (R317). -/
def CopyReq.memRange (q : CopyReq) : Nat × Nat :=
  let l := (List.range q.nrows).filterMap q.rowOff
  match l with
  | [] => (0, 0)
  | x :: r => (tdBase q.td + r.foldl min x, tdBase q.td + r.foldl max x + q.rowIn)

/-! Acceptance (R314 to R316). -/

/-- A request before its checks. -/
def parseReq (h : Here) (num : Nat) (raw : BitVec 512) (rows : Option (List Nat)) : CopyReq :=
  { id := 0, num := num, gid := h.gid, ctx := h.cid, lcore := h.lcore, pc := h.f.pc, td := tdRec h.c (bf raw 10 6),
    org := (bf raw 480 32, bf raw 448 32, bf raw 416 32, bf raw 384 32),
    ext := (bf raw 368 16, bf raw 352 16, bf raw 336 16, bf raw 320 16),
    laddr := bf raw 288 32, lpitch := bf raw 256 32,
    bar := if bf raw 224 32 = 0xFFFFFFFF then none else some (bf raw 224 32),
    dir := bf raw 8 2, etype := bf raw 4 4, rows := rows.getD [], gather := rows.isSome, pages := [], mlo := 0, mhi := 0, lhi := 0,
    phys := [], moved := 0, arrived := 0, waits := false, since := 0 }

/-- SUB 1 without the element size (R316); an index count above 256 is out of R312's range. -/
def reqShapeBad (raw : BitVec 512) (q : CopyReq) : Bool :=
  bf raw 16 208 != 0 || bf raw 0 4 != 0 || q.dir == 3 || (Ty.ofCode q.etype).isNone
    || q.ext.1 == 0 || q.ext.2.1 == 0 || q.ext.2.2.1 == 0 || q.ext.2.2.2 == 0
    || (q.gather && (q.dir == 1 || 256 < q.ext.2.1))

/-- SUB 1 with the element size. -/
def reqSizeBad (q : CopyReq) : Bool :=
  (q.nib == 1 && (q.ext.1 % 2 == 1 || q.org.1 % 2 == 1)) || (q.lpitch != 0 && q.lpitch < q.rowBytes) || 2 ^ 24 < q.bytes

/-- One past the last local byte. -/
def CopyReq.localEnd (q : CopyReq) : Nat := q.laddr + (q.nrows - 1) * q.pitch + q.rowBytes

/-- One past the last byte of the region that holds a scratchpad address. -/
def regionEnd (b : Block) (a : Nat) : Nat :=
  match sRegion b a 1 with
  | some (.priv, _) => b.foot.scratch
  | some (.shared, _) => 0x40000000 + b.foot.shared
  | some (.tag, _) => 0xC0000000 + 256 * b.foot.tlines
  | none => a

/-- The first byte of a row of the tile that lies in no region of the scratchpad (R157). -/
def rowLocalBad (b : Block) (q : CopyReq) (r : Nat) : Option Nat :=
  let a := q.laddr + r * q.pitch
  if (sRegion b a q.rowBytes).isSome then none else some (regionEnd b a)

/-- SUB 4: the failing address. -/
def reqLocalBad (b : Block) (q : CopyReq) : Option Nat :=
  match (if q.dir = 2 then none else (List.range q.nrows).findSome? (rowLocalBad b q)) with
  | some a => some a
  | none =>
    match q.bar with
    | none => none
    | some a =>
      match sRegion b a 8 with
      | some (.priv, _) => if a % 8 = 0 then none else some a
      | some (.shared, _) => if a % 8 = 0 then none else some a
      | _ => some a

/-- The slot names of a DIR 2 run. -/
def CopyReq.names (q : CopyReq) : List Nat := (List.range ((q.bytes + 4095) / 4096)).map fun i => q.laddr % 128 + i

/-- The physical slots of names of a block core (R186); none where a name is unmapped or above 127. -/
def slotsNamed (b : Block) (idx : Nat) (l : List Nat) : Option (List Nat) :=
  match l with
  | [] => some []
  | n :: r =>
    if 127 < n then none
    else
      match Tbl.get? b.slots (128 * idx + n), slotsNamed b idx r with
      | some p, some ps => some (p :: ps)
      | _, _ => none

/-- The tile is one contiguous run of the tensor's bytes, all inside it (R319). -/
def reqDense (q : CopyReq) : Bool :=
  let off0 := (q.rowOff 0).getD 0
  q.inRow == q.ext.1 && (List.range q.nrows).all fun r => q.rowOff r == some (off0 + r * q.rowBytes)

/-- SUB 6 (R319). -/
def reqSealBad (q : CopyReq) : Bool :=
  tdWorld q.td != 0 &&
    (q.dir != 2 || q.gather || !reqDense q || (q.rowOff 0).getD 1 % 4096 != 0 || q.bytes % 4096 != 0)

/-- What the checks before translation answer: the request, or SUB and ADDR. -/
inductive ReqAns where
  | ok (q : CopyReq)
  | fail (sub addr : Nat)

/-- The checks of R316, in order, before the translations. -/
def checkReq (h : Here) (raw : BitVec 512) (q : CopyReq) : ReqAns :=
  if reqShapeBad raw q then .fail 1 0
  else if (List.range 4).any fun m => tdDim q.td m == 0 then .fail 2 0
  else if (copyNib q.etype q.td).isNone then .fail 3 0
  else if reqSizeBad q then .fail 1 0
  else
    match reqLocalBad h.b q with
    | some a => .fail 4 a
    | none =>
      match (if q.dir = 2 then slotsNamed h.b h.idx q.names else some []) with
      | none => .fail 5 0
      | some ps =>
        if reqSealBad q then .fail 6 0
        else .ok { q with phys := ps, mlo := q.memRange.1, mhi := q.memRange.2, lhi := if q.dir = 2 then 0 else q.localEnd }

/-- Entries of a core's walk-ahead TLB. -/
def walkOf (s : State) (core : Nat) : List TlbEntry := (Tbl.get? s.mem.walk core).getD []
/-- An entry becomes the most recent. -/
def walkUse (s : State) (core : Nat) (e : TlbEntry) : State :=
  { s with mem := { s.mem with walk := Tbl.set s.mem.walk core (tlbPut (walkOf s core) e 128 4) } }

/-- Translate through a core's walk-ahead TLB (R273). -/
def translateWalk (s : State) (core cid : Nat) (c : Ctx) (va : Nat) (needW : Bool) : Xlat × State :=
  let ok := fun (e : TlbEntry) => if surfRefuses s c e then (Xlat.fault 0x024 8, s) else (.ok e, walkUse s core e)
  match tlbFind (walkOf s core) cid va with
  | some e => if needW && !e.w then (.fault 0x023 1, s) else ok e
  | none =>
    match fill s cid c va needW false with
    | .ok e => ok e
    | x => (x, s)

/-- What translating a request's pages answers. -/
inductive PagesAns where
  | ok (l : List TlbEntry)
  | fail (addr : Nat)
  | wait

/-- Translate every touched page, in request order (R316). -/
def walkPages (core cid : Nat) (c : Ctx) (needW : Bool) (vas : List Nat) (s : State) (acc : List TlbEntry) : PagesAns × State :=
  match vas with
  | [] => (.ok acc, s)
  | va :: r =>
    match translateWalk s core cid c va needW with
    | (.ok e, s) => walkPages core cid c needW r s (if acc.contains e then acc else acc ++ [e])
    | (.fault _ _, s) => (.fail va, s)
    | (.wait _, s) => (.wait, s)

/-- A copy-fail record for a group's request (R316); in a handler invocation the context stops (R150). -/
def copyFail (s : State) (gid cid : Nat) (pc : W64) (sub addr : Nat) : State :=
  let cause := causeOf 1 0x050 sub
  let hdl := match Tbl.get? s.groups gid with | some g => g.handler.isSome | none => false
  if hdl then stopContext s cid cause
  else
    match Tbl.get? s.blocks (bsnOf gid) with
    | none => s
    | some b =>
      placeRecord s cid { handle := 0, cause := cause, pc := pc, addr := BitVec.ofNat 64 addr, time := s.time, pt := b.pt, slot := b.slot, since := none }

/-- A request enters the queue of a core. -/
def pushCopy (s : State) (core : Nat) (q : CopyReq) : State :=
  modCore s core fun c => { c with kicks := c.kicks ++ [{ q with id := c.nextCopy, since := s.time }], nextCopy := c.nextCopy + 1 }

/-- Accept a checked request: its pages are translated, unless one before it is held by a page-in. -/
def translateReq (s : State) (core : Nat) (c : Ctx) (q : CopyReq) : State :=
  if (coreOf s core).kicks.any fun x => x.waits then pushCopy s core { q with waits := true }
  else
    match walkPages core q.ctx c (q.dir == 1) q.vas s [] with
    | (.ok l, s) => pushCopy s core { q with pages := l }
    | (.wait, s) => pushCopy s core { q with waits := true }
    | (.fail va, s) => markCopies (copyFail s q.gid q.ctx q.pc 7 va) q.ctx q.lcore

/-- Accept one request under the next number of the logical core (R314). -/
def acceptReq (s : State) (h : Here) (raw : BitVec 512) (rows : Option (List Nat)) : State :=
  match Tbl.get? s.ctxs h.cid with
  | none => s
  | some c =>
    let num := (SMap.get c.counts.ctr h.lcore).toNat + 1
    let s := modCounts s h.cid fun k => { k with ctr := SMap.set k.ctr h.lcore (BitVec.ofNat 64 num) }
    match checkReq h raw (parseReq h num raw rows) with
    | .fail sub addr => markCopies (copyFail s h.gid h.cid h.f.pc sub addr) h.cid h.lcore
    | .ok q => translateReq s h.core c q

/-- Accept requests in list order, while the context runs on. -/
def acceptAll (s : State) (h : Here) (l : List (BitVec 512)) : State :=
  match l with
  | [] => s
  | r :: t => acceptAll (if (Tbl.get? s.groups h.gid).isSome then acceptReq s h r none else s) h t

/-- CTR of the issuing logical core. -/
def ctrNow (s : State) (h : Here) : W64 :=
  match Tbl.get? s.ctxs h.cid with
  | some c => SMap.get c.counts.ctr h.lcore
  | none => 0

/-- Cut bytes into records of 64. -/
def cut64 (n : Nat) (bs : List Byte) : List (BitVec 512) :=
  match n with
  | 0 => []
  | n + 1 => rec512 (bs.take 64) :: cut64 n (bs.drop 64)

/-- A list address is in the private or shared region, `n` bytes (R314). (DEDUCED, log 46) -/
def inPrivShared (b : Block) (a n : Nat) : Bool :=
  match sRegion b a n with
  | some (.priv, _) => true
  | some (.shared, _) => true
  | _ => false

/-- `cp.kick` (R314). -/
def execCpKick (f : GFmt) (s : State) : Out :=
  gRun (cpKickCauses f) true f.pfx (abRegs f) (fun s h len =>
    let a := (uniVal h.g f.pfx f.a).toNat
    let n := (uniVal h.g f.pfx f.b).toNat
    if n < 1 || 64 < n then raiseP s h len 0x006 0
    else if !inPrivShared h.b a (64 * n) then raisePAt s h len 0x020 0 a
    else if a % 64 != 0 then raisePAt s h len 0x021 0 a
    else afterStores s h fun s h =>
      if 64 < (coreOf s h.core).kicks.length + n then s
      else if badHere h.b h.gid a (64 * n) then raisePAt s h len 0x025 2 a
      else
        let s := acceptAll s h (cut64 n (readScratch s h.gid a (64 * n)))
        h.advance (putDst s h.gid (dstOf f.pfx f.a) (ctrNow s h)) len) s

/-- Indices of 4 bytes. -/
def cutIdx (n : Nat) (bs : List Byte) : List Nat :=
  match n with
  | 0 => []
  | n + 1 => leNat (bs.take 4) :: cutIdx n (bs.drop 4)

/-- `cp.gather` (R315). (DEDUCED, log 45) -/
def execCpGather (f : GFmt) (s : State) : Out :=
  gRun (cpGatherCauses f) true f.pfx (abRegs f) (fun s h len =>
    let a := (uniVal h.g f.pfx f.a).toNat
    let x := (uniVal h.g f.pfx f.b).toNat
    if !inPrivShared h.b a 64 then raisePAt s h len 0x020 0 a
    else if !inPrivShared h.b x 4 then raisePAt s h len 0x020 0 x
    else if a % 64 != 0 then raisePAt s h len 0x021 0 a
    else if x % 4 != 0 then raisePAt s h len 0x021 0 x
    else afterStores s h fun s h =>
      if 64 ≤ (coreOf s h.core).kicks.length then s
      else
        let raw := rec512 (readScratch s h.gid a 64)
        let n := bf raw 352 16
        if badHere h.b h.gid a 64 || (n ≤ 256 && badHere h.b h.gid x (4 * n)) then raisePAt s h len 0x025 2 (if badHere h.b h.gid a 64 then a else x)
        else if 256 < n || inPrivShared h.b x (4 * n) then
          let s := acceptReq s h raw (some (if 256 < n then [] else cutIdx n (readScratch s h.gid x (4 * n))))
          h.advance (putDst s h.gid (dstOf f.pfx f.a) (ctrNow s h)) len
        else raisePAt s h len 0x020 0 x) s

/-! Execution (R317, R318). -/

/-- A request leaves the queue of a core; the reservation ends with the last (R353). -/
def dropCopy (s : State) (core : Nat) (q : CopyReq) : State :=
  let s := modCore s core fun c => { c with kicks := c.kicks.filter fun x => x.id != q.id }
  let s := if (coreOf s core).kicks.isEmpty then kilnEnd s (.grist core) else s
  sweepSlots (markCopies s q.ctx q.lcore) core

/-- A request that a page-in held is translated again (R316). -/
def retryCopy (s : State) (core : Nat) (q : CopyReq) : State :=
  match Tbl.get? s.ctxs q.ctx with
  | none => s
  | some c =>
    match walkPages core q.ctx c (q.dir == 1) q.vas s [] with
    | (.ok l, s) =>
      modCore s core fun c => { c with kicks := c.kicks.map fun x => if x.id = q.id then { x with pages := l, waits := false } else x }
    | (.wait, s) => s
    | (.fail va, s) => copyFail (dropCopy s core q) q.gid q.ctx q.pc 7 va

/-- The local ranges of two requests meet: private bytes are a group's, the others a block's. -/
def localMeet (x y : CopyReq) : Bool :=
  let m := 0x40000000
  (x.gid == y.gid && rangesMeet x.laddr (min x.lhi m) y.laddr (min y.lhi m - y.laddr))
    || (bsnOf x.gid == bsnOf y.gid && rangesMeet (max x.laddr m) x.lhi (max y.laddr m) (y.lhi - max y.laddr m))

/-- Two requests may touch a byte in common: a frame, local bytes or a slot. (DEDUCED, log 48) -/
def copiesMeet (x y : CopyReq) : Bool :=
  x.waits || y.waits
    || x.pages.any (fun e => y.pages.any fun f => e.space == f.space && e.base / 32768 ≤ (f.base + 2 ^ f.bits - 1) / 32768
        && f.base / 32768 ≤ (e.base + 2 ^ e.bits - 1) / 32768)
    || (x.dir != 2 && y.dir != 2 && localMeet x y)
    || x.phys.any (fun p => y.phys.contains p)

/-- An operation accepted before the request still has to read one of its slots (R196). -/
def slotsHeld (c : Core) (q : CopyReq) : Bool :=
  c.mashq.any fun o => o.out.isNone && !o.after.contains q.id && (o.slotsA ++ o.slotsB).any fun p => q.phys.contains p

/-- Request `k` of a core is next to move bytes: nothing holds it but the reservation (R316, R317). -/
def copyReady (s : State) (core k : Nat) (q : CopyReq) : Bool :=
  !q.waits && q.moved < q.bytes && !slotsHeld (coreOf s core) q && ((coreOf s core).kicks.take k).all fun x => !copiesMeet x q

/-- The slots of a run at the request's start: the seal state of its source, every byte 0 (R186, R319). -/
def prepareSlots (s : State) (core : Nat) (q : CopyReq) (l : List Nat) (i : Nat) : State :=
  match l with
  | [] => s
  | p :: r =>
    let sealed := tdWorld q.td != 0
    let s := modCore s core fun c =>
      { c with
        slots := Tbl.modify c.slots p fun e =>
          { e with sealed := sealed, world := tdWorld q.td, key := tdKey q.td,
                   twk := if sealed then ((q.rowOff 0).getD 0 / 4096 + i) % 2 ^ 24 else 0 },
        opmem := SMap.keep c.opmem fun k => k / 4096 != p }
    prepareSlots s core q r (i + 1)

/-- Bytes of an element; of two where they share a byte. -/
def CopyReq.eb (q : CopyReq) : Nat := max 1 (q.nib / 2)

/-- The places of the element whose first byte stands at a position of the tile: one, or two where it crosses into another frame; none where it
lies outside the tensor (R366). -/
def CopyReq.parts (q : CopyReq) (p : Nat) : List Part :=
  match q.rowOff (p / q.rowBytes) with
  | none => []
  | some o =>
    if q.byteMask (p % q.rowBytes) = 0 then []
    else
      let va := (tdBase q.td + o + p % q.rowBytes) % 2 ^ 64
      match tlbFind q.pages q.ctx va with
      | none => []
      | some e =>
        let x := partOf e va 0 q.eb
        if x.n = q.eb then [x]
        else
          match tlbFind q.pages q.ctx ((va + x.n) % 2 ^ 64) with
          | some f => [x, partOf f ((va + x.n) % 2 ^ 64) x.n (q.eb - x.n)]
          | none => [x]

/-- The first position of the element at a position. -/
def CopyReq.startOf (q : CopyReq) (p : Nat) : Nat := p - p % q.rowBytes % q.eb
/-- The elements that begin among `n` bytes from where a request stands. -/
def CopyReq.starts (q : CopyReq) (n : Nat) : List Nat := ((List.range n).map fun i => q.moved + i).filter fun p => q.startOf p == p

/-- The local address of a position. -/
def CopyReq.localAt (q : CopyReq) (p : Nat) : Nat := q.laddr + p / q.rowBytes * q.pitch + p % q.rowBytes

/-- A place is a peer's. -/
def Part.isPeer (x : Part) : Bool := match x.space with | .peer _ => true | _ => false

/-- The byte at a position is written to a peer: it is counted as it is acknowledged (R318, R375). -/
def CopyReq.toPeer (q : CopyReq) (p : Nat) : Bool :=
  let i := p - q.startOf p
  q.dir == 1 && (q.parts (q.startOf p)).any fun x => x.isPeer && x.off ≤ i && i < x.off + x.n

/-- Read the bytes of a part for a copy: those of a frame that has changed hands read 0 and are logged (R274), a peer's are free values. -/
def copyRead (s : State) (cid : Nat) (x : Part) : List Byte × State :=
  match x.space with
  | .peer _ => freeBytes s x.n
  | sp => readFor s cid sp x.pa x.n

/-- Read the parts of an element, each as one event (R365). -/
def copyReads (s : State) (cid : Nat) (l : List Part) : List Byte × State :=
  match l with
  | [] => ([], s)
  | x :: r =>
    let a := copyRead s cid x
    let b := copyReads a.2 cid r
    (a.1 ++ b.1, b.2)

/-- The write of a part of an element to a peer, in the name of its request. -/
def copyAcc (s : State) (q : CopyReq) (x : Part) (bs : List Byte) : Acc :=
  { gid := q.gid, pc := q.pc, ctx := q.ctx, lane := 65 + q.id, seq := s.steps, space := x.space, pa := x.pa, n := x.n, kind := x.kind, vpa := x.vpa,
    world := x.world, op := .store bs, dst := none, val := none, micro := none, tied := none }

/-- Write the parts of an element, each as one event; the bits of `m` alone (R313, R365). -/
def copyWrites (s : State) (q : CopyReq) (m : Byte) (bs : List Byte) (l : List Part) : State :=
  match l with
  | [] => s
  | x :: r =>
    let old := readPhys s.mem x.space x.pa x.n
    let new := (List.range x.n).map fun i => (nth bs (x.off + i) 0 &&& m) ||| (nth old i 0 &&& ~~~m)
    copyWrites (match x.space with
      | .peer _ => sendPeer { s with mem := { s.mem with tick := s.mem.tick + 1 } } (copyAcc s q x new)
      | sp => writeFor s q.ctx sp x.pa x.vpa new) q m bs r

/-- Move the element at a position of the tile (R313). -/
def moveElem (s : State) (core : Nat) (q : CopyReq) (p : Nat) : State :=
  let m := q.byteMask (p % q.rowBytes)
  match q.dir with
  | 1 => copyWrites s q m (readScratch s q.gid (q.localAt p) q.eb) (q.parts p)
  | d =>
    let r := copyReads s q.ctx (q.parts p)
    let bs := if r.1.isEmpty then List.replicate q.eb 0 else r.1.map (· &&& m)
    if d = 0 then writeScratch r.2 q.gid (q.localAt p) bs
    else modCore r.2 core fun c => { c with opmem := SMap.setList c.opmem (4096 * nth q.phys (p / 4096) 0 + p % 4096) bs }

/-- Move the elements of a list of positions. -/
def moveElems (core : Nat) (q : CopyReq) (l : List Nat) (s : State) : State :=
  match l with
  | [] => s
  | p :: r => moveElems core q r (moveElem s core q p)

/-- Two parts share a byte. -/
def Part.meets (x y : Part) : Bool := x.space == y.space && x.pa < y.pa + y.n && y.pa < x.pa + x.n

/-- No two parts of a list share a byte. -/
def partsApart (l : List Part) : Bool :=
  match l with
  | [] => true
  | x :: r => !r.any x.meets && partsApart r

/-- The peer writes of a move may leave: none overlaps another, or one of the context not acknowledged, and the counter has room (R351, R376). -/
def copyMayLeave (s : State) (q : CopyReq) (n : Nat) : Bool :=
  let l := if q.dir = 1 then ((q.starts n).flatMap q.parts).filter Part.isPeer else []
  l.isEmpty || (partsApart l && ackRoom s q.ctx l.length && l.all fun x => !(s.mem.fab.any fun e => e.ctx == q.ctx && e.writes && e.overlaps (copyAcc s q x [])))

/-- Request `k` of a core may move `n` bytes now (R317, R318). -/
def mayMove (s : State) (core k n : Nat) (q : CopyReq) : Bool :=
  1 ≤ n && n ≤ 128 && q.moved + n ≤ q.bytes && kilnHeld s (.grist core) && copyReady s core k q && copyMayLeave s q n

/-- The next elements of a request meet an uncorrectable error (R383). -/
def copyPoisoned (s : State) (q : CopyReq) (n : Nat) : Option Nat :=
  if q.dir = 1 then none
  else
    (q.starts n).findSome? fun p =>
      if (q.parts p).any fun x => x.space == .loc && (errorOf s x.pa x.n).isSome then
        some ((tdBase q.td + (q.rowOff (p / q.rowBytes)).getD 0 + p % q.rowBytes) % 2 ^ 64)
      else none

/-- Bytes of a request are performed: they are counted down its barrier object, and it retires at its last (R318). -/
def countCopy (s : State) (core id n : Nat) : State :=
  match (coreOf s core).kicks.find? fun x => x.id == id with
  | none => s
  | some q =>
    let s := modCore s core fun c => { c with kicks := c.kicks.map fun x => if x.id = id then { x with arrived := q.arrived + n } else x }
    let s := match q.bar with | some a => if n = 0 then s else applyBar s q.gid a false n | none => s
    if q.arrived + n = q.bytes then dropCopy s core q else s

/-- A write of a copy to a peer is acknowledged (R318, R375). -/
def copyAck (s : State) (a : Acc) : State :=
  match s.cores.findSome? fun e => (e.2.kicks.find? fun q => 65 + q.id == a.lane && q.gid == a.gid).map fun q => (e.1, q.id) with
  | some (core, id) => countCopy s core id a.n
  | none => s

/-- Move bytes of a request: the elements that begin among them, each by one read and one write; bytes that do not go to a peer are counted (R318, R365). -/
def copyArrive (s : State) (core n : Nat) (q : CopyReq) : State :=
  match copyPoisoned s q n with
  | some va => copyFail (dropCopy s core q) q.gid q.ctx q.pc 8 va
  | none =>
    let s := if q.dir = 2 && q.moved = 0 then prepareSlots s core q q.phys 0 else s
    let s := moveElems core q (q.starts n) s
    let s := modCore s core fun c => { c with kicks := c.kicks.map fun x => if x.id = q.id then { x with moved := q.moved + n, since := s.time } else x }
    countCopy s core q.id ((((List.range n).map fun i => q.moved + i).filter fun p => !q.toPeer p).length)

/-- The engine of a core moves `n` bytes of its request `k`; a request held by a page-in is translated again (R316 to R318). -/
def execCopyByteArrival (core k n : Nat) (s : State) : Out :=
  match (coreOf s core).kicks[k]? with
  | none => .next s
  | some q =>
    .next (if q.waits && ((coreOf s core).kicks.take k).all (fun x => !x.waits) then retryCopy s core q
           else if mayMove s core k n q then copyArrive s core n q else s)

end Sys2Proof.Machine
end

