-- ==== Sys2Proof/Machine/Mash.lean ====
section
/-! DEFINITION. The Mash engine: operand slots, `mm`, the rendezvous latch, the accumulator instructions and their execution (R185 to R203). -/

namespace Sys2Proof.Machine

/-! Operands of the `mop` family. -/

/-- A unit, slot name or count: a raw code, or a scalar below `lim` (R186 to R198). -/
def mopVal (h : Here) (p : Option Prefix) (c : Byte) (lim : Nat) : Option Nat :=
  if isScalar c then
    let v := (getSreg h.g (scalarNo p c)).toNat
    if v < lim then some v else none
  else some c.toNat

/-- A use of accumulators: ownership first, then a lost image, then the rest (R195, R201). -/
def useUnits (s : State) (h : Here) (len : Nat) (k : State → Here → State) : State :=
  if !ownsUnits s h then ownTrap s h
  else if imageLost h then raiseP (clearLost s h) h len 0x031 0
  else k s h

/-! Acceptance (R192, R195, R196). -/

/-- A fragment read of some group waits on a unit that the operation writes (R115). -/
def fragHolds (c : Core) (k : MashKind) : Bool := c.fragWait.any fun e => k.writes e.2

/-- The queue takes an operation now. -/
def queueRoom (c : Core) (k : MashKind) : Bool := c.mashq.length < 32 && !fragHolds c k

/-- An operation enters the engine queue: it follows the copies into its slots accepted before it. -/
def acceptOp (s : State) (core : Nat) (o : MashOp) : State :=
  modCore s core fun c =>
    { c with mashq := c.mashq ++ [{ o with after := (c.kicks.filter fun q => q.phys.any fun p => (o.slotsA ++ o.slotsB).contains p).map (·.id) }] }

/-- PEND of a group rises. -/
def addPend (s : State) (gid : Nat) : State := modGroup s gid fun g => { g with eng := { g.eng with pend := g.eng.pend + 1 } }

/-- Rows of A, and bytes of B, of a shape. -/
def mmUnits (m n : Nat) : Nat := (m * n + 1023) / 1024
/-- Slot names of an operand of `r` rows or columns. -/
def operandNames (os r : Nat) : List Nat := (List.range ((64 * r + 4095) / 4096)).map fun i => os + i

/-- The physical slots of both operands of an operation in a block core. -/
def mmSlots (b : Block) (idx : Nat) (op : MmOp) : Option (List Nat × List Nat) :=
  match slotsNamed b idx (operandNames op.a.os op.m), slotsNamed b idx (operandNames op.b.os op.n) with
  | some a, some b => some (a, b)
  | _, _ => none

/-- A closed entry leaves the latch: its names are checked again, and it is accepted, or aborted for every member (R195);
one whose block is cancelled before is dropped (R199; DESIGN CHOICE, log 150). -/
def leaveLatch (s : State) (core : Nat) (e : LatchEntry) : State :=
  let s := modCore s core fun c => { c with latch := c.latch.erase e }
  let gids := e.joined.map fun x => e.bsn * 256 + x
  match Tbl.get? s.blocks e.bsn with
  | none => s
  | some b =>
    match mmSlots b (coreIdx b (nth gids 0 0)) e.op with
    | some (x, y) => acceptOp s core { kind := .mm e.op, members := gids, ctx := e.ctx, slotsA := x, slotsB := y, after := [], out := none }
    | none => abortEntries s [e]

/-- Closed entries leave, oldest first, while the queue takes them. -/
def pumpLatch (s : State) (core fuel : Nat) : State :=
  match fuel with
  | 0 => s
  | n + 1 =>
    let c := coreOf s core
    match c.latch.find? fun e => e.closed with
    | none => s
    | some e => if queueRoom c (.mm e.op) then pumpLatch (leaveLatch s core e) core n else s

/-- A solo operation: it stalls at issue while PEND is 16 or the queue has no room (R195, R197). -/
def soloIssue (s : State) (h : Here) (len : Nat) (k : MashKind) (x y : List Nat) : State :=
  if 16 ≤ h.g.eng.pend || !queueRoom (coreOf s h.core) k then s
  else
    let s := acceptOp s h.core { kind := k, members := [h.gid], ctx := h.cid, slotsA := x, slotsB := y, after := [], out := none }
    h.advance (addPend s h.gid) len

/-! `mm` (R189 to R195). -/

/-- M. -/
def mmM (f : XFmt) : Nat := 32 * 2 ^ f.mf.toNat
/-- N. -/
def mmN (f : XFmt) : Nat := 16 * f.nf.toNat
/-- The element class. -/
def mmCls (f : XFmt) : Nat := f.fn.toNat / 64
/-- K of a class. -/
def clsK (cls : Nat) : Nat := 32 * 2 ^ cls

/-- An image fits a class (R189, R190). -/
def imageFits (cls : Nat) (im : W32) : Bool := imgLegal im && (if cls = 1 then 5 ≤ imgW im else imgW im ≤ 4)
/-- A record's scale mode and base are legal (R30). -/
def scaleLegal (r : BitVec 512) : Bool :=
  tdSmode r != 7 && (tdSmode r == 0 || tdSbase r % (if tdSmode r ≤ 3 then 4 else 2) == 0)

/-- Elements in a scale group of a mode 4 to 6. -/
def groupLen (smode : Nat) : Nat := 2 ^ smode
/-- The offsets from the scale base of the scales that a tile of `rows` rows from `row`, and K elements from `koff`, uses (R30); a row past the tensor's last, an index
past D0 and a group past a row's last go on with the scales at the places that follow (DESIGN CHOICE, log 135). -/
def scaleOffs (r : BitVec 512) (row rows koff k : Nat) : List Nat :=
  match tdSmode r with
  | 0 => []
  | 1 => [0]
  | 2 => (List.range rows).map fun i => 4 * (row + i)
  | 3 => (List.range k).map fun j => 4 * (koff + j)
  | m =>
    let g := groupLen m
    let per := (tdDim r 0 + g - 1) / g
    let lo := koff / g
    let n := (koff + k - 1) / g - lo + 1
    (List.range rows).flatMap fun i => (List.range n).map fun j => 2 * ((row + i) * per + lo + j)

/-- Translate and check scales at issue (R190). -/
def scalePlaces (h : Here) (base size : Nat) (l : List Nat) (s : State) : Checked (List PhysRef) × State :=
  match l with
  | [] => (.ok [], s)
  | o :: r =>
    match checkVirtual s h.core h.cid h.c ((base + o) % 2 ^ 64) size true false with
    | (.ok ps, s) =>
      match scalePlaces h base size r s with
      | (.ok t, s) => (.ok (ps.map (fun p => ⟨p.space, p.pa, p.vpa⟩) ++ t), s)
      | x => x
    | (.fault c b a, s) => (.fault c b a, s)
    | (.wait, s) => (.wait, s)

/-- An operand's side of an operation, its scales placed. -/
def mmSide (h : Here) (cls os td row rows koff : Nat) (s : State) : Checked MmSide × State :=
  let k := clsK cls
  if cls = 0 then (.ok { os := os, fmt := 0, smode := 0, scales := [], groups := 1, koff := koff }, s)
  else
    let r := tdRec h.c td
    let m := tdSmode r
    let g := groupLen m
    match scalePlaces h (tdSbase r) (if m ≤ 3 then 4 else 2) (scaleOffs r row rows koff k) s with
    | (.ok l, s) =>
      (.ok { os := os, fmt := tdFmt r, smode := m, scales := l, groups := (koff + k - 1) / g - koff / g + 1, koff := koff }, s)
    | (.fault c b a, s) => (.fault c b a, s)
    | (.wait, s) => (.wait, s)

/-- The listed GIDX values of a GANG word (R142). -/
def gangList (v : W64) : List Nat := (List.range (v.toNat / 2 ^ 48 % 8)).map fun i => v.toNat / 256 ^ i % 256

/-- A number into a rising list. -/
def insertNat (x : Nat) (l : List Nat) : List Nat :=
  match l with
  | [] => [x]
  | y :: r => if x ≤ y then x :: y :: r else y :: insertNat x r
/-- Rising. -/
def sortNat (l : List Nat) : List Nat := l.foldr insertNat []

/-- A gang list is valid for the issuing group (R191). -/
def gangValid (s : State) (h : Here) (l : List Nat) : Bool :=
  l.contains (gidxOf h.gid) && noRepeats l
    && l.all fun x => match Tbl.get? s.groups (h.bsn * 256 + x) with | some g => g.place.core == h.core | none => false

/-- A member joins an entry; the last closes it (R192). The operation keeps the images and the scale places of the opener (DESIGN CHOICE, log 149). -/
def joinEntry (s : State) (h : Here) (len : Nat) (e : LatchEntry) : State :=
  let e' := { e with joined := e.joined ++ [gidxOf h.gid], closed := e.joined.length + 1 == e.set.length }
  let s := modCore s h.core fun c => { c with latch := c.latch.replace e e' }
  let s := h.advance (addPend s h.gid) len
  if e'.closed then pumpLatch s h.core 8 else s

/-- A gang member arrives (R192); one whose PEND is 16 is not held (R195; DESIGN CHOICE, log 148). -/
def gangIssue (s : State) (h : Here) (len : Nat) (f : XFmt) (op : MmOp) (ow pw : W64) (set : List Nat) : State :=
  let c := coreOf s h.core
  let w : XFmt := { f with pfx := none }
  match c.latch.find? fun e => !e.closed && e.bsn == h.bsn && e.set == set && !e.joined.contains (gidxOf h.gid) with
  | some e => if e.word == w && e.ow == ow && e.pw == pw then joinEntry s h len e else raiseP s h len 0x036 0
  | none =>
    if 8 ≤ (c.latch.filter fun e => !e.closed).length then s
    else
      let e : LatchEntry := { bsn := h.bsn, ctx := h.cid, set := set, joined := [gidxOf h.gid], op := op, word := w, ow := ow, pw := pw, closed := false }
      h.advance (addPend (modCore s h.core fun c => { c with latch := c.latch ++ [e] }) h.gid) len

/-- The rest of `mm` after its scales were placed: a gang, or a solo operation. -/
def mmIssue (s : State) (h : Here) (len : Nat) (f : XFmt) (op : MmOp) (ow pw : W64) (x y : List Nat) : State :=
  let l := gangList h.g.gang
  if l.isEmpty then soloIssue s h len (.mm op) x y
  else if !gangValid s h l then raiseP s h len 0x035 0
  else if l.length = 1 then soloIssue s h len (.mm op) x y
  else gangIssue s h len f op ow pw (sortNat l)

/-- The checks of `mm` on its words, slots, bounds, images and scales (R195). -/
def mmChecks (s : State) (h : Here) (len : Nat) (f : XFmt) (ow pw : W64) : State :=
  let w := ow.toNat
  let p := pw.toNat
  let cls := mmCls f
  let tda := w / 2 ^ 52 % 64
  let tdb := w / 2 ^ 58
  let acc := w / 2 ^ 46 % 64
  let osb := w / 2 ^ 39 % 128
  let osa := w / 2 ^ 32 % 128
  let m := mmM f
  let n := mmN f
  let side := fun (os : Nat) => ({ os := os, fmt := 0, smode := 0, scales := [], groups := 1, koff := 0 } : MmSide)
  let op : MmOp := { m := m, n := n, cls := cls, za := f.fn.getLsbD 0, acc := acc, a := side osa, b := side osb }
  if w % 2 ^ 32 != 0 || (cls == 0 && (tda != 0 || tdb != 0)) then raiseP s h len 0x037 0
  else
    match mmSlots h.b h.idx op with
    | none => raiseP s h len 0x037 0
    | some (x, y) =>
      if h.c.u < acc + mmUnits m n then raiseP s h len 0x037 0
      else if cls != 0 && !(imageFits cls (tdFmt (tdRec h.c tda)) && imageFits cls (tdFmt (tdRec h.c tdb))
          && scaleLegal (tdRec h.c tda) && scaleLegal (tdRec h.c tdb)) then raiseP s h len 0x004 0
      else
        match mmSide h cls osa tda (p / 2 ^ 24 % 2 ^ 20) m (p % 2 ^ 24) s with
        | (.fault c b a, s) => raisePAt s h len c b a
        | (.wait, s) => s
        | (.ok sa, s) =>
          match mmSide h cls osb tdb (p / 2 ^ 44) n (p % 2 ^ 24) s with
          | (.fault c b a, s) => raisePAt s h len c b a
          | (.wait, s) => s
          | (.ok sb, s) => mmIssue s h len f { op with a := sa, b := sb } ow pw x y

/-- `mm` (R195). -/
def execMm (f : XFmt) (s : State) : Out :=
  let len := lenOf f.pfx
  let n := scalarNo f.pfx f.a
  issue s fun h =>
    checked s h (xCauses f) true 0 len
      (useUnits s h len fun s h => withRegs s h { sregs := [n, n + 1] } fun s h =>
        mmChecks s h len f (getSreg h.g n) (getSreg h.g (n + 1)))

/-! The accumulator instructions (R197). -/

/-- An accumulator instruction: fields, service, ownership, interlock, then its effect. -/
def accRun (causes : List Nat) (f : GFmt) (k : State → Here → Nat → State) (s : State) : Out :=
  let len := lenOf f.pfx
  issue s fun h =>
    checked s h causes true 0 len
      (useUnits s h len fun s h => withRegs s h { sregs := scalarNos f.pfx f.a ++ scalarNos f.pfx f.b } fun s h => k s h len)

/-- `acc.clr` (R197). -/
def execAccClr (f : GFmt) (s : State) : Out :=
  accRun (accClrCauses f) f (fun s h len =>
    match mopVal h f.pfx f.a 64, mopVal h f.pfx f.b 65 with
    | some u, some n =>
      if n = 0 || h.c.u < u + n then raiseP s h len 0x037 0 else soloIssue s h len (.clr u n) [] []
    | _, _ => raiseP s h len 0x037 0) s

/-- `acc.mov` (R197). -/
def execAccMov (f : GFmt) (s : State) : Out :=
  accRun (accMovCauses f) f (fun s h len =>
    match mopVal h f.pfx f.a 64, mopVal h f.pfx f.b 64 with
    | some d, some u => if h.c.u ≤ d || h.c.u ≤ u then raiseP s h len 0x037 0 else soloIssue s h len (.mov d u) [] []
    | _, _ => raiseP s h len 0x037 0) s

/-- Translate and check the pieces of 64 bytes of a 4 KiB unit (R197). -/
def unitPlaces (h : Here) (va n : Nat) (writes : Bool) (s : State) : Checked (List Part) × State :=
  match n with
  | 0 => (.ok [], s)
  | n + 1 =>
    match checkVirtual s h.core h.cid h.c (va % 2 ^ 64) 64 (!writes) writes with
    | (.ok ps, s) =>
      match unitPlaces h (va + 64) n writes s with
      | (.ok t, s) => (.ok (ps ++ t), s)
      | x => x
    | x => x

/-- `acc.ld` and `acc.st`: the 4 KiB are placed at issue (R197). -/
def accMem (causes : List Nat) (f : GFmt) (writes : Bool) (kind : Nat → List Part → MashKind) (s : State) : Out :=
  accRun causes f (fun s h len =>
    match mopVal h f.pfx f.a 64 with
    | none => raiseP s h len 0x037 0
    | some u =>
      let va := (uniVal h.g f.pfx f.b).toNat
      if h.c.u ≤ u then raiseP s h len 0x037 0
      else if va % 64 != 0 then raisePAt s h len 0x021 0 va
      else
        match unitPlaces h va 64 writes s with
        | (.fault c b a, s) => raisePAt s h len c b a
        | (.wait, s) => s
        | (.ok ps, s) => soloIssue s h len (kind u ps) [] []) s

/-- `acc.ld` (R197). -/
def execAccLd (f : GFmt) (s : State) : Out := accMem (accLdCauses f) f false .ld s
/-- `acc.st` (R197). -/
def execAccSt (f : GFmt) (s : State) : Out := accMem (accStCauses f) f true .st s

/-- What `acc.put` writes: lane l of register S + f at element 64 f + l, for the lanes of PRED (R197). -/
def putVals (g : Group) (p : W64) (r : Nat) : SMap 32 :=
  (List.range 16).flatMap fun f => (laneNos g.w).filterMap fun l =>
    let v := getVreg g (r + f) l
    if inSet p l && v != 0 then some (64 * f + l, v) else none

/-- `acc.put` (R197). -/
def execAccPut (f : GFmt) (s : State) : Out :=
  let len := lenOf f.pfx
  issue s fun h =>
    let r := h.f.wb * 8 + f.b.toNat
    let n : Named := { vregs := (List.range 16).map fun i => r + i, sregs := scalarNos f.pfx f.a }
    checked s h (accPutCauses f) true 0 len
      (if outOfWindow h n then raiseA s h 0 len 0x002 0
       else useUnits s h len fun s h => withRegs s h n fun s h =>
        match mopVal h f.pfx f.a 64 with
        | none => raiseP s h len 0x037 0
        | some u => if h.c.u ≤ u then raiseP s h len 0x037 0 else soloIssue s h len (.put u h.f.pred (putVals h.g h.f.pred r)) [] [])

/-! Operand slots (R187, R188). -/

/-- The lowest name from `f` up with `n` unmapped names that end at 127 or below. -/
def freeNames (b : Block) (idx n f fuel : Nat) : Option Nat :=
  match fuel with
  | 0 => none
  | k + 1 =>
    if 128 < f + n then none
    else if (List.range n).all fun i => (Tbl.get? b.slots (128 * idx + f + i)).isNone then some f
    else freeNames b idx n (f + 1) k

/-- The free physical slots of a core. -/
def freeSlots (c : Core) : List Nat := (List.range 128).filter fun p => (Tbl.get? c.slots p).isNone

/-- Map names to physical slots. -/
def mapNames (s : State) (h : Here) (l : List (Nat × Nat)) : State :=
  match l with
  | [] => s
  | (name, p) :: r =>
    let s := modBlock s h.bsn fun b => { b with slots := Tbl.set b.slots (128 * h.idx + name) p }
    let s := modCore s h.core fun c =>
      { c with slots := Tbl.set c.slots p { sealed := false, world := 0, key := 0, twk := 0, name := name, bsn := h.bsn },
               opmem := SMap.keep c.opmem fun k => k / 4096 != p }
    mapNames s h r

/-- `os.claim` (R187). -/
def execOsClaim (f : GFmt) (s : State) : Out :=
  gRun (osClaimCauses f) true f.pfx (abRegs f) (fun s h len =>
    let put := fun (s : State) (v : W64) => h.advance (putDst s h.gid (dstOf f.pfx f.a) v) len
    match mopVal h f.pfx f.b 65 with
    | none => raiseP s h len 0x037 0
    | some n =>
      if n = 0 then raiseP s h len 0x037 0
      else
        let free := freeSlots (coreOf s h.core)
        match freeNames h.b h.idx n 0 128 with
        | none => put s (BitVec.allOnes 64)
        | some first =>
          if free.length < n then put s (BitVec.allOnes 64)
          else put (mapNames s h (((List.range n).map fun i => first + i).zip free)) (BitVec.ofNat 64 first)) s

/-- Unmap names and free their slots. -/
def dropNames (s : State) (h : Here) (names phys : List Nat) : State :=
  let s := modBlock s h.bsn fun b => { b with slots := b.slots.filter fun e => !(e.1 / 128 == h.idx && names.contains (e.1 % 128)) }
  modCore s h.core fun c =>
    { c with slots := c.slots.filter (fun e => !phys.contains e.1), opmem := SMap.keep c.opmem fun k => !phys.contains (k / 4096) }

/-- `os.rel` (R188). -/
def execOsRel (f : GFmt) (s : State) : Out :=
  gRun (osRelCauses f) true f.pfx (abRegs f) (fun s h len =>
    match mopVal h f.pfx f.a 128, mopVal h f.pfx f.b 65 with
    | some first, some n =>
      let names := (List.range n).map fun i => first + i
      match slotsNamed h.b h.idx names with
      | none => raiseP s h len 0x037 0
      | some ps =>
        if n = 0 then raiseP s h len 0x037 0
        else if ps.any fun p => slotBusy (coreOf s h.core) p then s
        else h.advance (dropNames s h names ps) len
    | _, _ => raiseP s h len 0x037 0) s

/-! `mm.wait` (R198). -/

/-- `mm.wait` where nothing is waited for. -/
def mmReport (s : State) (h : Here) (len : Nat) (d : Option Nat) : State :=
  let e := h.g.eng
  let clear := fun (g : EngFlags → EngFlags) => modGroup s h.gid fun x => { x with eng := g x.eng }
  match d with
  | some _ => h.advance (putDst (clear EngFlags.cleared) h.gid d (statusWord e)) len
  | none =>
    if e.reset then raiseP (clear fun e => { e with reset := false }) h len 0x032 0
    else if e.abort then raiseP (clear fun e => { e with abort := false }) h len 0x033 0
    else if e.sealed then raiseP (clear fun e => { e with sealed := false }) h len 0x034 0
    else h.advance s len

/-- `mm.wait` (R198). (DEDUCED, log 29) -/
def execMmWait (f : GFmt) (s : State) : Out :=
  gRun (mmWaitCauses f) true f.pfx (abRegs f) (fun s h len =>
    match mopVal h f.pfx f.b 17 with
    | none => raiseP s h len 0x037 0
    | some n =>
      if n < h.g.eng.pend then beginWait s h.gid { kind := .mmWait n, fib := h.fid, len := len, dst := dstOf f.pfx f.a }
      else mmReport s h len (dstOf f.pfx f.a)) s

/-! Execution (R34, R189, R195, R196, R200). -/

/-- `n` consecutive values of a map from key `k` on, zeros where none is listed. -/
def sliceFrom {w : Nat} (m : SMap w) (k n : Nat) : List (BitVec w) :=
  match n with
  | 0 => []
  | n + 1 =>
    match m with
    | [] => 0 :: sliceFrom m (k + 1) n
    | (k', v) :: r => if k' = k then v :: sliceFrom r (k + 1) n else 0 :: sliceFrom m (k + 1) n

/-- The bytes of a slot. -/
def slotBytes (c : Core) (p : Nat) : List Nat :=
  (sliceFrom (SMap.keep c.opmem fun k => k / 4096 == p) (4096 * p) 4096).map (·.toNat)

/-- The bytes of a slot through the stationary-operand port: decrypted where sealed; none where its key is withdrawn (R200). -/
def portBytes (s : State) (c : Core) (p : Nat) : Option (List Nat) :=
  match Tbl.get? c.slots p with
  | none => some (slotBytes c p)
  | some e =>
    if !e.sealed then some (slotBytes c p)
    else
      match Tbl.get? s.sealKeys (e.world * 256 + e.key) with
      | none => none
      | some k => some (xtsDecrypt k e.twk (slotBytes c p))

/-- The bytes of a run of slots through the port. -/
def portRun (s : State) (c : Core) (l : List Nat) : Option (List Nat) :=
  match l with
  | [] => some []
  | p :: r =>
    match portBytes s c p, portRun s c r with
    | some a, some b => some (a ++ b)
    | _, _ => none

/-- The containers of 64 bytes (R26, R189). -/
def containers (cls : Nat) (bs : List Nat) : List Nat :=
  match cls with
  | 0 => (List.range 32).map fun k => nth bs (2 * k) 0 + 256 * nth bs (2 * k + 1) 0
  | 1 => bs
  | _ => bs.flatMap fun b => [b % 16, b / 16]

/-- A container as a term; none for a NaN. -/
def codeTerm (cls : Nat) (fmt : W32) (x : Nat) : Option Term :=
  if cls = 0 then (if fmtB16.isNan x then none else some (fmtB16.term x))
  else
    let v := narrowDecode fmt x
    if fmt32.isNan v then none else some (fmt32.term v)

/-- A scaled term (R31). -/
def scaledTerm (smode s : Nat) (t : Option Term) : Option Term :=
  let m := if smode ≤ 3 then fmt32 else fmt16
  match t with
  | none => none
  | some t => if smode = 0 then some t else if m.isNan s then none else some (Term.mul t (m.term s))

/-- The scale of row `i` and index `k` of a tile among the scales read, by row. -/
def scaleAt (e : MmSide) (vals : List Nat) (i k : Nat) : Nat :=
  match e.smode with
  | 0 => 0
  | 1 => nth vals 0 0
  | 2 => nth vals i 0
  | 3 => nth vals k 0
  | m => nth vals (i * e.groups + ((e.koff + k) / groupLen m - e.koff / groupLen m)) 0

/-- The terms of each row of an operand: rows of 64 bytes. -/
def sideRows (cls : Nat) (e : MmSide) (vals : List Nat) (n i : Nat) (bs : List Nat) : List (List (Option Term)) :=
  match n with
  | 0 => []
  | n + 1 =>
    let row := ((containers cls (bs.take 64)).zip (List.range (clsK cls))).map fun c =>
      scaledTerm e.smode (scaleAt e vals i c.2) (codeTerm cls e.fmt c.1)
    row :: sideRows cls e vals n (i + 1) (bs.drop 64)

/-- A sum as it is formed: its finite part, the infinities met, an invalid or NaN term, every term so far a negative zero. -/
structure MmSum where
  d : Dy
  pinf : Bool
  ninf : Bool
  bad : Bool
  neg0 : Bool

/-- Add a term. -/
def MmSum.add (x : MmSum) (t : Option Term) : MmSum :=
  match t with
  | none => { x with bad := true }
  | some .invalid => { x with bad := true }
  | some (.inf n) => if n then { x with ninf := true } else { x with pinf := true }
  | some (.fin d n) => { x with d := Dy.add x.d d, neg0 := x.neg0 && d.n == 0 && n }

/-- The product of two terms. -/
def termMul (a b : Option Term) : Option Term :=
  match a, b with
  | some a, some b => some (Term.mul a b)
  | _, _ => none

/-- One output element: base and products summed exactly, one rounding (R34). -/
def mmElem (base : Nat) (a b : List (Option Term)) : Nat :=
  let t0 : Option Term := if fmt32.isNan base then none else some (fmt32.term base)
  let x : MmSum := (List.zipWith termMul a b).foldl MmSum.add
    (MmSum.add { d := ⟨0, 0⟩, pinf := false, ninf := false, bad := false, neg0 := true } t0)
  if x.bad || (x.pinf && x.ninf) then fmt32.nan
  else if x.pinf then fmt32.infBits false
  else if x.ninf then fmt32.infBits true
  else fmt32.round .rne x.d x.neg0

/-- Read scales at execution (R190, R274). -/
def readScales (cid size : Nat) (l : List PhysRef) (s : State) : List Nat × State :=
  match l with
  | [] => ([], s)
  | p :: r =>
    let x := match p.space with
      | .peer _ => (fun (y : List Byte × State) => (leNat y.1, y.2)) (freeBytes s size)
      | sp => let y := readFor s cid sp p.pa size; (leNat y.1, y.2)
    let y := readScales cid size r x.2
    (x.1 :: y.1, y.2)

/-- The values that an `mm` writes, by absolute element, from the units as they stand. -/
def mmVals (acc : SMap 32) (op : MmOp) (ra rb : List (List (Option Term))) : SMap 32 :=
  let old := sliceFrom (SMap.keep acc fun k => 1024 * op.acc ≤ k && k < 1024 * op.acc + op.m * op.n) (1024 * op.acc) (op.m * op.n)
  let vals := (ra.flatMap fun a => rb.map fun b => (a, b)).zip old
  ((vals.zip (List.range vals.length)).filterMap fun e =>
    let v := BitVec.ofNat 32 (mmElem (if op.za then 0 else e.1.2.toNat) e.1.1.1 e.1.1.2)
    if v = 0 then none else some (1024 * op.acc + e.2, v))

/-- An `mm` begins: its operands are read and its results formed; a withdrawn key is found (R200). -/
def mmStart (s : State) (core : Nat) (o : MashOp) (op : MmOp) : MashOut × State :=
  let c := coreOf s core
  match portRun s c o.slotsB with
  | none => ({ vals := [], sealGone := true, since := s.time }, s)
  | some bb =>
    let size := fun (e : MmSide) => if e.smode ≤ 3 then 4 else 2
    let x := readScales o.ctx (size op.a) op.a.scales s
    let y := readScales o.ctx (size op.b) op.b.scales x.2
    let ra := sideRows op.cls op.a x.1 op.m 0 (o.slotsA.flatMap (slotBytes c))
    let rb := sideRows op.cls op.b y.1 op.n 0 bb
    ({ vals := mmVals c.acc op ra rb, sealGone := false, since := s.time }, y.2)

/-- The head of a core's queue is an `mm` that has not begun and whose copies are done (R195). -/
def mmReady (s : State) (core : Nat) : Option (MashOp × MmOp) :=
  let c := coreOf s core
  match c.mashq with
  | [] => none
  | o :: _ =>
    match o.kind with
    | .mm op => if o.out.isNone && !(c.kicks.any fun q => o.after.contains q.id) then some (o, op) else none
    | _ => none

/-- The operation next to execute begins, its grant held (R195, R353); with none, closed latch entries enter the queue (R192). -/
def execMashOpStart (core : Nat) (s : State) : Out :=
  match mmReady s core with
  | none => .next (pumpLatch s core 8)
  | some (o, op) =>
    if !kilnHeld s (.mash core) then .next s
    else
      let r := mmStart s core o op
      .next (modCore r.2 core fun c => { c with mashq := { o with out := some r.1 } :: c.mashq.drop 1 })

/-- The head operation of a core is over: it leaves, its members go on, closed entries may be accepted. -/
def finishOp (s : State) (core : Nat) (members : List Nat) (f : EngFlags → EngFlags) : State :=
  let s := modCore s core fun c => { c with mashq := c.mashq.drop 1 }
  sweepSlots (pumpLatch (opOverAll s members f) core 8) core

/-- Replace the elements from `lo` to `hi` − 1 of a map by those of another, whose keys lie there. -/
def replaceElems (m : SMap 32) (lo hi : Nat) (v : SMap 32) : SMap 32 :=
  SMap.keep m (fun k => k < lo) ++ v ++ SMap.keep m fun k => hi ≤ k

/-- The running `mm` of a core completes (R195, R200). -/
def execMashOpComplete (core : Nat) (s : State) : Out :=
  match (coreOf s core).mashq with
  | [] => .next s
  | o :: _ =>
    match o.kind, o.out with
    | .mm op, some r =>
      let s := if r.sealGone then s
        else modCore s core fun c => { c with acc := replaceElems c.acc (1024 * op.acc) (1024 * op.acc + op.m * op.n) r.vals }
      .next (finishOp (kilnEnd s (.mash core)) core o.members fun e => { e with sealed := e.sealed || r.sealGone })
    | _, _ => .next s

/-! Execution of the accumulator instructions (R197). -/

/-- Write a unit's 1,024 elements from bytes. -/
def unitFromBytes (n : Nat) (bs : List Byte) : List W32 :=
  match n with
  | 0 => []
  | n + 1 => BitVec.ofNat 32 (leNat (bs.take 4)) :: unitFromBytes n (bs.drop 4)

/-- Non-zero values with their keys from `k` on. -/
def keyed (k : Nat) (l : List W32) : SMap 32 :=
  match l with
  | [] => []
  | v :: r => if v = 0 then keyed (k + 1) r else (k, v) :: keyed (k + 1) r

/-- Read placed pieces of memory at execution; a frame that changed hands reads 0 and is logged (R274). -/
def readPlaces (cid : Nat) (l : List Part) (s : State) : List Byte × State :=
  match l with
  | [] => ([], s)
  | p :: r =>
    let x := match p.space with
      | .peer _ => freeBytes s p.n
      | sp => readFor s cid sp p.pa p.n
    let y := readPlaces cid r x.2
    (x.1 ++ y.1, y.2)

/-- The stores of `acc.st` in flight: one for each element of 4 bytes of its placed pieces, as stores of the group (R197, R365). -/
def elemStores (gid cid seq : Nat) (l : List Part) (bs : List Byte) : List Pend :=
  match l with
  | [] => []
  | p :: r =>
    ((List.range ((p.n + 3) / 4)).map fun i =>
      .acc { gid := gid, pc := 0, ctx := cid, lane := groupLane, seq := seq, space := p.space, pa := p.pa + 4 * i, n := min 4 (p.n - 4 * i),
             kind := p.kind, vpa := p.vpa + 4 * i, world := p.world, op := .store ((bs.drop (4 * i)).take (min 4 (p.n - 4 * i))), dst := none,
             val := none, micro := none, tied := none }) ++ elemStores gid cid seq r (bs.drop p.n)

/-- Stores of an `acc.st` of a group are in flight. -/
def storesDue (s : State) (gid : Nat) : Bool := inFlight s fun a => a.gid == gid && a.lane == groupLane

/-- The bytes of a unit. -/
def unitBytes (m : SMap 32) (u : Nat) : List Byte :=
  (sliceFrom (SMap.keep m fun k => k / 1024 == u) (1024 * u) 1024).flatMap fun v => natLE 4 v.toNat

/-- Move a unit. -/
def moveUnit (m : SMap 32) (d u : Nat) : SMap 32 :=
  replaceElems m (1024 * d) (1024 * d + 1024) ((SMap.keep m fun k => k / 1024 == u).map fun e => (1024 * d + e.1 % 1024, e.2))

/-- What `acc.put` leaves in a unit. -/
def putUnit (m : SMap 32) (u : Nat) (lanes : W64) (vals : SMap 32) : SMap 32 :=
  vals.foldl (fun m e => SMap.set m (1024 * u + e.1) e.2) (SMap.keep m fun k => !(k / 1024 == u && inSet lanes (k % 64)))

/-- A group's operation may read memory: what the group issued before is performed, and its arrivals, signals and records are out (R197, R374). -/
def accMemReady (s : State) (gid : Nat) : Bool :=
  !(inFlight s (fun a => a.gid == gid && a.val.isNone) || entriesDue s gid || blockMarked s gid)

/-- `acc.st` at the head of a queue: its stores go into flight once, and it is over when all are performed (R197). -/
def accStore (s : State) (core gid : Nat) (o : MashOp) (u : Nat) (ps : List Part) : State :=
  let begun := fun (s : State) => modCore s core fun c =>
    { c with mashq := { o with out := some { vals := [], sealGone := false, since := s.time } } :: c.mashq.drop 1 }
  let s := if o.out.isSome then s else begun (pushPend s (elemStores gid o.ctx s.steps ps (unitBytes (coreOf s core).acc u)))
  let s := drainGroup s gid
  if storesDue s gid then s else finishOp s core o.members id

/-- The head operation is an `acc` instruction: it executes (R197). -/
def accExecute (s : State) (core : Nat) (o : MashOp) : State :=
  let gid := nth o.members 0 0
  let put := fun (s : State) (f : SMap 32 → SMap 32) => finishOp (modCore s core fun c => { c with acc := f c.acc }) core o.members id
  match o.kind with
  | .mm _ => s
  | .clr u n => put s fun m => SMap.keep m fun k => !(u ≤ k / 1024 && k / 1024 < u + n)
  | .mov d u => put s fun m => if d = u then m else moveUnit m d u
  | .put u lanes vals => put s fun m => putUnit m u lanes vals
  | .ld u ps =>
    let s := drainGroup s gid
    if !accMemReady s gid then s
    else
      let r := readPlaces o.ctx ps s
      put r.2 fun m => replaceElems m (1024 * u) (1024 * u + 1024) (keyed (1024 * u) (unitFromBytes 1024 r.1))
  | .st u ps => accStore s core gid o u ps

/-- An accumulator instruction at the head of a core's queue executes (R197). -/
def execAccOpExecute (core : Nat) (s : State) : Out :=
  match (coreOf s core).mashq with
  | [] => .next s
  | o :: _ => .next (accExecute s core o)

/-! Ownership and reset (R201, R203). -/

/-- Milsal serves a waiting ownership trap of a context on a core, its queue empty (R201). -/
def execAccumulatorOwnershipTrap (core ctx : Nat) (s : State) : Out :=
  let c := coreOf s core
  let gid := c.wantOwn.find? fun gid => match Tbl.get? s.blocks (bsnOf gid) with | some b => b.ctx == ctx | none => false
  match gid with
  | none => .next s
  | some gid =>
    match Tbl.get? s.blocks (bsnOf gid) with
    | none => .next s
    | some b => .next (if c.idle then serveOwner s core ctx (nth b.lcores (coreIdx b gid) 0) else s)

/-- Each group of a list takes RESET and its PEND falls to 0. -/
def resetGroups (s : State) (l : List Nat) : State :=
  match l with
  | [] => s
  | gid :: r => resetGroups (checkMmWait (modGroup s gid fun g => { g with eng := { g.eng with pend := 0, reset := true } }) gid) r

/-- The reset of a core's engine (R203). (DESIGN CHOICE, log 52) -/
def engineReset (s : State) (core : Nat) : State :=
  let c := coreOf s core
  let members := dedup (c.mashq.flatMap (·.members) ++ c.latch.flatMap fun e => e.joined.map fun x => e.bsn * 256 + x)
  let s := match c.owner with | some (cid, lc) => setLost s cid lc | none => s
  let s := modCore s core fun c =>
    { c with mashq := [], latch := [], owner := none, fragWait := [], fragDead := c.fragDead ++ c.fragWait.map (·.1) }
  sweepSlots (resetGroups (kilnEnd s (.mash core)) members) core

/-- Milsal resets an engine whose operation has run 2^20 clk (R203). -/
def execMashTimeoutReset (core : Nat) (s : State) : Out :=
  match (coreOf s core).mashq with
  | [] => .next s
  | o :: _ =>
    match o.out with
    | none => .next s
    | some r => .next (if (s.time - r.since) * presentMhz s (clusterOf core) < 2 ^ 20 * 1000 then s else engineReset s core)

end Sys2Proof.Machine
end

