-- ==== Sys2Proof/Machine/Micro.lean ====
section
/-! DEFINITION. `xop` and the micro-ops of the control store (R323 to R331). -/

namespace Sys2Proof.Machine

/-! Bindings (R323). -/

/-- A context's binding of an index. -/
def bindOf (c : Ctx) (xi : Nat) : W64 := SMap.get c.tabs.bind xi
/-- V. -/
def bindV (e : W64) : Bool := e.getLsbD 63
/-- BSER. -/
def bindSer (e : W64) : Half := e.extractLsb' 32 16
/-- LEN. -/
def bindLen (e : W64) : Nat := (e.extractLsb' 16 7).toNat
/-- START. -/
def bindStart (e : W64) : Nat := (e.extractLsb' 0 12).toNat

/-! `xop` (R328, R329). -/

/-- VAL64 of a selector in a lane (R329). -/
def val64 (h : Here) (p : Option Prefix) (c : Byte) (lane : Nat) : W64 :=
  if isVec c then (getVreg h.g (h.f.wb * 8 + c.toNat) lane).zeroExtend 64
  else if isLatch c then SMap.get (nth h.g.regs.ring (c.toNat - 0x80) []) lane
  else if isIdx c then BitVec.ofNat 64 lane
  else uniVal h.g p c

/-- A uniform operand's value: scalar or constant, else 0. -/
def valUni (h : Here) (p : Option Prefix) (c : Byte) : W64 := if isUni c then uniVal h.g p c else 0

/-- The third operand's selector. -/
def xopC (p : Option Prefix) : Option Byte := match p with | some q => if isZero q.d then none else some q.d | none => none

/-- Set a hidden vector temporary in the lanes of a list. (DEDUCED, log 44) -/
def setHvs (g : Group) (k : Nat) (v : Nat → W64) (lanes : List Nat) : Group :=
  match lanes with
  | [] => g
  | l :: r => setHvs (setHv g k l (v l)) k v r

/-- The temporaries at entry, in the fibre's lanes (R329). -/
def xopHvs (h : Here) (f : XOFmt) (g : Group) : Group :=
  let lanes := laneList h.f.pred
  let g := setHvs g 0 (val64 h f.pfx f.a) lanes
  let g := setHvs g 1 (val64 h f.pfx f.b) lanes
  let g := setHvs g 2 (fun l => match xopC f.pfx with | some c => val64 h f.pfx c l | none => 0) lanes
  [3, 4, 5, 6, 7].foldl (fun g k => setHvs g k (fun _ => 0) lanes) g

/-- The scalar temporaries at entry. -/
def xopHs (h : Here) (f : XOFmt) : SMap 64 :=
  let c := match xopC f.pfx with | some c => valUni h f.pfx c | none => 0
  SMap.set (SMap.set (SMap.set [] 0 (valUni h f.pfx f.a)) 1 (valUni h f.pfx f.b)) 2 c

/-- What an `xop` names: its destination is its operand A. -/
def xopNamed (h : Here) (f : XOFmt) : Named :=
  ((nameSel h f.pfx false f.a).and (nameSel h f.pfx false f.b)).and
    (match xopC f.pfx with | some c => nameSel h f.pfx false c | none => {})

/-- Data is due to a temporary of the group. -/
def hiddenDue (s : State) (gid : Nat) : Bool :=
  inFlight s fun a => a.gid == gid &&
    (match a.dst with | some d => (match d.reg with | .hv _ _ => true | .hs _ _ => true | _ => false) | none => false)

/-- `xop`: an unbound index is one of the causes of R58, of which the smallest is reported; it enters the bound sequence, once the data that an earlier sequence's loads still owe the temporaries has come (R95, R328, R329). -/
def execXop (f : XOFmt) (s : State) : Out :=
  let len := lenOf f.pfx
  let msk := mskOf f.pfx
  issue s fun h =>
    let e := bindOf h.c f.xi.toNat
    let n := xopNamed h f
    checked s h (xoCauses f ++ cause (!bindV e) 7) true msk len
      (if outOfWindow h n then raiseA s h msk len 0x002 0
       else if badLatch h n then raiseA s h msk len 0x003 0
       else withRegs s h n fun s h =>
        if hiddenDue s h.gid then drainGroup s h.gid
        else
          let m : Micro :=
            { xmask := h.g.maskOf msk, bser := bindSer e, xi := f.xi.toNat, zro := zroOf f.pfx, upc := 0, dst := f.a, len := len }
          modGroup s h.gid fun g =>
            modFibre (xopHvs h f g) h.fid fun x => { x with micro := some m, hs := xopHs h f })

/-! Micro-ops (R324, R325). -/

/-- The issuing micro-op with its fibre's micro-state and binding. -/
structure UHere where
  h : Here
  m : Micro
  e : W64

/-- The active lanes of a sequence. -/
def UHere.act (u : UHere) : W64 := u.h.f.pred &&& u.m.xmask

/-- A hidden scalar temporary. -/
def hsOf (f : Fibre) (k : Nat) : W64 := SMap.get f.hs k

/-- A source in a lane (R324). -/
def uSrc (u : UHere) (f : UopFmt) (c : BitVec 4) (lane : Nat) : W64 :=
  let n := c.toNat
  if n < 8 then getHv u.h.g n lane
  else if n < 12 then hsOf u.h.f (n - 8)
  else if n = 12 then f.imm.signExtend 64
  else if n = 13 then BitVec.ofNat 64 lane
  else 0

/-- Write a destination: each active lane of a vector temporary, or a scalar temporary once (R329). -/
def uWrite (s : State) (u : UHere) (d : BitVec 4) (v : Nat → W64) : State :=
  let n := d.toNat
  if n < 8 then modGroup s u.h.gid fun g => setHvs g n v (laneList u.act)
  else if n < 12 then u.h.setFib s fun x => { x with hs := SMap.set x.hs (n - 8) (v 0) }
  else s

/-- The fibre goes on with micro-op `t`, or leaves the sequence at its end (R329, R331). -/
def uGo (s : State) (u : UHere) (t : Nat) : State :=
  if bindLen u.e ≤ t then
    u.h.setFib s fun x => { x with micro := none, pc := x.pc + BitVec.ofNat 64 u.m.len }
  else u.h.setFib s fun x => { x with micro := some { u.m with upc := t } }

/-- The next micro-op. -/
def uNext (s : State) (u : UHere) : State := uGo s u (u.m.upc + 1)

/-- A micro-op: loads into temporaries complete first (R331); a binding removed or replaced since entry parks the whole fibre (R331). -/
def uopRun (s : State) (k : State → UHere → State) : Out :=
  match s.here with
  | none => .fault .noIssuingGroup
  | some h0 =>
    match h0.f.micro with
    | none => .fault .noIssuingGroup
    | some _ =>
      let s := if hiddenDue s h0.gid then drainGroup s h0.gid else s
      if hiddenDue s h0.gid then .next s
      else
        match s.here with
        | none => .next s
        | some h =>
          match h.f.micro with
          | none => .next s
          | some m =>
            let e := bindOf h.c m.xi
            .next (if !bindV e || bindSer e != m.bser then takeTrap s h h.f.pred h.f.pc h.f.pc 1 0x001 7 0 none
                   else k s { h := h, m := m, e := e })

/-- A micro-op that computes a value from A, B and C. -/
def uAlu (op : W64 → W64 → W64 → W64) (f : UopFmt) (s : State) : Out :=
  uopRun s fun s u => uNext (uWrite s u f.d fun l => op (uSrc u f f.a l) (uSrc u f f.b l) (uSrc u f f.c l)) u

/-- FP32 on bits 31:0, zero-extended. -/
def uFp (op : Nat → Nat → Nat → Nat) (a b c : W64) : W64 :=
  BitVec.ofNat 64 (op (a.toNat % 2 ^ 32) (b.toNat % 2 ^ 32) (c.toNat % 2 ^ 32) % 2 ^ 32)

/-- One or zero. -/
def uBool (b : Bool) : W64 := if b then 1 else 0

/-- `uadd` (R325). -/
def execUadd (f : UopFmt) (s : State) : Out := uAlu (fun a b _ => a + b) f s
/-- `usub` (R325). -/
def execUsub (f : UopFmt) (s : State) : Out := uAlu (fun a b _ => a - b) f s
/-- `umul` (R325). -/
def execUmul (f : UopFmt) (s : State) : Out := uAlu (fun a b _ => a * b) f s
/-- `umad` (R325). -/
def execUmad (f : UopFmt) (s : State) : Out := uAlu (fun a b c => a * b + c) f s
/-- `uand` (R325). -/
def execUand (f : UopFmt) (s : State) : Out := uAlu (fun a b _ => a &&& b) f s
/-- `uor` (R325). -/
def execUor (f : UopFmt) (s : State) : Out := uAlu (fun a b _ => a ||| b) f s
/-- `uxor` (R325). -/
def execUxor (f : UopFmt) (s : State) : Out := uAlu (fun a b _ => a ^^^ b) f s
/-- `uandn` (R325). -/
def execUandn (f : UopFmt) (s : State) : Out := uAlu (fun a b _ => a &&& ~~~b) f s
/-- `ushl` (R325). -/
def execUshl (f : UopFmt) (s : State) : Out := uAlu (fun a b _ => a <<< (b.toNat % 64)) f s
/-- `ushr` (R325). -/
def execUshr (f : UopFmt) (s : State) : Out := uAlu (fun a b _ => a >>> (b.toNat % 64)) f s
/-- `usra` (R325). -/
def execUsra (f : UopFmt) (s : State) : Out := uAlu (fun a b _ => a.sshiftRight (b.toNat % 64)) f s
/-- `umin` (R325). -/
def execUmin (f : UopFmt) (s : State) : Out := uAlu (fun a b _ => if b.toInt < a.toInt then b else a) f s
/-- `umax` (R325). -/
def execUmax (f : UopFmt) (s : State) : Out := uAlu (fun a b _ => if a.toInt < b.toInt then b else a) f s
/-- `uminn` (R325). -/
def execUminn (f : UopFmt) (s : State) : Out := uAlu (fun a b _ => if b.toNat < a.toNat then b else a) f s
/-- `umaxn` (R325). -/
def execUmaxn (f : UopFmt) (s : State) : Out := uAlu (fun a b _ => if a.toNat < b.toNat then b else a) f s
/-- `useq` (R325). -/
def execUseq (f : UopFmt) (s : State) : Out := uAlu (fun a b _ => uBool (a == b)) f s
/-- `usne` (R325). -/
def execUsne (f : UopFmt) (s : State) : Out := uAlu (fun a b _ => uBool (a != b)) f s
/-- `uslt` (R325). -/
def execUslt (f : UopFmt) (s : State) : Out := uAlu (fun a b _ => uBool (a.toInt < b.toInt)) f s
/-- `usle` (R325). -/
def execUsle (f : UopFmt) (s : State) : Out := uAlu (fun a b _ => uBool (a.toInt ≤ b.toInt)) f s
/-- `usltn` (R325). -/
def execUsltn (f : UopFmt) (s : State) : Out := uAlu (fun a b _ => uBool (a.toNat < b.toNat)) f s
/-- `usel` (R325). -/
def execUsel (f : UopFmt) (s : State) : Out := uAlu (fun a b c => if c != 0 then a else b) f s
/-- `ubfx`: R99 for an `.n64` element (R325). -/
def execUbfx (f : UopFmt) (s : State) : Out := uAlu (fun a b _ => BitVec.ofNat 64 (intBfx .n64 a.toNat b.toNat 0)) f s
/-- `uzx32` (R325). -/
def execUzx32 (f : UopFmt) (s : State) : Out := uAlu (fun a _ _ => (a.setWidth 32).zeroExtend 64) f s
/-- `usx32` (R325). -/
def execUsx32 (f : UopFmt) (s : State) : Out := uAlu (fun a _ _ => (a.setWidth 32).signExtend 64) f s
/-- `ufadd` (R325). -/
def execUfadd (f : UopFmt) (s : State) : Out := uAlu (uFp fun a b _ => fmt32.add .rne a b) f s
/-- `ufsub` (R325). -/
def execUfsub (f : UopFmt) (s : State) : Out := uAlu (uFp fun a b _ => fmt32.sub .rne a b) f s
/-- `ufmul` (R325). -/
def execUfmul (f : UopFmt) (s : State) : Out := uAlu (uFp fun a b _ => fmt32.mul .rne a b) f s
/-- `uffma` (R325). -/
def execUffma (f : UopFmt) (s : State) : Out := uAlu (uFp fun a b c => fmt32.fma .rne false a b c) f s
/-- `ufmin` (R325). -/
def execUfmin (f : UopFmt) (s : State) : Out := uAlu (uFp fun a b _ => fmt32.min a b) f s
/-- `ufmax` (R325). -/
def execUfmax (f : UopFmt) (s : State) : Out := uAlu (uFp fun a b _ => fmt32.max a b) f s
/-- `ufcvti` (R325). -/
def execUfcvti (f : UopFmt) (s : State) : Out :=
  uAlu (fun a _ _ => BitVec.ofInt 64 (fmt32.toIntSat .rtz .i32 (a.toNat % 2 ^ 32))) f s
/-- `uicvtf` (R325). -/
def execUicvtf (f : UopFmt) (s : State) : Out :=
  uAlu (fun a _ _ => BitVec.ofNat 64 (fmt32.ofInt .rne (a.setWidth 32).toInt)) f s
/-- `umov` (R325). -/
def execUmov (f : UopFmt) (s : State) : Out := uAlu (fun a _ _ => a) f s

/-- `upick`: A of the lowest active lane, 0 where none is active (R325). -/
def execUpick (f : UopFmt) (s : State) : Out :=
  uopRun s fun s u => uNext (uWrite s u f.d fun _ => if u.act = 0 then 0 else uSrc u f f.a (lowest u.act)) u

/-! Branches (R325). -/

/-- The source of a branch: a per-lane one is read in the lowest active lane. -/
def uCond (u : UHere) (f : UopFmt) : W64 :=
  let n := f.a.toNat
  if (n < 8 || n = 13) && u.act = 0 then 0 else uSrc u f f.a (lowest u.act)

/-- The target. -/
def uTarget (f : UopFmt) : Nat := f.imm.toNat % 128

/-- `ujmp` (R325). -/
def execUjmp (f : UopFmt) (s : State) : Out := uopRun s fun s u => uGo s u (uTarget f)
/-- `ubnz` (R325). -/
def execUbnz (f : UopFmt) (s : State) : Out :=
  uopRun s fun s u => if uCond u f != 0 then uGo s u (uTarget f) else uNext s u
/-- `ubz` (R325). -/
def execUbz (f : UopFmt) (s : State) : Out :=
  uopRun s fun s u => if uCond u f = 0 then uGo s u (uTarget f) else uNext s u
/-- `uend` (R325, R329). -/
def execUend (_f : UopFmt) (s : State) : Out := uopRun s fun s u => uGo s u (bindLen u.e)

/-- `uout` to the lanes of a list (R329). -/
def uoutLanes (u : UHere) (f : UopFmt) (reg : Nat) (lanes : List Nat) (g : Group) : Group :=
  match lanes with
  | [] => g
  | l :: r =>
    let g := if inSet u.act l then setVreg g reg l ((uSrc u f f.a l).setWidth 32)
      else if u.m.zro && inSet u.h.f.pred l then setVreg g reg l 0 else g
    uoutLanes u f reg r g

/-- `uout`: the xop's destination register, where its operand A names one (R329). -/
def execUout (f : UopFmt) (s : State) : Out :=
  uopRun s fun s u =>
    uNext (if isVec u.m.dst then
        modGroup s u.h.gid fun g => uoutLanes u f (u.h.f.wb * 8 + u.m.dst.toNat) (List.range u.h.g.w) g
      else s) u

/-! Memory micro-ops (R327, R331). -/

/-- Lanes of a micro-op that fault: the others, or the fibre, go on; a fault of every active lane parks the whole fibre (R331). -/
def uPark (s : State) (u : UHere) (bads : List LaneBad) (all : Bool) : State :=
  match bads with
  | [] => uNext s u
  | b :: _ =>
    let set := badSet bads
    let whole := all || set = u.act
    let s := if whole then s else uNext s u
    takeTrap s u.h (if whole then u.h.f.pred else set) u.h.f.pc u.h.f.pc 1 b.code b.sub (BitVec.ofNat 64 b.addr) (some u.m)

/-- A lane's effective address. -/
def uEa (u : UHere) (f : UopFmt) (l : Nat) : Nat := (uSrc u f f.a l + f.imm.signExtend 64).toNat

/-- A load of `n` bytes: once for a scalar temporary as the lowest active lane, else in every active lane. -/
def uLoad (n : Nat) (f : UopFmt) (s : State) : Out :=
  uopRun s fun s u =>
    let one : Bool := 8 ≤ f.d.toNat && f.d.toNat < 12
    if one && u.act = 0 then uNext s u
    else
      let lanes := if one then [lowest u.act] else laneList u.act
      let r := scanLanes u.h f.sp false true false n (uEa u f) lanes { s := s, oks := [], bads := [], wait := false }
      let t := if f.sp then r.s else beforeLoads r.s u.h r.oks
      if r.wait || rangeBusy s u.h (lanes.map fun l => (f.sp, uEa u f l, n)) then s
      else if !f.sp && loadsWait t u.h r.oks then t
      else
        let reg := fun (l : Nat) => if one then DstReg.hs u.h.fid (f.d.toNat - 8) else DstReg.hv f.d.toNat l
        let dst := fun (l off : Nat) =>
          if f.d = 14 then none else some ({ reg := reg l, off := off, size := n, sext := false } : Dst)
        let s :=
          if f.sp then r.oks.foldl (fun s l => returnData s u.h.gid (dst l.lane 0) (readScratch s u.h.gid l.ea n)) t
          else pushPend t (r.oks.flatMap fun l => laneAccs t u.h l.lane (fun _ => .load) (fun p => dst l.lane p.off) l.parts)
        uPark s u r.bads one

/-- A store of `n` bytes of B in every active lane. -/
def uStore (n : Nat) (f : UopFmt) (s : State) : Out :=
  uopRun s fun s u =>
    let lanes := laneList u.act
    let r := scanLanes u.h f.sp false false true n (uEa u f) lanes { s := s, oks := [], bads := [], wait := false }
    if r.wait || rangeBusy s u.h (lanes.map fun l => (f.sp, uEa u f l, n)) then s
    else if !f.sp && writesWait r.s u.h r.oks then r.s
    else
      let data := fun (l : Nat) => (uSrc u f f.b l).toNat
      let s :=
        if f.sp then r.oks.foldl (fun s l => writeScratch s u.h.gid l.ea (natLE n (data l.lane))) r.s
        else
          pushPend r.s (r.oks.flatMap fun l =>
            laneAccs r.s u.h l.lane (fun p => .store (partBytes (data l.lane) p)) (fun _ => none) l.parts)
      uPark s u r.bads false

/-- `uld32` (R327). -/
def execUld32 (f : UopFmt) (s : State) : Out := uLoad 4 f s
/-- `uld64` (R327). -/
def execUld64 (f : UopFmt) (s : State) : Out := uLoad 8 f s
/-- `ust32` (R327). -/
def execUst32 (f : UopFmt) (s : State) : Out := uStore 4 f s
/-- `ust64` (R327). -/
def execUst64 (f : UopFmt) (s : State) : Out := uStore 8 f s

/-- A word that R325 does not list parks the fibre, its micro-state kept (R331). -/
def execRefusedWord (_w : W64) (s : State) : Out :=
  uopRun s fun s u => takeTrap s u.h u.h.f.pred u.h.f.pc u.h.f.pc 1 0x001 0x0A 0 (some u.m)

end Sys2Proof.Machine
end

