-- ==== Sys2Proof/Machine/Wcs.lean ====
section
/-! DEFINITION. The writable control store and its instructions (R321 to R326, R332 to R335). -/

namespace Sys2Proof.Machine

/-- Addresses `lo` to `lo + n − 1` lie in units of a VF (R333). -/
def unitsOk (s : State) (vf lo n : Nat) : Bool := (List.range n).all fun i => lo + i < 4096 && unitVf s (lo + i) == some vf

/-- A binding covers one of `n` addresses from `lo`. -/
def bindMeets (e : W64) (lo n : Nat) : Bool := bindV e && bindStart e < lo + n && lo < bindStart e + bindLen e

/-- A live binding of a context of a VF covers one of the addresses (R323). -/
def covered (s : State) (vf lo n : Nat) : Bool :=
  s.ctxs.any fun c => c.2.vf == vf && c.2.tabs.bind.any fun e => bindMeets e.2 lo n

/-- Change a context's binding table. -/
def modBind (s : State) (cid : Nat) (f : SMap 64 → SMap 64) : State :=
  modCtx s cid fun c => { c with tabs := { c.tabs with bind := f c.tabs.bind } }

/-- Remove every binding of a VF's contexts that overlaps the addresses (R322, R335). -/
def unbindOver (s : State) (vf lo n : Nat) : State :=
  { s with ctxs := s.ctxs.map fun c =>
      if c.2.vf = vf then
        (c.1, { c.2 with tabs := { c.2.tabs with bind := c.2.tabs.bind.filter fun e => !bindMeets e.2 lo n } })
      else c }

/-- Write words of the store, on every core (R321). -/
def putWcs (s : State) (lo : Nat) (ws : List W64) : State := { s with wcs := SMap.setList s.wcs lo ws }

/-- Words from bytes. -/
def wordsOf (n : Nat) (bs : List Byte) : List W64 :=
  match n with
  | 0 => []
  | n + 1 => BitVec.ofNat 64 (leNat (bs.take 8)) :: wordsOf n (bs.drop 8)

/-! Legal sequences (R326). -/

/-- OPC. -/
def opcOf (w : W64) : Nat := (w.extractLsb' 56 8).toNat
/-- The word is listed, its unused fields neutral (condition 2). -/
def wordListed (w : W64) : Bool := match decodeUop w with | .instr _ _ => true | .reject _ _ _ => false
/-- A memory micro-op. -/
def isMemUop (w : W64) : Bool := 0x40 ≤ opcOf w && opcOf w ≤ 0x43
/-- A branch. -/
def isBranchUop (w : W64) : Bool := 0x50 ≤ opcOf w && opcOf w ≤ 0x52

/-- A branch target of the micro-op at index i is legal (condition 4). -/
def targetOk (len i : Nat) (w : W64) : Bool :=
  !isBranchUop w || (let imm := (w.extractLsb' 0 32).toNat; imm < 128 && i < imm && imm ≤ len)

/-- A source code reads hs, IMM or zero. -/
def uniSrc (c : Nat) : Bool := (8 ≤ c && c ≤ 12) || c == 14

/-- Condition 5. Unused source fields hold 14. -/
def hsOk (w : W64) : Bool :=
  let d := (w.extractLsb' 52 4).toNat
  let a := (w.extractLsb' 48 4).toNat
  if opcOf w = 0x32 then 8 ≤ d && d ≤ 11 && a < 8
  else !(8 ≤ d && d ≤ 11) || (uniSrc a && uniSrc (w.extractLsb' 44 4).toNat && uniSrc (w.extractLsb' 40 4).toNat)

/-- The index of the first word that fails a test, from `i` up. -/
def firstBad (p : Nat → W64 → Bool) (i : Nat) (ws : List W64) : Option Nat :=
  match ws with
  | [] => none
  | w :: r => if p i w then firstBad p (i + 1) r else some i

/-- The index of the word at which more than 8 memory micro-ops have been met. -/
def ninthMem (i n : Nat) (ws : List W64) : Option Nat :=
  match ws with
  | [] => none
  | w :: r => let n := n + (if isMemUop w then 1 else 0); if 8 < n then some i else ninthMem (i + 1) n r

/-- The first failure of R326: condition and micro-op index. -/
def seqFailure (s : State) (vf start len : Nat) : Option (Nat × Nat) :=
  if len < 1 || 64 < len || 4095 < start + len - 1 || start / 256 != (start + len - 1) / 256 || unitVf s start != some vf then some (1, 0)
  else
    let ws := SMap.getList s.wcs start len
    match firstBad (fun _ w => wordListed w) 0 ws with
    | some i => some (2, i)
    | none =>
      match ninthMem 0 0 ws with
      | some i => some (3, i)
      | none =>
        match firstBad (targetOk len) 0 ws with
        | some i => some (4, i)
        | none => (firstBad (fun _ w => hsOk w) 0 ws).map fun i => (5, i)

/-- A status word of a failure (R334). -/
def seqStatus (x : Option (Nat × Nat)) : Nat := match x with | none => 0 | some (k, i) => i * 65536 + k

/-- Bind an index: the bind count rises, the entry is written (R334). -/
def bindEntry (s : State) (cid xi start len : Nat) : State :=
  modCtx s cid fun c =>
    let n := c.tabs.bcnt + 1
    { c with tabs := { c.tabs with
        bcnt := n, bind := SMap.set c.tabs.bind xi (BitVec.ofNat 64 (2 ^ 63 + n.toNat * 2 ^ 32 + len * 2 ^ 16 + start)) } }

/-! The instructions (R332 to R335). -/

/-- A control store instruction: what it checks first, the interlock on earlier stores, then its effect. -/
def wcsRun (causes : List Nat) (f : GFmt) (regs : List Nat) (bad : Here → Bool) (k : State → Here → Nat → State) (s : State) : Out :=
  gRun causes true f.pfx regs (fun s h len =>
    if bad h then raiseP s h len 0x006 0 else afterStores s h fun s h => k s h len) s

/-- A count of 1 to 256. -/
def wcsCount (h : Here) (f : GFmt) : Nat := (uniVal h.g f.pfx f.b).toNat
/-- A count out of its range. -/
def badCount (h : Here) (f : GFmt) : Bool := wcsCount h f < 1 || 256 < wcsCount h f
/-- S(A) takes a status. -/
def wcsStatus (s : State) (h : Here) (f : GFmt) (len v : Nat) : State :=
  h.advance (putDst s h.gid (dstOf f.pfx f.a) (BitVec.ofNat 64 v)) len

/-- `wcs.ld` (R333). (DEDUCED, log 30) -/
def execWcsLd (f : GFmt) (s : State) : Out :=
  let n := scalarNo f.pfx f.a
  wcsRun (wcsLdCauses f) f (abRegs f ++ [n + 1]) (fun h => badCount h f) (fun s h len =>
    let src := (getSreg h.g n).toNat
    let lo := (getSreg h.g (n + 1)).toNat
    let k := wcsCount h f
    if src % 8 != 0 then raisePAt s h len 0x021 0 src
    else if 4096 ≤ lo then raiseP s h len 0x006 0
    else if !unitsOk s h.c.vf lo k then wcsStatus s h f len 1
    else if covered s h.c.vf lo k then wcsStatus s h f len 2
    else
      match readRun s h src k with
      | (.wait, s) => s
      | (.fault c b x, s) => raisePAt s h len c b x
      | (.ok bs, s) => wcsStatus (putWcs s lo (wordsOf k bs)) h f len 0) s

/-- An index of 0 to 31. -/
def wcsIndex (h : Here) (f : GFmt) : Nat := (uniVal h.g f.pfx f.b).toNat

/-- Reserved bits of a binding word. -/
def bindWordBad (v : W64) : Bool := v.toNat / 2 ^ 23 != 0 || v.toNat / 2 ^ 12 % 16 != 0

/-- `wcs.bind` (R334). -/
def execWcsBind (f : GFmt) (s : State) : Out :=
  wcsRun (wcsBindCauses f) f (abRegs f) (fun h => 31 < wcsIndex h f || bindWordBad (uniVal h.g f.pfx f.a)) (fun s h len =>
    let v := (uniVal h.g f.pfx f.a).toNat
    let x := seqFailure s h.c.vf (v % 4096) (v / 2 ^ 16 % 128)
    let s := if x.isNone then bindEntry s h.cid (wcsIndex h f) (v % 4096) (v / 2 ^ 16 % 128) else s
    wcsStatus s h f len (seqStatus x)) s

/-- `wcs.unbind`: one entry, or all (R335). -/
def execWcsUnbind (f : GFmt) (s : State) : Out :=
  wcsRun (wcsUnbindCauses f) f (scalarNos f.pfx f.b) (fun h => !isOnes f.b && 31 < wcsIndex h f) (fun s h len =>
    h.advance (modBind s h.cid fun m => if isOnes f.b then [] else SMap.set m (wcsIndex h f) 0) len) s

/-- `wcs.inv` (R335). -/
def execWcsInv (f : GFmt) (s : State) : Out :=
  wcsRun (wcsInvCauses f) f (abRegs f) (fun h => badCount h f || 4096 ≤ (uniVal h.g f.pfx f.a).toNat) (fun s h len =>
    let lo := (uniVal h.g f.pfx f.a).toNat
    let k := wcsCount h f
    if !unitsOk s h.c.vf lo k then wcsStatus s h f len 1
    else wcsStatus (putWcs (unbindOver s h.c.vf lo k) lo (List.replicate k 0)) h f len 0) s

end Sys2Proof.Machine
end

