-- ==== Sys2Proof/Machine/Save.lean ====
section
/-! DEFINITION. Pre-emption: ladder steps, the forced save, the context reset, and restore (R90, R139, R183, R199, R217, R237 to R243, R255, R256, R320, R342). -/

namespace Sys2Proof.Machine

/-! Saving a block (R238). -/

/-- The group that something in flight was issued by. -/
def Pend.gid (p : Pend) : Nat :=
  match p with
  | .acc a => a.gid
  | .tex x => x.gid
  | .signal g _ _ _ => g
  | .event g _ _ => g
  | .barrier g _ _ _ => g

/-- Something of a block is still due that a save finishes first: accesses, held signals, records and barrier updates, copies, operations
accepted or ready to be (R183, R199, R320, R345). -/
def saveWaits (s : State) (bsn : Nat) : Bool :=
  s.mem.fab.any (fun a => bsnOf a.gid == bsn) || s.mem.pend.any (fun p => bsnOf p.gid == bsn)
    || s.cores.any fun e => e.2.kicks.any (fun q => bsnOf q.gid == bsn) || e.2.latch.any (fun x => x.closed && x.bsn == bsn)
        || e.2.mashq.any fun o => o.members.any fun g => bsnOf g == bsn

/-- A write to a peer page of a target's context is not acknowledged: its save waits (R351). -/
def acksDue (s : State) (t : Target) : Bool :=
  inFlight s fun a => a.writes && a.isPeer && (match Tbl.get? s.ctxs a.ctx with | some c => targetHas t a.ctx c | none => false)

/-- Finish the accesses of every group of a list (R183). -/
def drainAll (s : State) (l : List Nat) : State :=
  match l with
  | [] => s
  | gid :: r => drainAll (drainGroup s gid) r

/-- A group stops: its wait is withdrawn, its latches are lost, its bursts end (R90, R92, R139, R357). -/
def stopGroup (s : State) (gid core : Nat) : State :=
  let s := { s with claimq := s.claimq.map fun e => (e.1, e.2.filter (· != gid)) }
  endBurst (leaveSlot (dropWait s gid) gid) core gid

/-- Stop every group of a list. -/
def stopGroups (s : State) (l : List (Nat × Group)) : State :=
  match l with
  | [] => s
  | e :: r => stopGroups (stopGroup s e.1 e.2.place.core) r

/-- The engine state of a block: its operand slots and their bytes by core index × 128 + name, and its open latch entries (R199). -/
def engineImage (s : State) (bsn : Nat) (b : Block) : SavedEng :=
  let at_ := fun (k : Nat) => coreOf s (nth (blockCores s b) (k / 128) 0)
  { slots := b.slots.filterMap fun e => (Tbl.get? (at_ e.1).slots e.2).map fun x => (e.1, x),
    bytes := b.slots.flatMap fun e => rangeAt (at_ e.1).opmem (4096 * e.2) 4096 (4096 * e.1),
    latch := (List.range b.lcores.length).flatMap fun i =>
      ((coreOf s (nth (blockCores s b) i 0)).latch.filter fun x => x.bsn == bsn && coreIdx b (bsn * 256 + nth x.joined 0 0) == i).map fun x => (i, x) }

/-- The engines of every core forget a block. -/
def dropEngineState (s : State) (bsn : Nat) : State :=
  { s with cores := s.cores.map fun e =>
      let mine := fun (p : Nat) => match Tbl.get? e.2.slots p with | some x => x.bsn == bsn | none => false
      (e.1, { e.2 with latch := e.2.latch.filter (fun x => x.bsn != bsn), slots := e.2.slots.filter (fun x => x.2.bsn != bsn),
                       opmem := SMap.keep e.2.opmem fun k => !mine (k / 4096) }) }

/-- Save a block whose work has drained: its groups stop, its barriers go, its cores are free (R238, R342). -/
def saveBlock (s : State) (bsn : Nat) (b : Block) : State :=
  let cores := blockCores s b
  let s := stopGroups s (groupsOf s bsn)
  let img := engineImage s bsn b
  let s := dropEngineState { s with saves := Tbl.set s.saves bsn img } bsn
  let s := modBlock (leaveScratch s bsn) bsn fun b => { b with saved := true, bars := [], teams := [], slots := [] }
  cores.foldl grantHead s

/-- Save every block of a list; none where one has still to drain. A block whose groups have all ended retires instead (R255). -/
def saveBlocks (s : State) (l : List Nat) : Option State :=
  match l with
  | [] => some s
  | bsn :: r =>
    match Tbl.get? s.blocks bsn with
    | none => saveBlocks s r
    | some b =>
      let s := drainAll s ((groupsOf s bsn).map (·.1))
      if saveWaits s bsn then none
      else if (groupsOf s bsn).isEmpty then saveBlocks (pointRetire s bsn) r
      else saveBlocks (saveBlock s bsn b) r

/-- The resident blocks of a target on a set of cores. -/
def targetBlocks (s : State) (t : Target) (cores : Option (List Nat)) : List Nat := (s.blocks.filter fun e => resident s t cores e.2).map (·.1)

/-- A forced save of a target (R238); none while something has to drain. -/
def forceSave (s : State) (t : Target) (cores : Option (List Nat)) : Option State :=
  if acksDue s t then none else saveBlocks s (targetBlocks s t cores)

/-! The ladder (R237). -/

/-- The ladder against a target at a step. -/
def ladderAt (s : State) (t : Target) (step : Nat) : Option Ladder := s.sys.ladders.find? fun l => l.tgt == t && l.step == step

/-- A ladder enters its next step. -/
def stepLadder (s : State) (l : Ladder) : State :=
  { s with sys := { s.sys with ladders := s.sys.ladders.map fun x => if x == l then { l with step := l.step + 1, since := s.time } else x } }

/-- The VF of a target. -/
def targetVf (s : State) (t : Target) : Nat :=
  match t with
  | .vf n => n
  | .ctx n => (match Tbl.get? s.ctxs n with | some c => c.vf | none => 0)

/-- A class-3 record for a resident block of a launch (R147, R237, R380). (DEDUCED, log 85) -/
def coopRecord (s : State) (bsn : Nat) : State :=
  match Tbl.get? s.blocks bsn with
  | none => s
  | some b =>
    match b.of with
    | .handler => s
    | .pass _ _ _ => s
    | .point _ _ => placeRecord s b.ctx { handle := 0, cause := causeOf 3 0x070 2, pc := 0, addr := 0, time := s.time, pt := b.pt, slot := b.slot, since := none }

/-- Records for every block of a list. -/
def coopRecords (s : State) (l : List Nat) : State :=
  match l with
  | [] => s
  | b :: r => coopRecords (coopRecord s b) r

/-- DRAIN_T has passed: the ladder enters step 2, with a class-3 record for each resident block (R237). -/
def execDrainExpiry (tgt : Target) (s : State) : Out :=
  match ladderAt s tgt 1 with
  | none => .next s
  | some l =>
    .next (if s.time < l.since + 1000 * (vfOf s (targetVf s tgt)).drainUs then s
      else coopRecords (stepLadder s l) (targetBlocks s tgt l.cores))

/-- The FLL that a target's clk are counted on: that of its first core's cluster. -/
def targetMhz (s : State) (t : Target) : Nat :=
  match targetCtxs s t with
  | [] => 800
  | e :: _ => presentMhz s (clusterOf (nth e.2.cores 0 0))

/-- COOP_B has passed: a forced save begins (R237). -/
def execCoopBudgetExpiry (tgt : Target) (s : State) : Out :=
  match ladderAt s tgt 2 with
  | none => .next s
  | some l =>
    .next (if (s.time - l.since) * targetMhz s tgt < 1000 * (vfOf s (targetVf s tgt)).coopClk then s else stepLadder s l)

/-- A ladder that saves its target: at step 3, or at step 4 where other contexts than the one reset have still to be saved. -/
def savingLadder (s : State) (p : Ladder → Bool) : Option Ladder := s.sys.ladders.find? fun l => 3 ≤ l.step && p l

/-- The groups of a ladder's target at step 3 are saved, and the ladder is done (R237, R238). -/
def execForcedSave (tgt : Target) (s : State) : Out :=
  match savingLadder s fun l => l.tgt == tgt with
  | none => .next s
  | some l =>
    .next (match forceSave s tgt l.cores with
      | none => s
      | some s => checkLadders s)

/-! The context reset (R239). -/

/-- The tail lists of a context's launches are discarded, those of launches whose commit has begun among them (R239). -/
def dropTails (s : State) (cid : Nat) : State :=
  { s with launches := s.launches.map fun e => (e.1, if e.2.ctx == cid then { e.2 with tails := [], chain := [] } else e.2) }

/-- A context is reset: its jobs are cancelled, its blocks end, its slots stop with ERR 0, and the host is told (R239). -/
def resetContext (s : State) (cid : Nat) : State :=
  let s := cancelJob (dropTails s cid) cid
  let s := haltBlocks s (ctxBlocks s cid)
  let s := (slotsOf s cid).foldl (fun s n => modSlot s n fun q => { q with st := 3, err := 0 }) s
  let s := modCtx s cid fun c => { c with queues := { c.queues with trapq := [], pending := [] } }
  tellHost (openEvent s cid 5 0) (match Tbl.get? s.ctxs cid with | some c => c.vf | none => 0) (.reset cid)

/-- A fault during the save of a context: the ladder goes to step 4, and is done once the target's other contexts are saved (R237, R239).
(DESIGN CHOICE, log 86) -/
def saveFault (s : State) (cid : Nat) : State :=
  match Tbl.get? s.ctxs cid with
  | none => s
  | some c =>
    match savingLadder s fun l => targetHas l.tgt cid c with
    | none => s
    | some l => checkLadders (resetContext (if l.step = 3 then stepLadder s l else s) cid)

/-! Restore (R76, R90, R199, R234, R238, R256). -/

/-- Place the groups of a list, each on its core, one after another. -/
def placeGroups (cores : List Nat) (b : Block) (l : List (Nat × Group)) (s : State) : Option State :=
  match l with
  | [] => some s
  | (gid, g) :: r =>
    let core := nth cores (coreIdx b gid) 0
    match pickPart (partUse s core) g.base with
    | none => none
    | some p =>
      placeGroups cores b r (modGroup s gid fun g =>
        { g with place := { core := core, part := p, slot := none }, readyAt := s.steps, cur := none, regs := { g.regs with ring := [] } })

/-- The extended registers of the groups of a list lie in partitions of their cores again (R77, R82). -/
def placeExts (l : List (Nat × Group)) (s : State) : State :=
  match l with
  | [] => s
  | (gid, g) :: r =>
    let n := (g.total - g.base) / 8
    let core := match Tbl.get? s.groups gid with | some x => x.place.core | none => 0
    let e := placeExt (partRegs s core) n s.freeCtr
    placeExts r (modGroup { s with freeCtr := s.freeCtr + n } gid fun g => { g with ext := e })

/-- Extended registers of a block's groups on a core index. -/
def extHeld (s : State) (bsn : Nat) (b : Block) (j : Nat) : Nat :=
  ((groupsOf s bsn).filter fun e => coreIdx b e.1 == j).foldl (fun n e => n + (e.2.total - e.2.base)) 0

/-- FREE of a restored block (R90). -/
def restoreFree (s : State) (bsn : Nat) (b : Block) : SMap 16 :=
  SMap.setList [] 0 ((List.range b.foot.bcores).map fun j => BitVec.ofNat 16 (b.foot.pool - extHeld s bsn b j))

/-- Map the saved slots of a block to free physical slots; none where a core has too few (R199). -/
def restoreSlots (cores : List Nat) (bsn : Nat) (img : SavedEng) (l : Tbl OpSlot) (s : State) : Option State :=
  match l with
  | [] => some s
  | (k, x) :: r =>
    let core := nth cores (k / 128) 0
    match (freeSlots (coreOf s core)) with
    | [] => none
    | p :: _ =>
      let s := modCore s core fun c =>
        { c with slots := Tbl.set c.slots p x, opmem := putRange c.opmem (4096 * p) 4096 (rangeAt img.bytes (4096 * k) 4096 (4096 * p)) }
      restoreSlots cores bsn img r (modBlock s bsn fun b => { b with slots := Tbl.set b.slots k p })

/-- Open latch entries come back, where the latch has room (R199). -/
def restoreLatch (cores : List Nat) (l : List (Nat × LatchEntry)) (s : State) : Option State :=
  match l with
  | [] => some s
  | (i, x) :: r =>
    let core := nth cores i 0
    if 8 ≤ (coreOf s core).latch.length then none
    else restoreLatch cores r (modCore s core fun c => { c with latch := c.latch ++ [x] })

/-- The cores of a block hold it within their registers and scratchpad (R234). -/
def coresHold (s : State) (cores : List Nat) : Bool :=
  cores.all fun c => regsReserved s c ≤ 4096 && scratchUsed s c ≤ 2 ^ 20

/-- A launch takes its frontier entry back (R256). -/
def takeEntry (s : State) (b : Block) : Option State :=
  match b.of with
  | .point lid _ =>
    match Tbl.get? s.launches lid with
    | some l => if entryOk s l then some (modLaunch s lid fun l => { l with entry := l.desc.vectors }) else none
    | none => some s
  | _ => some s

/-- Nowhere: where the groups of a block stand while their places are sought. -/
def unplaced (s : State) (bsn : Nat) : State :=
  { s with groups := s.groups.map fun e => if bsnOf e.1 = bsn then (e.1, { e.2 with ext := [], place := { core := 64, part := 0, slot := none } }) else e }

/-- The tile of a pass that a block works on. -/
def blockTile (s : State) (b : Block) : Option (Nat × Nat) :=
  match b.of with
  | .pass pid _ tile => some (pid, tile)
  | .point lid rank => match Tbl.get? s.launches lid with | some l => if l.tiled then some (l.recId, rank) else none | none => none
  | .handler => none

/-- The tile of a saved block takes its core again, its buffer with it (R217); none where the core is not free for it. -/
def retakeTile (s : State) (b : Block) (c : Ctx) : Option State :=
  match blockTile s b with
  | none => some s
  | some t =>
    match Tbl.get? s.passes t.1, passHdr s t.1 with
    | some p, some h => takeTile s t.1 p h c t.2
    | _, _ => some s

/-- Place a saved block again on the cores that carry its logical cores (R238). -/
def restoreBlock (s : State) (bsn : Nat) (b : Block) (c : Ctx) : Option State :=
  let cores := blockCores s b
  let img := (Tbl.get? s.saves bsn).getD { slots := [], bytes := [], latch := [] }
  if !(cores.all fun p => coreOpen s c p) then none
  else
    let s1 := modBlock (cores.foldl (fun s k => modCore (wakeCluster s k) k fun k => { k with spad := [] }) (unplaced s bsn)) bsn fun b => { b with saved := false, free := restoreFree s bsn b }
    (retakeTile s1 b c).bind fun s =>
    ((placeGroups cores b (groupsOf s bsn) s).map (placeExts (groupsOf s bsn))).bind fun s =>
      if !coresHold s cores then none
      else
        (restoreSlots cores bsn img img.slots s).bind fun s =>
          (restoreLatch cores img.latch s).bind fun s =>
            takeEntry { s with saves := Tbl.erase s.saves bsn } b

/-- A saved block is placed again (R238). -/
def execBlockRestorePlace (bsn : Nat) (s : State) : Out :=
  match Tbl.get? s.blocks bsn with
  | none => .next s
  | some b =>
    match Tbl.get? s.ctxs b.ctx with
    | none => .next s
    | some c => .next (if b.saved && mayStart s b.ctx c then (restoreBlock s bsn b c).getD s else s)

/-! Slices and priorities (R240, R241). -/

/-- A VF's slice has ended: the ladder runs on it (R240). -/
def execSliceExpiry (vf : Nat) (s : State) : Out :=
  match (vfOf s vf).sliceEnd with
  | none => .next s
  | some e =>
    .next (if s.time < e || (s.sys.ladders.any fun l => match l.next with | .slice _ => l.tgt == .vf vf | _ => false) then s
      else if (sharers s vf).isEmpty then setVf s vf fun v => { v with sliceEnd := none }
      else startLadder (rollback s vf) (.vf vf) none (.slice e))

/-- The lowest PRI of a context's slots; none where it has no slot. -/
def ctxPri (s : State) (cid : Nat) : Option Nat :=
  (slotsOf s cid).foldl (fun m n => match m with | some x => some (min x (slotOf s n).pri) | none => some (slotOf s n).pri) none

/-- A context has blocks on some of a set of cores. -/
def onCores (s : State) (cid : Nat) (cores : List Nat) : Bool := s.blocks.any fun e => resident s (.ctx cid) (some cores) e.2

/-- The cores that the point of a launch needs: those whose tiles have come to a dispatch, those of its pass, or those of its context (R205, R215, R234). -/
def neededCores (s : State) (lid : Nat) (c : Ctx) : List Nat :=
  match Tbl.get? s.launches lid with
  | none => []
  | some l =>
    let lset :=
      if l.tiled then
        (match passHdr s l.recId with
         | some h => ((List.range 12).flatMap fun k => tileOffers s k l c).map h.tileCore
         | none => [])
      else launchCores s c l
    lset.map fun i => nth c.cores i 0

/-- The context of least PRI in a slot's VF with blocks on the cores that its point needs, its own among them; one whose slots all have at least the
slot's PRI is no target (R241). -/
def prioVictim (s : State) (q : QSlot) (cores : List Nat) : Option Nat :=
  let below := fun (cid : Nat) => match ctxPri s cid with | some p => p < q.pri | none => false
  (s.ctxs.filter fun e => e.2.vf == q.vf && below e.1 && onCores s e.1 cores && !underLadder s e.1 e.2 fun _ => true).foldl (fun m e =>
    match m with
    | some x => if (ctxPri s e.1).getD 0 < (ctxPri s x).getD 0 then some e.1 else m
    | none => some e.1) none

/-- A slot's point has found no fit for PREEMPT_T: the ladder runs against a context of least PRI, one at a time (R241). -/
def execPreemptTExpiry (slot : Nat) (s : State) : Out :=
  let q := slotOf s slot
  match Tbl.get? s.sys.unfit slot, Tbl.get? s.ctxs q.ctx with
  | some (lid, t), some c =>
    .next (if !offers s lid then { s with sys := { s.sys with unfit := Tbl.erase s.sys.unfit slot } }
      else if s.time < t + 1000 * (vfOf s q.vf).preemptUs || (s.sys.ladders.any fun l => l.next == .prio && targetVf s l.tgt == q.vf) then s
      else match prioVictim s q (neededCores s lid c) with
        | none => s
        | some v => startLadder s (.ctx v) none .prio)
  | _, _ => .next s

end Sys2Proof.Machine
end

