-- ==== Sys2Proof/Machine/Fetch.lean ====
section
/-! DEFINITION. What a group issues next: fetch, decoding, micro-ops, and the vector burst (R38, R39, R55, R271, R329, R331, R353, R357, R361). -/

namespace Sys2Proof.Machine

/-! Vector bursts (R96, R353). -/

/-- Instructions of the rows of R96 that make the vector burst reservation. -/
def bursts (i : Instr) : Bool :=
  match i with
  | .vadd _ | .vsub _ | .vmul _ | .vmulh _ | .vmin _ | .vmax _ | .vabsd _ | .vand _ | .vor _ | .vxor _ | .vandn _ | .vshl _ | .vshr _
  | .vsra _ | .vrot _ | .vadds _ | .vsubs _ | .vmad _ | .vbfx _ | .vbfi _ | .vsel _ | .vaddr _ | .vrq _ | .vcmp _ | .vfcmp _ | .vfadd _
  | .vfsub _ | .vfmul _ | .vfmin _ | .vfmax _ | .vfsgn _ | .vfma _ | .vfms _ | .vfdp2 _ | .vmov _ | .vnot _ | .vneg _ | .vabs _ | .vpopc _
  | .vclz _ | .vctz _ | .vbrev _ | .vfneg _ | .vfabs _ | .vfrnd _ | .vcvt _ | .vperm _ | .vshf _ | .vredSum _ | .vredMax _ | .vredMin _
  | .cAdd _ | .cSub _ | .cMul _ | .cAnd _ | .cOr _ | .cXor _ | .cShl _ | .cShr _ | .cMov _ | .cFadd _ | .cFsub _ | .cFmul _ | .cFmin _
  | .cFmax _ | .cMin _ | .cMax _ => true
  | _ => false

/-! Fetch (R38, R39, R271). -/

/-- What a fetch of bytes answers: the halfwords, a fault with its address, or a wait for a page-in. -/
abbrev Fetched := Checked (List Half) × State

/-- Fetch the halfword at an address: an access of its line and its frame (R8, R276). -/
def fetchHalf (s : State) (core cid : Nat) (c : Ctx) (va : Nat) : Checked Half × State :=
  match translateRaw s core cid c va false true with
  | (.fault code sub, s) => (.fault code sub va, s)
  | (.wait _, s) => (.wait, s)
  | (.ok e, s) =>
    let p := partOf e va 0 2
    match partsFault s c va true [p] with
    | some f => (.fault f.1 f.2.1 va, s)
    | none =>
      (.ok (BitVec.ofNat 16 (leNat (readPhys s.mem p.space p.pa 2))), if p.space == .loc then readLoc s cid p.pa p.n p.world else s)

/-- The halfwords so far make a whole instruction (R38, R39, R52). -/
def wholeInstr (hs : List Half) : Bool :=
  match hs with
  | [] => false
  | h0 :: r =>
    !h0.getLsbD 0 ||
      (match r with
       | [] => false
       | h1 :: r =>
         majorOf (wordOf h0 h1) != 0x7E ||
           (match r with
            | [] => false
            | h2 :: r => !(h2.getLsbD 0 && pairable (majorOf (wordOf h2 0))) || !r.isEmpty))

/-- Fetch halfwords from an address on until an instruction is whole, at most `n` more (R38). -/
def fetchFrom (core cid : Nat) (c : Ctx) (va n : Nat) (hs : List Half) (s : State) : Fetched :=
  match n with
  | 0 => (.ok hs, s)
  | n + 1 =>
    if wholeInstr hs then (.ok hs, s)
    else
      match fetchHalf s core cid c ((va + 2 * hs.length) % 2 ^ 64) with
      | (.ok x, s) => fetchFrom core cid c va n (hs ++ [x]) s
      | (.fault code sub a, s) => (.fault code sub a, s)
      | (.wait, s) => (.wait, s)

/-- The instruction of a decoding: a word that decodes to none is a reserved major's (R55). -/
def decodedInstr (d : Decoded) : Instr :=
  match d with
  | .instr i _ => i
  | .reject r len msk => .reservedMajor r.subcode len msk

/-- What an issue comes to. -/
inductive Next where
  /-- run an instruction on a state -/
  | run (i : Instr) (s : State)
  /-- nothing is run -/
  | hold (s : State)

/-- The instruction at a fibre's pc; a fetch that faults parks the fibre (R38, R272). -/
def fetchNext (s : State) (h : Here) : Next :=
  match fetchFrom h.core h.cid h.c h.f.pc.toNat 4 [] s with
  | (.ok hs, s) => .run (decodedInstr (decodeHalves hs)) s
  | (.fault code sub a, s) => .hold (raisePAt s h 0 code sub a)
  | (.wait, s) => .hold s

/-- The micro-op of a fibre in a sequence: the control store word at START + UPC (R329, R331). -/
def microNext (s : State) (h : Here) (m : Micro) : Instr :=
  let w := SMap.get s.wcs ((bindStart (bindOf h.c m.xi) + m.upc) % 4096)
  match decodeUop w with
  | .instr i _ => i
  | .reject _ _ _ => .refusedWord w

/-- What a group's current fibre issues next. -/
def nextOf (s : State) (h : Here) : Next :=
  match h.f.micro with
  | some m => .run (microNext s h m) s
  | none => fetchNext s h

/-- A throttle handler issues without a grant while DENY holds (R361). -/
def throttleShare (s : State) (h : Here) : Bool :=
  (clusterSt s (clusterOf h.core)).deny &&
    (match h.g.handler with | some r => r.cause == causeOf 1 0x060 0 | none => false)

/-- STALL of a context rises by a free count of clk (R357; DESIGN CHOICE, log 2). (DESIGN CHOICE, log 50) -/
def addStall (s : State) (cid : Nat) : State :=
  let f := freshNat s
  modCounts f.2 cid fun k => { k with stall := k.stall + BitVec.ofNat 32 f.1 }

/-- A burst instruction runs where its port holds the reservation; else the request is made and the group is held (R353, R357, R361). -/
def throttle (h : Here) (n : Next) : Next :=
  match n with
  | .hold s => .hold s
  | .run i s =>
    let w := KilnWho.vector h.core h.g.place.part
    if !bursts i || kilnHeld s w || throttleShare s h then .run i s
    else .hold (addStall (kilnAsk s w h.cid h.gid) h.cid)

/-- What the group at the head of the issue order comes to. -/
def issueNext (s : State) : Next :=
  match s.here with
  | none => .hold s
  | some h => throttle h (nextOf s h)

/-- The group that issued goes behind the others of the issue order. -/
def rotate (gid : Option Nat) (s : State) : State :=
  match gid, s.ready with
  | some g, x :: r => if x = g then { s with ready := r ++ [x] } else s
  | _, _ => s

/-- A group comes to the head of the issue order, where it is in it. -/
def headGroup (s : State) (gid : Nat) : State :=
  if s.ready.contains gid then { s with ready := gid :: s.ready.filter (· != gid) } else s

/-- A word that decodes to no listed instruction (R55, R58). -/
def execReservedMajor (sub len msk : Nat) (s : State) : Out := issue s fun h => illegal s h msk len sub

end Sys2Proof.Machine
end

