-- ==== Sys2Proof/Machine/Power.lean ====
section
/-! DEFINITION. Power: reservations asked for, throttle notices, hot spots, retention; and detected array errors (R353, R360 to R364, R383). -/

namespace Sys2Proof.Machine

/-! The configuration record (R391). -/

/-- A field of the verified configuration record, by byte offset and length. -/
def cfgNat (s : State) (off n : Nat) : Option Nat := s.sys.cfg.map fun bs => leNat ((bs.drop off).take n)

/-! Reservations asked for (R353). -/

/-- The active group of a partition whose instruction next to issue makes a burst. -/
def burstNext (s : State) (core part : Nat) : Option (Nat × Nat) :=
  s.ready.findSome? fun gid =>
    match (headGroup s gid).here with
    | none => none
    | some h =>
      if h.core == core && h.g.place.part == part then
        (match nextOf s h with | .run i _ => if bursts i then some (h.cid, gid) else none | .hold _ => none)
      else none

/-- What a requester asks for now: the context it acts for and its group. -/
def kilnWants (s : State) (w : KilnWho) : Option (Nat × Nat) :=
  match w with
  | .mash c => (mmReady s c).map fun e => (e.1.ctx, nth e.1.members 0 0)
  | .grist c =>
    let l := (coreOf s c).kicks
    (List.range l.length).findSome? fun k => match l[k]? with | some q => if copyReady s c k q then some (q.ctx, q.gid) else none | none => none
  | .vector c p => burstNext s c p

/-- An engine asks for its reservation where its work is next and it has none. -/
def kilnFile (s : State) (w : KilnWho) : State :=
  match kilnWants s w with
  | some x => kilnAsk s w x.1 x.2
  | none => s

/-- An engine or a port asks for its reservation (R353, R356). -/
def execKilnRequest (cluster : Nat) (who : KilnWho) (s : State) : Out :=
  .next (if clusterOf (whoCore who) != cluster then s else kilnFile s who)

/-- Every engine of a cluster whose work is next has asked by the step at which the arbiter sees it (R353, R355). -/
def kilnFiled (s : State) (cluster : Nat) : State :=
  ((List.range 4).map fun i => 4 * cluster + i).foldl (fun s c => kilnFile (kilnFile s (.mash c)) (.grist c)) s

/-- The arbiter acts at a step, the requests of the engines before it made (R353, R355). -/
def execKilnStep (cluster : Nat) (s : State) : Out := .next (if cluster < 12 then kilnStep (kilnFiled s cluster) cluster else s)

/-! Notices (R360). -/

/-- PAY of a notice; the FLL's MHz is its target, which the change has set (DEDUCED, log 130). -/
def noticePay (s : State) (cluster cause : Nat) : W64 :=
  let c := clusterSt s cluster
  BitVec.ofNat 64 (cluster % 16 + cause * 2 ^ 16 + c.cap * 2 ^ 24 + c.mhz * 2 ^ 32)

/-- The contexts with a resident block on a cluster. -/
def onCluster (s : State) (cluster : Nat) : List Nat :=
  (s.ctxs.filter fun e => s.blocks.any fun b =>
    b.2.ctx == e.1 && !b.2.saved && (blockCores s b.2).any fun c => clusterOf c == cluster).map (·.1)

/-- A context receives an event of class 2 and a trap record that parks no lane. -/
def notice (s : State) (cluster cause cid : Nat) : State :=
  let pay := noticePay s cluster cause
  placeRecord (devEvent s cid 2 0 pay) cid
    { handle := 0, cause := causeOf 1 0x060 0, pc := 0, addr := pay, time := s.time, pt := (0, 0, 0), slot := none, since := none }

/-- Every context of a list is notified. -/
def noticeAll (cluster cause : Nat) (l : List Nat) (s : State) : State :=
  match l with
  | [] => s
  | c :: r => noticeAll cluster cause r (notice s cluster cause c)

/-- Notices for a change on a cluster. -/
def clusterNotice (s : State) (cluster cause : Nat) : State := noticeAll cluster cause (onCluster s cluster) s

/-! Throttling (R360). -/

/-- The FLL goes down a step of 25 MHz, to 400 at least (R358), and the contexts are told of the change. (DEDUCED, log 88) -/
def throttleStep (s : State) (cluster : Nat) : State :=
  let f := max 400 (min (clusterSt s cluster).mhz (presentMhz s cluster) - 25)
  let t := modCluster (aimFll s cluster f) cluster fun c => { c with hot := true }
  if f = (clusterSt s cluster).mhz then t else clusterNotice t cluster 1

/-- What a temperature does under a limit in °C: lower the FLL from above it on until 5 °C below it. -/
def thermalAct (s : State) (cluster t hi : Nat) : State :=
  let c := clusterSt s cluster
  if 4 * hi < t || (c.hot && 4 * hi ≤ t + 20) then throttleStep s cluster
  else if c.hot then clusterNotice (modCluster s cluster fun c => { c with hot := false }) cluster 3
  else s

/-- Since when a cluster has stayed above TJ_MIG (R362). -/
def hotFrom (s : State) (c : Cluster) (t mig : Nat) : Option Nat :=
  if 4 * mig < t then some (c.hotSince.getD s.time) else none

/-- Milsal reads a cluster's temperature sensor, in quarter degrees (R360). -/
def execThermalSample (cluster quarterDeg : Nat) (s : State) : Out :=
  .next (if 12 ≤ cluster then s
    else
      let s := modCluster s cluster fun c => { c with temp := quarterDeg }
      match cfgNat s 36 1, cfgNat s 37 1 with
      | some hi, some mig =>
        thermalAct (modCluster s cluster fun c => { c with hotSince := hotFrom s c quarterDeg mig }) cluster quarterDeg hi
      | _, _ => s)

/-- A supply droop: DENY is set (R360). -/
def execDroopAlarm (cluster : Nat) (s : State) : Out :=
  .next (if 12 ≤ cluster || (clusterSt s cluster).deny then s
    else clusterNotice (modCluster s cluster fun c => { c with deny := true }) cluster 2)

/-- The droop is over: DENY is cleared (R360). -/
def execDenyEnd (cluster : Nat) (s : State) : Out :=
  .next (if 12 ≤ cluster || !(clusterSt s cluster).deny then s
    else clusterNotice (modCluster s cluster fun c => { c with deny := false }) cluster 3)

/-! Hot spots (R362). -/

/-- The cores of a cluster. -/
def coresIn (cluster : Nat) : List Nat := (List.range 4).map fun i => 4 * cluster + i

/-- A core is in a VF's core set, or carries a logical core of a context. -/
def coreTaken (s : State) (core : Nat) : Bool :=
  s.vfs.any (fun e => e.1 != 0 && e.2.cores.contains core) || s.ctxs.any fun e => e.2.cores.contains core

/-- The free cores of the lowest cluster that is 10 °C cooler and has as many as are needed. (DEDUCED, log 87) -/
def coolCores (s : State) (cluster need : Nat) : Option (List Nat) :=
  ((List.range 12).filter fun k => !(clusterSt s k).fenced && (clusterSt s k).temp + 40 ≤ (clusterSt s cluster).temp).findSome? fun k =>
    let l := (coresIn k).filter fun c => !coreTaken s c
    if need ≤ l.length then some l else none

/-- A core's place among some, else itself. -/
def swapCore (old new : List Nat) (core : Nat) : Nat :=
  match old.findIdx? fun x => x == core with
  | some i => nth new i core
  | none => core

/-- The contexts with a logical core on a cluster. -/
def ctxsOnCluster (s : State) (cluster : Nat) : List Nat :=
  (s.ctxs.filter fun e => e.2.cores.any fun c => clusterOf c == cluster).map (·.1)

/-- Save the blocks of every context of a list from some cores. -/
def saveFrom (cores : List Nat) (l : List Nat) (s : State) : Option State :=
  match l with
  | [] => some s
  | cid :: r =>
    match forceSave s (.ctx cid) (some cores) with
    | none => none
    | some s => saveFrom cores r (savePasses s (.ctx cid) (some cores))

/-- The logical cores of every context of a list move. -/
def moveCtxs (old new : List Nat) (l : List Nat) (s : State) : State :=
  match l with
  | [] => s
  | cid :: r =>
    match Tbl.get? s.ctxs cid with
    | none => moveCtxs old new r s
    | some c => moveCtxs old new r (setMap s cid c (c.cores.map (swapCore old new)))

/-- Swap a hot cluster's cores for cooler ones (R362). -/
def hotMove (s : State) (cluster : Nat) : State :=
  let old := (coresIn cluster).filter fun c => coreTaken s c
  let l := ctxsOnCluster s cluster
  if old.isEmpty then s
  else
    match coolCores s cluster old.length with
    | none => throttleStep s cluster
    | some new =>
      match saveFrom old l s with
      | none => s
      | some s =>
        let s := moveCtxs old new l s
        let s := { s with vfs := s.vfs.map fun e => (e.1, { e.2 with cores := e.2.cores.map (swapCore old new) }) }
        checkLadders (noticeAll cluster 4 l s)

/-- A cluster has stayed above TJ_MIG for 1 ms (R362). -/
def execHotSpotMigration (cluster : Nat) (s : State) : Out :=
  .next (match (clusterSt s cluster).hotSince with
    | some t => if 12 ≤ cluster || s.time < t + 1000000 then s else hotMove s cluster
    | none => s)

/-! Retention (R363, R364). -/

/-- A cluster holds no resident group, pass, Mash operation or copy request; a pass holds the cores of its set (R205, R363). -/
def clusterIdle (s : State) (cluster : Nat) : Bool :=
  (coresIn cluster).all fun c =>
    (residents s c).isEmpty && (coreOf s c).mashq.isEmpty && (coreOf s c).latch.isEmpty && (coreOf s c).kicks.isEmpty
      && s.passes.all fun e => match Tbl.get? s.ctxs e.2.ctx with | some k => e.2.cur.all (fun x => nth k.cores x.1 0 != c) | none => true

/-- A core loses what retention does not keep: its owner's image is spilled, V is cleared, its TLBs are empty. -/
def retainCore (s : State) (core : Nat) : State :=
  let s := modCore (spillUnits s core) core fun k => { k with owner := none, acc := [], opmem := [], spad := [] }
  { s with mem := { s.mem with tlb := Tbl.erase s.mem.tlb core, walk := Tbl.erase s.mem.walk core } }

/-- RET_T, in ns (R363, R391). -/
def retNs (s : State) : Nat := 1000 * (cfgNat s 38 2).getD 2000

/-- Evict pages of a launch's frontier that lie in the frames of one cluster. Which frame a page took is not in the state: those evicted are chosen
freely among the pages that may be (R251, R252; DESIGN CHOICE, log 2). -/
def evictFree (s : State) (lid : Nat) (l : Launch) : State :=
  (l.pages.filter fun p => !pagePinned l p).foldl (fun s p => let f := freshNat s; if f.1 % 2 = 1 then evictPage f.2 lid p else f.2) s

/-- A cluster's frontier frames are evicted. -/
def evictFrames (s : State) : State := s.launches.foldl (fun s e => evictFree s e.1 e.2) s

/-- Milsal looks at a cluster: one that has been idle for RET_T enters retention (R363). -/
def execRetentionEntry (cluster : Nat) (s : State) : Out :=
  .next (if 12 ≤ cluster || (clusterSt s cluster).retained then s
    else if !clusterIdle s cluster then modCluster s cluster fun c => { c with idleFrom := none }
    else
      match (clusterSt s cluster).idleFrom with
      | none => modCluster s cluster fun c => { c with idleFrom := some s.time }
      | some t =>
        if s.time < t + retNs s then s
        else modCluster (evictFrames ((coresIn cluster).foldl retainCore s)) cluster fun c => { c with retained := true, idleFrom := none })

/-- A cluster leaves retention (R364). -/
def execRetentionExit (cluster : Nat) (s : State) : Out :=
  .next (if (clusterSt s cluster).retained then modCluster s cluster fun c => { c with retained := false } else s)

/-! Detected errors (R158, R159, R321, R364, R383, R384). -/

/-- The kind of error that an injection's MODE makes. -/
def modeKind (mode kind : Nat) : Bool :=
  match mode with
  | 1 => kind == 0
  | 2 => kind == 1 || kind == 2
  | 3 => kind == 3 || kind == 5
  | _ => false

/-- An error is an injected one (R384, R385): in memory, its word holds one; in another array, the register is armed at its place and the write that
the event stands for stored the flipped bits, or an earlier one did: which errors there were injected is free (DESIGN CHOICE, logs 2 and 154). -/
def injected (s : State) (q : ErrArgs) : Bool × State :=
  let r := ringOf s q.array
  let a := q.addr.toNat
  let w := r.inject.toNat
  if q.array ≤ 1 then (r.planted.any fun e => e.1 ≤ a && a < e.1 + 8 && modeKind e.2 q.kind, s)
  else
    let f := freshNat s
    let stored := r.planted.any fun e => e.1 == a && modeKind e.2 q.kind
    let armed := w / 2 ^ 64 == a && modeKind (w / 2 ^ 48 % 4) q.kind && w / 2 ^ 40 % 256 != 0
    if !(stored || armed) then (false, s)
    else if f.1 % 2 = 0 then (false, f.2)
    else (true, { f.2 with errs := Tbl.set s.errs q.array (if armed then injectDown { r with planted := plantOnce r.planted a (w / 2 ^ 48 % 4) } else r) })

/-- An error's log entry. -/
def errEntry (s : State) (q : ErrArgs) (inj : Bool) : ErrEntry :=
  { addr := q.addr, syn := q.syn, time := s.time, ctx := q.ctx,
    vf := (match q.ctx with | some c => (match Tbl.get? s.ctxs c with | some x => x.vf | none => 0) | none => 0),
    inj := inj,
    kind := q.kind, core := if q.array ≤ 1 || q.array == 15 then 0 else q.core, count := 1 }

/-- The kinds of error that an array's protection detects (R383, R384). -/
def kindFits (array kind : Nat) : Bool :=
  match array with
  | 0 => kind ≤ 2
  | 1 => kind ≤ 2
  | 3 => kind == 3
  | 8 => kind == 3
  | 9 => kind == 3
  | 10 => kind == 3
  | 12 => kind == 3
  | 14 => kind == 5 || kind == 1
  | 15 => kind == 0
  | n => n < 16 && kind ≤ 1

/-- Lanes of a group's current fibre take uncorrectable-error at the instruction they issue. (DEDUCED, log 90) -/
def laneError (s : State) (q : ErrArgs) (whole : Bool) : State :=
  match q.gid with
  | none => s
  | some gid =>
    match (headGroup s gid).here with
    | none => s
    | some h =>
      let l := if whole then h.f.pred else h.f.pred &&& q.lanes
      if h.gid != gid || l == 0 then s else takeTrap s h l h.f.pc h.f.pc 1 0x025 q.array 0 h.f.micro

/-- A double-bit error in a word of the scratchpad: held in the block until the word is written, where a group's block has the byte; else in the tile
buffer of the group's tile, by byte, until the word is written (R158, R383). (DESIGN CHOICE, log 129) -/
def scratchError (s : State) (q : ErrArgs) : State :=
  match q.gid with
  | none => s
  | some gid =>
    match Tbl.get? s.blocks (bsnOf gid) with
    | none => s
    | some b =>
      match wordKey b gid q.addr.toNat with
      | some w => modBlock s (bsnOf gid) fun b => { b with bad := if b.bad.contains w then b.bad else b.bad ++ [w] }
      | none =>
        match ((headGroup s gid).here).bind (tileHome s) with
        | none => s
        | some t =>
          let w := (t.2.2, q.addr.toNat / 8 % 32768)
          modPass s t.1 fun p => { p with bad := if p.bad.contains w then p.bad else p.bad ++ [w] }

/-- A micro-op that fails parity is the refused word 0; a binding removed or replaced since entry is found first (R321, R331). -/
def uopError (s : State) (q : ErrArgs) : State :=
  match q.gid with
  | none => s
  | some gid =>
    match (headGroup s gid).here with
    | none => s
    | some h =>
      match h.f.micro with
      | none => s
      | some m =>
        let e := bindOf h.c m.xi
        if h.gid != gid then s
        else if !bindV e || bindSer e != m.bser then takeTrap s h h.f.pred h.f.pc h.f.pc 1 0x001 7 0 none
        else takeTrap s h h.f.pred h.f.pc h.f.pc 1 0x001 0x0A 0 (some m)

/-- A poisoned line: what reads it takes uncorrectable-error; a POT entry in it fences its frame. -/
def lineError (s : State) (q : ErrArgs) : State :=
  match q.pot with
  | some p => dropTlb (setPot s p { potEntry s p with state := 3 }) (entryInFrame p)
  | none =>
    let e := (lineOf q.addr.toNat, q.array)
    if s.mem.poison.contains e then s else { s with mem := { s.mem with poison := s.mem.poison ++ [e] } }

/-- An entry of the tag table of a group's block reads invalid. -/
def tagError (s : State) (q : ErrArgs) : State :=
  match q.gid with
  | none => s
  | some gid => modBlock s (bsnOf gid) fun b => { b with tags := Tbl.modify b.tags q.addr.toNat fun e => { e with v := false } }

/-- The operation that runs on a core writes no unit, and its members take RESET. -/
def operandError (s : State) (core : Nat) : State :=
  match (coreOf s core).mashq with
  | [] => s
  | o :: _ => if o.out.isSome then finishOp (kilnEnd s (.mash core)) core o.members fun e => { e with reset := true } else s

/-- The image of a core's owner is lost (R203). -/
def accError (s : State) (core : Nat) : State :=
  match (coreOf s core).owner with
  | none => s
  | some (cid, lc) => modCore (setLost s cid lc) core fun k => { k with owner := none }

/-- A page of the frontier table, of a launch with resident pages, chosen freely (DESIGN CHOICE, log 2): one changed since its load costs its launch, another
is loaded again as it was (R252, R383). -/
def frontierError (s : State) (lid : Nat) : State :=
  match Tbl.get? s.launches lid with
  | none => s
  | some l =>
    let f := freshNat s
    if !l.pages.isEmpty && l.changed.contains (nth l.pages (f.1 % l.pages.length) 0) then cancelLaunch f.2 lid false else f.2

/-- An entry of a core's TLB or, counted after those, of its walk-ahead TLB is discarded (R383; DESIGN CHOICE, log 155). -/
def tlbError (s : State) (core i : Nat) : State :=
  let n := (tlbOf s core).length
  if i < n then { s with mem := { s.mem with tlb := Tbl.set s.mem.tlb core (removeAt (tlbOf s core) i) } }
  else { s with mem := { s.mem with walk := Tbl.set s.mem.walk core (removeAt (walkOf s core) (i - n)) } }

/-- A cluster is fenced: its cores leave every core set (R243, R364). -/
def fenceCluster (s : State) (cluster : Nat) : State :=
  let s := tellHost (modCluster s cluster fun c => { c with fenced := true }) 0 (.fenced cluster)
  let s := { s with vfs := s.vfs.map fun e => (e.1, { e.2 with cores := e.2.cores.filter fun c => clusterOf c != cluster }) }
  (ctxsOnCluster s cluster).foldl (fun s cid => match Tbl.get? s.ctxs cid with | some c => resizeMap s cid c | none => s) s

/-- What an error in an array does. -/
def errAct (s : State) (q : ErrArgs) : State :=
  let bad := q.kind == 1 || q.kind == 2
  match q.array with
  | 0 => if bad then lineError s q else s
  | 1 => if bad then lineError s q else s
  | 2 => if bad then scratchError s q else s
  | 3 => tagError s q
  | 4 => if bad then laneError s q false else s
  | 5 => if bad then laneError s q true else s
  | 6 => if bad then operandError s q.core else s
  | 7 => if bad then accError s q.core else s
  | 9 => uopError s q
  | 10 => tlbError s q.core q.addr.toNat
  | 11 => if bad then frontierError s q.addr.toNat else s
  | 13 => if bad && (slotOf s q.addr.toNat).st != 0 then modSlot s q.addr.toNat fun x => { x with st := 3, err := 0 } else s
  | 14 => if bad && (clusterSt s (clusterOf q.core)).retained then fenceCluster s (clusterOf q.core) else s
  | _ => s

/-- An array error is detected, logged and acted on (R383, R384). An uncorrectable one that meets a context's forced save ends the save (R239). -/
def execSoftErrorDetect (q : ErrArgs) (s : State) : Out :=
  .next (if !kindFits q.array q.kind || 48 ≤ q.core then s
    else
      let r := injected s q
      let s := errAct (logErr r.2 q.array (errEntry r.2 q r.1)) q
      match q.ctx with
      | some c => if q.kind = 1 then saveFault s c else s
      | none => s)

end Sys2Proof.Machine
end

