-- ==== Sys2Proof/Machine/Bus.lean ====
section
/-! DEFINITION. The ports, the fabric and the host's accesses; device reset and the configuration record (R19, R351, R391, R393, R394). -/

namespace Sys2Proof.Machine

/-! Faults of accesses already under way (R383, R393, R394). -/

/-- The issuing view of a fibre of a group. -/
def fibreHere (s : State) (gid fid : Nat) : Option Here :=
  match Tbl.get? s.groups gid, Tbl.get? s.blocks (bsnOf gid) with
  | some g, some b =>
    match Tbl.get? g.fibres fid, Tbl.get? s.ctxs b.ctx with
    | some f, some c => some { gid := gid, g := g, fid := fid, f := f, b := b, cid := b.ctx, c := c }
    | _, _ => none
  | _, _ => none

/-- The lanes of a runnable fibre that an access serves: its lane, or every lane for a scalar's. -/
def servedLanes (a : Acc) (f : Fibre) : W64 :=
  if f.st != .runnable || !inSet f.pred a.lane then 0
  else match a.dst with
    | some d => (match d.reg with | .scalar _ => f.pred | .hs _ _ => f.pred | _ => oneLane a.lane)
    | none => oneLane a.lane

/-- The fibre of a group that an access serves, with the lanes. -/
def servedFibre (s : State) (a : Acc) : Option (Nat × W64) :=
  match Tbl.get? s.groups a.gid with
  | none => none
  | some g => g.fibres.findSome? fun e => let l := servedLanes a e.2; if l = 0 then none else some (e.1, l)

/-- Two accesses are of one issue of an instruction. -/
def Acc.sameIssue (a b : Acc) : Bool := a.gid == b.gid && a.seq == b.seq

/-- The lanes of the lost reads of one issue take uncorrectable-error with array id 15, all in one parked fibre, where they stand, or at the micro-op that
read (R331); TRAPPC names the read (R381, R383). (DEDUCED, log 89) -/
def loseIssue (s : State) (a : Acc) (same : List Acc) : State :=
  match servedFibre s a with
  | none => s
  | some (fid, _) =>
    match fibreHere s a.gid fid with
    | none => s
    | some h =>
      let l := (a :: same).foldl (fun l x => l ||| servedLanes x h.f) 0
      match a.micro with
      | some m => takeTrap s h l a.pc a.pc 1 0x025 15 0 (some m)
      | none => takeTrap s h l h.f.pc a.pc 1 0x025 15 0 h.f.micro

/-- The reads of a list are lost, issue by issue. -/
def loseReads (fuel : Nat) (l : List Acc) (s : State) : State :=
  match fuel, l with
  | n + 1, a :: r => loseReads n (r.filter fun x => !x.sameIssue a) (loseIssue s a (r.filter fun x => x.sameIssue a))
  | _, _ => s

/-- Every access of a list is lost. -/
def loseAll (l : List Acc) (s : State) : State := loseReads l.length (l.filter fun a => a.reads) (l.foldl logLost s)

/-- A copy request reads through a space. -/
def copyReadsBy (p : Space → Bool) (q : CopyReq) : Bool := q.dir != 1 && q.pages.any fun e => p e.space

/-- A copy request's read through a space is lost: it is logged, and the request retires failed (R383, R394). -/
def failCopy (p : Space → Bool) (core : Nat) (q : CopyReq) (s : State) : State :=
  let at_ := match q.pages.find? fun e => p e.space with | some e => e.base | none => 0
  copyFail (dropCopy (logLostAt s q.ctx at_) core q) q.gid q.ctx q.pc 8 (tdBase q.td)

/-- Every copy request of a core that reads through a space retires failed (R383). -/
def failCopies (p : Space → Bool) (core : Nat) (l : List CopyReq) (s : State) : State :=
  match l with
  | [] => s
  | q :: r => failCopies p core r (if copyReadsBy p q then failCopy p core q s else s)

/-- The same on every core of a list. -/
def failCores (p : Space → Bool) (l : List Nat) (s : State) : State :=
  match l with
  | [] => s
  | c :: r => failCores p r (failCopies p c (coreOf s c).kicks s)

/-! Ports (R393). -/

/-- A port's link is up. -/
def portUp (s : State) (port : Nat) : Bool := port < 2 && !s.sys.down.contains port

/-- What of the list stays in flight as a port goes down, and what is lost: everything to host memory with no other port; else writes, where they were
on that port (free, DESIGN CHOICE, log 2), for reads are reissued. -/
def splitLost (all : Bool) (ctr : Nat) (l : List Pend) : List Pend × List Acc :=
  match l with
  | [] => ([], [])
  | .acc a :: r =>
    let x := splitLost all (ctr + 1) r
    if a.space == .host && a.val.isNone && (all || (!a.reads && Config.freeNat ctr % 2 == 1)) then (x.1, a :: x.2) else (.acc a :: x.1, x.2)
  | p :: r => let x := splitLost all (ctr + 1) r; (p :: x.1, x.2)

/-- A port's link goes down: its semaphores are released, and transactions in flight are lost (R387, R393). -/
def linkDown (s : State) (port : Nat) : State :=
  let x := splitLost (!portUp s (1 - port)) s.freeCtr s.mem.pend
  let s := { s with freeCtr := s.freeCtr + s.mem.pend.length, mem := { s.mem with pend := x.1 },
                    sys := { s.sys with down := s.sys.down ++ [port],
                                        boxes := s.sys.boxes.map fun e => (e.1, if e.2.held == some port then { e.2 with held := none } else e.2) } }
  let s := loseAll x.2 s
  if s.sys.down.length < 2 then s else failCores (fun p => p == .host) (s.cores.map (·.1)) s

/-- LINK_DOWN (R393). -/
def execLinkDown (port : Nat) (s : State) : Out := .next (if portUp s port then linkDown s port else s)

/-- LINK_UP (R393). -/
def execLinkUp (port : Nat) (s : State) : Out :=
  .next { s with sys := { s.sys with down := s.sys.down.filter (· != port) } }

/-- Every resident block is saved, and every pass leaves its cores; none where something has to drain. -/
def saveEverything (s : State) : Option State :=
  if inFlight s (fun a => a.writes && a.isPeer) then none
  else (saveBlocks s ((s.blocks.filter fun e => !e.2.saved).map (·.1))).map fun s =>
    let s := saveFrontiers s (s.launches.map (·.1))
    { s with passes := s.passes.map fun e => (e.1, savePass s none e.1 e.2) }

/-- A hot reset: every SPDM session ends, every context is saved and held, and allotted worlds are sealed (R393). -/
def hotReset (s : State) : State :=
  match saveEverything s with
  | none => s
  | some s =>
    let s := { s with ctxs := s.ctxs.map (fun e => (e.1, { e.2 with held := true })),
                      sys := { s.sys with spdm := s.sys.spdm.map (fun e => (e.1, { e.2 with opening := [], sessions := [] })),
                                          worlds := s.sys.worlds.map fun e => (e.1, { e.2 with sealed := true }) } }
    checkLadders s

/-- HOT_RESET (R393). -/
def execHotReset (port : Nat) (s : State) : Out := .next (if portUp s port then hotReset s else s)

/-! Accesses from outside (R19, R159, R266, R277, R394). -/

/-- A frame may be reached from outside by a world. -/
def busOk (s : State) (world addr : Nat) : Bool :=
  addr / 32768 < frameCount s && worldOk world (potEntry s (addr / 32768)).world && (potEntry s (addr / 32768)).state == 1

/-- The VPA, in its VF, of a physical address. -/
def vpaOf (s : State) (vf pa : Nat) : Nat :=
  if vf = 0 then pa
  else match (vfFrames s vf).find? fun e => e.2 == (1, pa / 32768) with
    | some e => e.1 * 32768 + pa % 32768
    | none => 0

/-- A write from outside, a frame at a time: through the shared cache, with its dirty bits; refused frames keep their bytes. -/
def busWrite (s : State) (world addr : Nat) (bs : List Byte) (fuel : Nat) : State :=
  match fuel with
  | 0 => s
  | k + 1 =>
    let n := min bs.length (32768 - addr % 32768)
    if n = 0 then s
    else
      let p := potEntry s (addr / 32768)
      let s :=
        if busOk s world addr && !outputFrame s addr && !lineRefuses s.mem world addr n then writeLoc s p.vf addr (vpaOf s p.vf addr) p.world (bs.take n) else s
      busWrite s world (addr + n) (bs.drop n) k

/-- What an access from outside does. A read only ages its frame and uses its lines. -/
def busAccess (s : State) (world : Nat) (q : BusAccess) : State :=
  match q with
  | .read a n =>
    if busOk s world a && n != 0 then touchLoc s a (min n (32768 - a % 32768)) (potEntry s (a / 32768)).world false else s
  | .write a bs => busWrite s world a bs (bs.length / 32768 + 2)
  | .own a bs => { s with mem := writePhys s.mem .host a bs }

/-- HOST_ACCESS: as world 0, for no other leaves the chip in plaintext (R18, R159, R266). (DESIGN CHOICE, log 99) -/
def execHostAccess (q : BusAccess) (s : State) : Out :=
  .next (match q with
    | .own _ _ => busAccess s 0 q
    | _ => if portUp s 0 || portUp s 1 then busAccess s 0 q else s)

/-- PEER_REQUEST: an access of a bound peer arrives, with the world of its context (R268, R394). -/
def execPeerRequest (peer world : Nat) (q : BusAccess) (s : State) : Out :=
  .next (if !(s.sys.links.any fun e => e.2 == peer) then s
    else match q with
      | .own _ _ => s
      | _ => busAccess s world q)

/-! The fabric (R351, R376, R394). -/

/-- Put entry `k` of the fabric, or take it out. -/
def putFab (s : State) (k : Nat) (a : Option Acc) : State :=
  { s with mem := { s.mem with fab := match a with | some a => modifyAt s.mem.fab k fun _ => a | none => removeAt s.mem.fab k } }

/-- The outstanding-acknowledgement counter falls (R351). -/
def ackDown (s : State) (cid : Nat) : State := modCounts s cid fun k => { k with ack := if k.ack = 0 then 0 else k.ack - 1 }

/-- An acknowledgement arrives (R351, R376); an atomic's old value may still be due. -/
def execFabricWriteAck (k : Nat) (s : State) : Out :=
  .next (match s.mem.fab[k]? with
    | none => s
    | some a =>
      if !a.writes then s
      else payDues (copyAck (ackDown (putFab s k (if a.dst.isSome then some { a with op := .load } else none)) a.ctx) a) a.ctx)

/-- A response arrives with its data, at most 8 bytes (R394). (DESIGN CHOICE, log 9) -/
def execFabricReadResponse (k : Nat) (v : W64) (s : State) : Out :=
  .next (match s.mem.fab[k]? with
    | none => s
    | some a =>
      if !a.reads || (a.writes && a.dst.isNone) then s
      else returnData (putFab s k (if a.writes then some { a with dst := none } else none)) a.gid a.dst (natLE a.n v.toNat))

/-- A place is on a peer. -/
def Space.isPeer (p : Space) : Bool := match p with | .peer _ => true | _ => false

/-- The copy requests that read from a peer, core by core. -/
def peerCopies (s : State) : List (Nat × CopyReq) :=
  s.cores.flatMap fun e => (e.2.kicks.filter (copyReadsBy Space.isPeer)).map fun q => (e.1, q)

/-- 10 ms in ns, after which the fabric gives a transaction up (R394). -/
def fabricNs : Nat := 10000000

/-- A write to a peer has no acknowledgement: the counter of its context falls, what waited for it goes on, and the context is stopped (R394). -/
def loseWrite (s : State) (k : Nat) (a : Acc) : State :=
  stopContext (payDues (copyAck (ackDown (logLost (putFab s k none) a) a.ctx) a) a.ctx) a.ctx (causeOf 1 0x025 15)

/-- The reads of an issue on the fabric have no response: all of them are lost together (R381, R394). -/
def loseFabric (s : State) (a : Acc) : State :=
  let mine := fun (x : Acc) => x.reads && !x.writes && x.sameIssue a
  let l := s.mem.fab.filter mine
  loseAll l { s with mem := { s.mem with fab := s.mem.fab.filter fun x => !mine x } }

/-- 10 ms have passed without a response or an acknowledgement, for an entry of the fabric, the reads of one issue together, or, after those, for a copy
request that reads from a peer (R383, R394). -/
def execFabricTimeout (k : Nat) (s : State) : Out :=
  .next (match s.mem.fab[k]? with
    | some a =>
      if s.time < a.left + fabricNs then s
      else if a.writes then loseWrite s k a
      else if s.mem.fab.any (fun x => x.reads && !x.writes && x.sameIssue a && s.time < x.left + fabricNs) then s
      else loseFabric s a
    | none =>
      match (peerCopies s)[k - s.mem.fab.length]? with
      | some (core, q) => if s.time < q.since + fabricNs then s else failCopy Space.isPeer core q s
      | none => s)

/-! Reset and the configuration record (R19, R391). -/

/-- Device reset: reduced service. Host memory, the links, the schedule and the model's own counters are not the device's to reset. -/
def execDeviceReset (s : State) : Out :=
  .next { State.reset with
    mem := { Mem.reset with host := s.mem.host }, agenda := s.agenda, steps := s.steps, freeCtr := s.freeCtr,
    sys := { Sys.reset with down := s.sys.down } }

/-- The record in boot flash (R391). -/
def flashRecord : List Byte := (List.range 512).map Config.flashByte

/-- A record keeps its magic and its reserved fields (R391). -/
def recordFits (bs : List Byte) : Bool :=
  leNat ((bs.drop 4).take 4) == 0x52434C5A && leNat (bs.take 4) == 0 && leNat ((bs.drop 8).take 20) == 0 && leNat ((bs.drop 35).take 1) == 0
    && leNat ((bs.drop 40).take 24) == 0 && leNat ((bs.drop 32).take 2) / 2 == 0

/-- A core whose units a context owns has no owner. -/
def disown (k : Core) (cid : Nat) : Core :=
  match k.owner with
  | some o => if o.1 == cid then { k with owner := none } else k
  | none => k

/-- A context's jobs are cancelled and its invocations end (R14). -/
def endJobs (s : State) (cid : Nat) : State :=
  let s := cancelJob (settle s fun a => a.ctx == cid) cid
  haltBlocks s (ctxBlocks s cid)

/-- A context ends: its jobs are cancelled, and it starts nothing more (R14, R388). -/
def endContext (s : State) (cid : Nat) : State := modCtx (endJobs s cid) cid fun c => { c with stopped := true }

/-- Nothing of a context is under way: no block, launch, retirement or access is left. -/
def ctxOver (s : State) (cid : Nat) : Bool :=
  (match Tbl.get? s.ctxs cid with | some c => c.queues.dues.isEmpty | none => true) && (ctxBlocks s cid).isEmpty && !(s.launches.any fun e => e.2.ctx == cid) && !inFlight s fun a => a.ctx == cid

/-- The context of an entry in flight. -/
def Pend.ctx (s : State) (p : Pend) : Option Nat :=
  match p with
  | .acc a => some a.ctx
  | .tex x => some x.ctx
  | .signal _ c _ _ => some c
  | .event _ c _ => some c
  | .barrier g _ _ _ => (Tbl.get? s.blocks (bsnOf g)).map (·.ctx)

/-- Everything that a context holds is free, and its signals still held are dropped (R153; DESIGN CHOICE, log 152): blocks, launches, records, slots, present queues, translations, what engines hold for it (R388). -/
def freeContext (s : State) (cid : Nat) : State :=
  let s := { s with mem := { s.mem with pend := s.mem.pend.filter fun p => p.ctx s != some cid } }
  let s := endBlocks s (ctxBlocks s cid)
  let mine := slotsOf s cid
  let s := dropTlb { s with recs := s.recs.filter (fun e => !mine.contains e.2.slot), launches := s.launches.filter (fun e => e.2.ctx != cid),
                            passes := s.passes.filter (fun e => e.2.ctx != cid),
                            slots := s.slots.filter fun e => e.2.st == 0 || e.2.ctx != cid } fun e => e.ctx == cid
  let s := { s with cores := s.cores.map fun (e : Nat × Core) => (e.1, disown e.2 cid) }
  let s := { s with pix := { s.pix with pqs := s.pix.pqs.filter fun e => e.2.a.ctx != cid },
                    sys := { s.sys with colls := s.sys.colls.filter fun c => c.ctx != cid } }
  checkLadders { s with ctxs := Tbl.erase s.ctxs cid }

/-- A context that has ended is free (R14, R388); none while accesses, copies or operations that had begun are not over, or a launch whose commit has
begun has not retired. -/
def freeEnded (s : State) (cid : Nat) : Option State := if ctxOver s cid then some (freeContext s cid) else none

/-- Every context of a list that has ended is free; none while something of one of them is under way. -/
def freeAll (l : List Nat) (s : State) : Option State :=
  match l with
  | [] => some s
  | c :: r => (freeEnded s c).bind (freeAll r)

/-- Milsal has found that the configuration record fails, and says so once (R19). -/
def tellUnverified (s : State) : State := if s.sys.told.contains (0, .unverified) then s else tellHost s 0 .unverified

/-- Milsal verifies the configuration record: the contexts of reduced service are ended, their job counters kept as they stand then, and with none left full
service begins; or reduced service stays (R19, R391). -/
def execConfigRecordVerify (s : State) : Out :=
  .next (if s.full then s
    else if !recordFits flashRecord || !Config.signedBy (flashRecord.drop 128) (flashRecord.take 128) then tellUnverified s
    else
      let l := s.ctxs.map (·.1)
      let s := l.foldl endContext s
      match freeAll l s with
      | none => s
      | some t =>
        { t with full := true, sys := { t.sys with cfg := some flashRecord, ended := s.ctxs.map fun e => (e.1, e.2.counts.job) } })

end Sys2Proof.Machine
end

