-- ==== Sys2Proof/Machine/Mailbox.lean ====
section
/-! DEFINITION. The mailboxes and the SPDM responders (R386 to R392). -/

namespace Sys2Proof.Machine

/-! Time. -/

/-- A patch activation ends once its time has come (R390). -/
def patchDone (s : State) : State :=
  match s.sys.activating with
  | none => s
  | some (fn, t) =>
    if s.time < t then s
    else finishBox { s with sys := { s.sys with activating := none, patch := s.sys.staged, staged := none } } fn 0 []

/-- Nanoseconds pass (R154), up to a display boundary that is due (R284). -/
def passTime (s : State) (ns : Nat) : State := patchDone { s with time := advanceTime s ns }

/-! The semaphore and the arguments (R387). -/

/-- A function is there: the PF, or a VF that is enabled (R386). -/
def fnOk (s : State) (fn : Nat) : Bool := fn == 0 || (fn ≤ 16 && (vfOf s fn).enabled)

/-- A read of MBSEM acquires a free semaphore; GOT of the value read says whether it did. -/
def execMbsemRead (fn port : Nat) (s : State) : Out :=
  .next (if !fnOk s fn || !portUp s port then s
    else if (boxOf s fn).held.isNone then modBox s fn fun b => { b with held := some port, got := true }
    else modBox s fn fun b => { b with got := false })

/-- REL releases the semaphore that the port holds. -/
def execMbsemRel (fn port : Nat) (s : State) : Out :=
  .next (if fnOk s fn && portUp s port && (boxOf s fn).held == some port then modBox s fn fun b => { b with held := none } else s)

/-- VIOL is cleared by writing 1. -/
def execMbstatViolClear (fn : Nat) (s : State) : Out :=
  .next (if fnOk s fn then modBox s fn fun b => { b with viol := false } else s)

/-- A write of 64 bits to a register without a behaviour of its own: MBARG takes it from the holding port only. -/
def execRegisterWrite (fn port off : Nat) (v : W64) (s : State) : Out :=
  .next (if !fnOk s fn || !portUp s port || off < 0x40 || 0xF8 < off then s
    else if (boxOf s fn).held == some port then modBox s fn fun b => { b with arg := SMap.setList b.arg (off - 0x40) (natLE 8 v.toNat) }
    else modBox s fn fun b => { b with viol := true })

/-! Commands (R387 to R390). -/

/-- What a command comes to. -/
inductive CmdRes where
  /-- result 0 -/
  | done (s : State) (answer : List W64)
  /-- a result that changes no state (R389) -/
  | refuse (res : Nat)
  /-- the same, with what it returns -/
  | tell (res : Nat) (answer : List W64)
  /-- a result with a change of state (R389: WORLD_UNSEAL) -/
  | failed (s : State) (res : Nat)
  /-- BUSY until something ends it -/
  | pend (s : State)
  /-- it cannot take effect yet: the command is taken up later -/
  | wait
  /-- the same, with what has begun of it -/
  | again (s : State)

/-- A command runs (R387 to R390): the semaphore, a patch activation, the issuer, then its effect. (DEDUCED, log 92) (DEDUCED, log 93) -/
def command (h : MbHdr) (status issuer : Bool) (k : State → CmdRes) (s : State) : Out :=
  .next (if !fnOk s h.fn || !portUp s h.port then s
    else
      let b := boxOf s h.fn
      if b.held != some h.port || b.busy then modBox s h.fn fun b => { b with viol := true }
      else
        let s1 := modBox s h.fn fun b => { b with busy := true, tag := h.tag }
        if s.sys.activating.isSome && !status then finishBox s1 h.fn 5 []
        else if !issuer then finishBox s1 h.fn 2 []
        else
          match k s1 with
          | .done s a => finishBox s h.fn 0 a
          | .refuse r => finishBox s1 h.fn r []
          | .tell r a => finishBox s1 h.fn r a
          | .failed s r => finishBox s h.fn r []
          | .pend s => s
          | .wait => s
          | .again t => modBox t h.fn fun _ => b)

/-- A result for the first of some refusals that holds, else the effect. -/
def refuseOr (l : List (Bool × Nat)) (k : CmdRes) : CmdRes :=
  match l with
  | [] => k
  | (b, r) :: t => if b then .refuse r else refuseOr t k

/-- A word of an answer. -/
def ans (n : Nat) : W64 := BitVec.ofNat 64 n
/-- A context of the issuing function, or any for the PF. -/
def ownCtx (s : State) (fn cid : Nat) : Bool :=
  fn == 0 || match Tbl.get? s.ctxs cid with | some c => c.vf == fn | none => true
/-- An OID of a context of the issuing function, or any for the PF. -/
def ownOid (s : State) (fn oid : Nat) : Bool := fn == 0 || s.ctxs.any fun e => e.2.vf == fn && e.2.oid == oid

/-- STATUS (R388). -/
def execStatus (h : MbHdr) (s : State) : Out :=
  command h true true (fun s =>
    .done s [ans ((if s.full then 1 else 0) + (if s.sys.cfg.isSome then 2 else 0) + (match s.sys.patch with | some p => p.1 | none => 0) % 256 * 256)]) s

/-- Any other code (R388). -/
def execUnknownCommand (h : MbHdr) (_code : Byte) (s : State) : Out := command h false true (fun _ => .refuse 9) s

/-! SPDM (R390, R392). -/

/-- A function's responder. -/
def spdmOf (s : State) (fn : Nat) : Spdm := (Tbl.get? s.sys.spdm fn).getD Spdm.reset
/-- Change a responder. -/
def modSpdm (s : State) (fn : Nat) (f : Spdm → Spdm) : State :=
  { s with sys := { s.sys with spdm := Tbl.set s.sys.spdm fn (f (spdmOf s fn)) } }

/-- A response with its parameters and words. -/
def spdmResp (s : State) (fn code p1 p2 : Nat) (body : List W64) : State :=
  modSpdm s fn fun r => { r with resp := some { code := BitVec.ofNat 8 code, param1 := BitVec.ofNat 8 p1, param2 := BitVec.ofNat 8 p2, body := body } }

/-- ERROR with a code (PRESUMED, log 23). -/
def spdmErr (s : State) (fn code : Nat) : State := spdmResp s fn 0x7F code 0 []

/-- A request of a function that is there. While a patch is activated some are not ready: RDTExponent 14, the request, RDTM 2 (R390). -/
def spdmRun (fn : Nat) (req : SpdmReq) (busy : Bool) (k : State → Spdm → State) (s : State) : Out :=
  .next (if !fnOk s fn then s
    else if busy && s.sys.activating.isSome then spdmResp s fn 0x7F 0x42 0 [ans (14 + req.code.toNat * 256 + 2 * 2 ^ 24)]
    else k s (spdmOf s fn))

/-- A free word in a response: a signature, a random value, a certificate (DESIGN CHOICE, log 2). -/
def withFree (s : State) (k : State → W64 → State) : State := let f := freshNat s; k f.2 (ans f.1)

/-- A request needs the connection at a stage. -/
def atStage (s : State) (fn : Nat) (r : Spdm) (stage : Nat) (k : State) : State := if r.conn < stage then spdmErr s fn 4 else k

/-- GET_VERSION: version 1.2; the connection starts afresh. -/
def execGetVersion (fn : Nat) (req : SpdmReq) (s : State) : Out :=
  spdmRun fn req false (fun s _ =>
    spdmResp (modSpdm s fn fun _ => { Spdm.reset with conn := 1 }) fn 0x04 0 0 [0x1200]) s

/-- The capability flags: certificates, challenges, measurements, encryption, authentication, key exchange, heartbeats and key updates; no mutual
authentication, no pre-shared keys; the other bits are free (R392; PRESUMED, log 23, the places of DSP0274). -/
def capFlags (w : W64) : W64 := (w &&& 0xFFFF9021) ||| (if w.getLsbD 3 then 0x8 else 0x10) ||| 0x62C6

/-- GET_CAPABILITIES. -/
def execGetCapabilities (fn : Nat) (req : SpdmReq) (s : State) : Out :=
  spdmRun fn req false (fun s r => atStage s fn r 1 (withFree s fun s w =>
    spdmResp (modSpdm s fn fun r => { r with conn := max r.conn 2 }) fn 0x61 0 0 [capFlags w])) s

/-- The responder's one set of algorithms: measurement hash TPM_ALG_SHA_384, signatures TPM_ALG_RSASSA_3072, hash TPM_ALG_SHA_384, key exchange
secp384r1, AEAD AES-256-GCM, each as its selection bit (R392; PRESUMED, log 23, the places of DSP0274). -/
def algorithms : List W64 := [0x4, 0x4, 0x2, 0x10, 0x2]

/-- NEGOTIATE_ALGORITHMS: the responder's one set. -/
def execNegotiateAlgorithms (fn : Nat) (req : SpdmReq) (s : State) : Out :=
  spdmRun fn req false (fun s r => atStage s fn r 2
    (spdmResp (modSpdm s fn fun r => { r with conn := 3 }) fn 0x63 0 0 algorithms)) s

/-- GET_DIGESTS: slot 0. -/
def execGetDigests (fn : Nat) (req : SpdmReq) (s : State) : Out :=
  spdmRun fn req false (fun s r => atStage s fn r 3 (withFree s fun s w => spdmResp s fn 0x01 0 1 [w])) s

/-- GET_CERTIFICATE: slot 0 only. -/
def execGetCertificate (fn : Nat) (req : SpdmReq) (s : State) : Out :=
  spdmRun fn req false (fun s r => atStage s fn r 3
    (if req.param1 != 0 then spdmErr s fn 1 else withFree s fun s w => spdmResp s fn 0x02 0 0 [w])) s

/-- CHALLENGE. -/
def execChallenge (fn : Nat) (req : SpdmReq) (s : State) : Out :=
  spdmRun fn req true (fun s r => atStage s fn r 3
    (if req.param1 != 0 then spdmErr s fn 1 else withFree s fun s w => spdmResp s fn 0x03 0 1 [w])) s

/-- Whether the PF's enables are covered, as numbers. -/
def enableList (s : State) : List Nat := (List.range 16).map fun i => if (vfOf s (i + 1)).enabled then 1 else 0

/-- The units of a VF. -/
def unitsOfVf (s : State) (vf : Nat) : List Nat := (List.range 16).filter fun u => unitVf s (256 * u) == some vf

/-- What a measurement covers, as numbers (R392). -/
def measured (s : State) (fn index : Nat) : List Nat :=
  let v := vfOf s fn
  match index with
  | 2 => (match s.sys.patch with | some p => p.1 :: p.2.map (·.toNat) | none => [])
  | 3 => (s.sys.cfg.getD []).take 128 |>.map (·.toNat)
  | 4 => [v.qs, v.qd] ++ v.cores ++ [v.sliceNs] ++ unitsOfVf s fn ++ (if fn = 0 then enableList s else [])
  | 5 => (unitsOfVf s fn).flatMap fun u => (SMap.getList s.wcs (256 * u) 256).map (·.toNat)
  | 6 => (s.sys.worlds.filter fun e => e.2.vf == fn).flatMap fun e => [e.1, if e.2.sealed then 1 else 0]
  | _ => []

/-- A digest's six words; zeros for measurement 2 with no patch. -/
def measurement (s : State) (fn index : Nat) : List W64 :=
  let d := if index = 2 && s.sys.patch.isNone then 0 else Config.digest index (measured s fn index)
  (List.range 6).map fun i => ans (d / 2 ^ (64 * i))

/-- GET_MEASUREMENTS: index 0 the number, 255 all, 1 to 6 one. -/
def execGetMeasurements (fn : Nat) (req : SpdmReq) (s : State) : Out :=
  spdmRun fn req true (fun s r => atStage s fn r 3
    (let i := req.param2.toNat
     if i = 0 then spdmResp s fn 0x60 6 0 []
     else if i = 255 then spdmResp s fn 0x60 0 0 ((List.range 6).flatMap fun j => measurement s fn (j + 1))
     else if i ≤ 6 then spdmResp s fn 0x60 0 0 (measurement s fn i)
     else spdmErr s fn 1)) s

/-- KEY_EXCHANGE: a session in its handshake, its number free. -/
def execKeyExchange (fn : Nat) (req : SpdmReq) (s : State) : Out :=
  spdmRun fn req true (fun s r => atStage s fn r 3
    (let f := freshNat s
     let id := leNat (req.data.take 2) + f.1 % 2 ^ 16 * 2 ^ 16
     spdmResp (modSpdm f.2 fn fun r => { r with opening := r.opening ++ [id] }) fn 0x64 0 0 [ans id])) s

/-- A request inside a session that is established. -/
def inSession (s : State) (fn : Nat) (req : SpdmReq) (r : Spdm) (k : Nat → State) : State :=
  match req.session with
  | some n => if r.sessions.contains n then k n else spdmErr s fn 2
  | none => spdmErr s fn 0x0B

/-- FINISH: the session is established. -/
def execFinish (fn : Nat) (req : SpdmReq) (s : State) : Out :=
  spdmRun fn req false (fun s r =>
    match req.session with
    | some n =>
      if r.opening.contains n then
        spdmResp (modSpdm s fn fun r => { r with opening := r.opening.filter (· != n), sessions := r.sessions ++ [n] }) fn 0x65 0 0 []
      else spdmErr s fn 2
    | none => spdmErr s fn 0x0B) s

/-- HEARTBEAT. -/
def execHeartbeat (fn : Nat) (req : SpdmReq) (s : State) : Out :=
  spdmRun fn req false (fun s r => inSession s fn req r fun _ => spdmResp s fn 0x68 0 0 []) s

/-- KEY_UPDATE: the session goes on under new keys. -/
def execKeyUpdate (fn : Nat) (req : SpdmReq) (s : State) : Out :=
  spdmRun fn req false (fun s r => inSession s fn req r fun _ => spdmResp s fn 0x69 req.param1.toNat req.param2.toNat []) s

/-- END_SESSION. -/
def execEndSession (fn : Nat) (req : SpdmReq) (s : State) : Out :=
  spdmRun fn req false (fun s r => inSession s fn req r fun n =>
    spdmResp (modSpdm s fn fun r => { r with sessions := r.sessions.filter (· != n) }) fn 0x6C 0 0 []) s

/-- Any other request: ERROR UnsupportedRequest (R392). -/
def execUnsupportedRequest (fn : Nat) (req : SpdmReq) (s : State) : Out :=
  spdmRun fn req false (fun s _ => spdmResp s fn 0x7F 0x07 req.code.toNat []) s

end Sys2Proof.Machine
end

