-- ==== Sys2Proof/Machine/CmdVf.lean ====
section
/-! DEFINITION. Commands on VFs, slots, dependence counters, contexts and pre-emption (R17, R219, R220, R226, R227, R232, R237, R240 to R243, R388). -/

namespace Sys2Proof.Machine

/-! VFs (R227, R237, R240, R241, R243, R388). -/

/-- Enable VFs 1 to n. (DEDUCED, log 96) -/
def enableVfs (s : State) (n : Nat) : State :=
  match n with
  | 0 => s
  | n + 1 => enableVfs (setVf s (n + 1) fun v => { v with enabled := true }) n

/-- A VF whose core set meets another's, with no slice and blocks left on the shared cores, is cleared from them by the ladder, so that a slice can start
(R240; DESIGN CHOICE, log 141). -/
def clearSharer (s : State) (vf : Nat) : State :=
  if vf != 0 && (vfOf s vf).enabled && (vfOf s vf).sliceEnd.isNone && ((sharers s vf).any fun w => vfResident s vf (vfOf s w).cores)
      && !(s.sys.ladders.any fun l => l.tgt == .vf vf) then
    startLadder s (.vf vf) none .none
  else s

/-- Core sets have changed: VFs that share cores are cleared, and the slices that may start do. -/
def shareCores (s : State) (vf : Nat) : State := startSlices ((s.vfs.map (·.1)).foldl clearSharer s) vf

/-- VF_ENABLE. -/
def execVfEnable (h : MbHdr) (n : Nat) (s : State) : Out :=
  command h false (h.fn == 0) (fun s =>
    refuseOr [(!s.full, 7), (n < 1 || 16 < n, 1)] (.done (shareCores (enableVfs s n) 0) [])) s

/-- The arguments of VF_QUOTA are in range. -/
def quotaFits (q : VfQuotaArgs) : Bool :=
  1 ≤ q.vf && q.vf ≤ 16 && q.qs ≤ 1024 && q.qd ≤ 4096 && noRepeats q.cores && q.cores.all (· < 48)
    && 100 ≤ q.sliceUs && q.sliceUs ≤ 1000000 && 1 ≤ q.drainUs && q.drainUs ≤ 10000 && 1000 ≤ q.coopClk && q.coopClk ≤ 2 ^ 24
    && 10 ≤ q.preemptUs && q.preemptUs ≤ 10000

/-- The cores from which a context's logical cores move under its VF's set. -/
def movingCores (s : State) (c : Ctx) : List Nat :=
  let m := newMap (vfOf s c.vf).cores c.cores [] 0
  ((List.range c.cores.length).filter fun l => nth c.cores l 0 != nth m l 0).map fun l => nth c.cores l 0

/-- The ladder clears the cores that contexts leave, and their logical cores are mapped anew (R243). -/
def resizeCtxs (l : List Nat) (s : State) : State :=
  match l with
  | [] => s
  | cid :: r =>
    match Tbl.get? s.ctxs cid with
    | none => resizeCtxs r s
    | some c =>
      let m := movingCores s c
      resizeCtxs r (if m.isEmpty then s else startLadder s (.ctx cid) (some m) .resize)

/-- The contexts of a VF. -/
def vfCtxs (s : State) (vf : Nat) : List Nat := (s.ctxs.filter fun e => e.2.vf == vf).map (·.1)

/-- VF_QUOTA. -/
def execVfQuota (h : MbHdr) (q : VfQuotaArgs) (s : State) : Out :=
  command h false (h.fn == 0) (fun s =>
    refuseOr [(!quotaFits q, 1)]
      (let s := setVf s q.vf fun v =>
         { v with qs := q.qs, qd := q.qd, cores := q.cores, sliceNs := 1000 * q.sliceUs, drainUs := q.drainUs, coopClk := q.coopClk,
                  preemptUs := q.preemptUs }
       .done (shareCores (resizeCtxs (vfCtxs s q.vf) s) q.vf) [])) s

/-! Slots (R146, R219, R226, R227). -/

/-- Slots that a VF holds. -/
def slotsHeldBy (s : State) (vf : Nat) : Nat := (s.slots.filter fun e => e.2.st != 0 && e.2.vf == vf).length

/-- A slot of the issuing function, or any for the PF. -/
def ownSlot (s : State) (fn slot : Nat) : Bool := fn == 0 || (slotOf s slot).st == 0 || (slotOf s slot).vf == fn

/-- SLOT_ASSIGN: the slot runs, empty, its WAKE clear. -/
def execSlotAssign (h : MbHdr) (q : SlotArgs) (s : State) : Out :=
  command h false (ownCtx s h.fn q.ctx && ownSlot s h.fn q.slot) (fun s =>
    match Tbl.get? s.ctxs q.ctx with
    | none => .refuse 1
    | some c =>
      refuseOr [(1023 < q.slot || q.rbase.toNat % 4096 != 0 || q.log2n < 4 || 15 < q.log2n || 3 < q.pri, 1),
              ((slotOf s q.slot).st != 0, 3), (c.vf != 0 && (vfOf s c.vf).qs ≤ slotsHeldBy s c.vf, 4)]
        (.done (modSlot s q.slot fun _ =>
          { rbase := q.rbase, tail := 0, head := 0, log2n := q.log2n, pri := q.pri, vf := c.vf, ctx := q.ctx, err := 0, st := 1, wake := 0, last := none }) [])) s

/-- A wait record of a slot has begun. -/
def waitsOnWake (s : State) (slot : Nat) : Bool :=
  (recsOf s slot).any fun e => e.2.begun && (match e.2.body with | .wait _ => true | _ => false)

/-- The passes of a slot take their refused items again (R226). -/
def retakeItems (s : State) (slot : Nat) : State :=
  { s with passes := s.passes.map fun e =>
      (e.1, if (match Tbl.get? s.recs e.1 with | some r => r.slot == slot | none => false) then { e.2 with refused := false } else e.2) }

/-- SLOT_RESTART: a stopped slot resumes (R226). -/
def execSlotRestart (h : MbHdr) (slot : Nat) (s : State) : Out :=
  command h false (ownSlot s h.fn slot) (fun s =>
    refuseOr [(1023 < slot, 1), ((slotOf s slot).st != 3, 3)]
      (.done (checkWake (retakeItems (modSlot s slot fun q => { q with st := if waitsOnWake s slot then 2 else 1, err := 0 }) slot) slot) [])) s

/-- SLOT_FREE: a slot with no record under way is free; WAKE keeps its bits (R146). (DEDUCED, log 94) -/
def execSlotFree (h : MbHdr) (slot : Nat) (s : State) : Out :=
  command h false (ownSlot s h.fn slot) (fun s =>
    refuseOr [(1023 < slot, 1), (!(recsOf s slot).isEmpty, 3)]
      (.done (modSlot s slot fun q => { QSlot.reset with wake := q.wake }) [])) s

/-! Dependence counters (R220, R227). -/

/-- Counters of a VF. -/
def depcHeldBy (s : State) (vf : Nat) : Nat := (s.depcVf.filter fun e => e.2.toNat == vf + 1).length

/-- DEPC_ASSIGN. -/
def execDepcAssign (h : MbHdr) (ctr vf : Nat) (s : State) : Out :=
  command h false (h.fn == 0) (fun s =>
    refuseOr [(4095 < ctr || 16 < vf, 1), (SMap.get s.depcVf ctr != 0, 3), (vf != 0 && (vfOf s vf).qd ≤ depcHeldBy s vf, 4)]
      (.done { s with depcVf := SMap.set s.depcVf ctr (BitVec.ofNat 16 (vf + 1)) } [])) s

/-- DEPC_RESET: the counter is 0. -/
def execDepcReset (h : MbHdr) (ctr : Nat) (s : State) : Out :=
  command h false (h.fn == 0 || SMap.get s.depcVf ctr == 0 || (SMap.get s.depcVf ctr).toNat == h.fn + 1) (fun s =>
    refuseOr [(4095 < ctr, 1)] (.done { s with depc := SMap.set s.depc ctr 0 } [])) s

/-! Contexts (R17, R149, R185, R253, R279, R388, R393). -/

/-- The lowest free context id. -/
def freeCtx (s : State) : Nat := Tbl.freshFrom s.ctxs 0 4097

/-- A handler kernel is one that a group can run. -/
def handlerFits (k : Option HandlerKernel) : Bool :=
  match k with
  | none => true
  | some k =>
    [16, 32, 64].contains k.width && kernelOk k.vregs k.pool k.scratch k.shared k.tways k.tlines && k.vregs + k.pool ≤ 4096
      && k.scratch + 256 * ((k.shared + 255) / 256) + 256 * k.tlines ≤ 2 ^ 20 && k.entry.toNat % 2 == 0

/-- A core may be in a context's set. -/
def coreAllowed (s : State) (vf core : Nat) : Bool := core < 48 && (s.full || core < 4) && (vf == 0 || (vfOf s vf).cores.contains core)

/-- The arguments of CTX_CREATE are in range (R17, R185). -/
def ctxFits (s : State) (q : CtxArgs) : Bool :=
  fnOk s q.vf && q.world ≤ 62 && q.oid ≤ 4094 && q.u ≤ 64 && !q.cores.isEmpty && noRepeats q.cores && q.cores.all (coreAllowed s q.vf)
    && handlerFits q.handler

/-- A world is 0, or allotted to the VF. -/
def worldOfVf (s : State) (vf world : Nat) : Bool := world == 0 || match Tbl.get? s.sys.worlds world with | some w => w.vf == vf | none => false

/-- A new context. -/
def newCtx (q : CtxArgs) : Ctx :=
  { vf := q.vf, world := q.world, oid := q.oid, u := q.u, cores := q.cores, handler := q.handler, tbase := 0, saveArea := q.saveArea,
    frontierBytes := q.frontierBytes, tabs := { td := [], bind := [], bcnt := 0 },
    queues := { trapq := [], pending := [], evq := [], lost := 0 },
    counts := { grant := 0, stall := 0, job := 0, ack := 0, coll := 0, ctr := [], copyTl := [], dropc := 0, mgmt := 0 },
    lost := [], stopped := false, held := false, current := true }

/-- An OID is another VF's: a context of that VF has it; OID 0 names no owner (R282, R388; DEDUCED, log 156). -/
def oidElsewhere (s : State) (vf oid : Nat) : Bool := oid != 0 && s.ctxs.any fun e => e.2.vf != vf && e.2.oid == oid

/-- The physical frames of a new context's save area, by now resident, from which the translations of its VF go (R253). -/
def saveFrames (s : State) (c : Ctx) : List Nat :=
  ((List.range (c.saveEnd / 32768 + 1 - c.saveArea / 32768)).map fun i => frameEntry s c.vf (c.saveArea / 32768 + i)).filterMap fun e =>
    if e.1 = 1 then some e.2 else none

/-- A context is put under the lowest free id, its images zero (R185). -/
def putNewCtx (s : State) (q : CtxArgs) : State :=
  zeroImages { s with ctxs := Tbl.set s.ctxs (freeCtx s) (newCtx q), sys := { s.sys with ended := Tbl.erase s.sys.ended (freeCtx s) } } (freeCtx s) (newCtx q)

/-- CTX_CREATE; no context is made in a sealed world (R393). -/
def execCtxCreate (h : MbHdr) (q : CtxArgs) (s : State) : Out :=
  command h false ((h.fn == 0 || h.fn == q.vf) && (h.fn == 0 || !oidElsewhere s h.fn q.oid)) (fun s =>
    refuseOr [(!ctxFits s q, 1), (!worldOfVf s q.vf q.world, 1), (worldSealed s q.world, 3), (4095 < freeCtx s, 4)]
      (match clearFrames s (saveFrames s (newCtx q)) with
       | none => .wait
       | some t => .done (putNewCtx t q) [ans (freeCtx s)])) s

/-- A context that exists. -/
def withCtx (s : State) (cid : Nat) (k : Ctx → CmdRes) : CmdRes := match Tbl.get? s.ctxs cid with | none => .refuse 1 | some c => k c

/-- CTX_DESTROY (R14). -/
def execCtxDestroy (h : MbHdr) (ctx : Nat) (s : State) : Out :=
  command h false (ownCtx s h.fn ctx) (fun s => withCtx s ctx fun _ =>
    let s := endContext s ctx
    match freeEnded s ctx with
    | some s => .done s []
    | none => .again s) s

/-- CTX_SWITCH: the ladder on the outgoing context, or the incoming one becomes current (R242). (DEDUCED, log 82) -/
def execCtxSwitch (h : MbHdr) (ctx phase : Nat) (s : State) : Out :=
  command h false (ownCtx s h.fn ctx) (fun s => withCtx s ctx fun c =>
    refuseOr [(phase != 1 && phase != 2, 1), (phase == 1 && (!c.current || underLadder s ctx c fun _ => true), 3)]
      (if phase = 1 then .pend (startLadder s (.ctx ctx) none (.switch h.fn))
       else .done (modCtx s ctx fun c => { c with current := true }) [])) s

/-- What CTX_STAT answers: DROPC and the job counter, and for the PF every DROPD. The job counter of a context that the passage to full service
ended reports cancelled in its bits 63:62, as an object does (R19; DESIGN CHOICE, log 123). -/
def statAnswer (s : State) (fn : Nat) (dropc job : W64) : List W64 :=
  [dropc, job] ++ if fn = 0 then (List.range 20).map fun d => (dispSt s d).dropd else []

/-- CTX_STAT (R291, R350). -/
def execCtxStat (h : MbHdr) (ctx : Nat) (s : State) : Out :=
  command h false (ownCtx s h.fn ctx) (fun s =>
    match Tbl.get? s.ctxs ctx, Tbl.get? s.sys.ended ctx with
    | some c, _ => .done s (statAnswer s h.fn c.counts.dropc c.counts.job)
    | none, some n => if h.fn = 0 then .done s (statAnswer s h.fn 0 (n ||| BitVec.ofNat 64 (2 ^ 62))) else .refuse 1
    | none, none => .refuse 1) s

/-- CTX_ROOT: TBASE, and the context's translations go (R279). -/
def execCtxRoot (h : MbHdr) (ctx : Nat) (tbase : W64) (s : State) : Out :=
  command h false (ownCtx s h.fn ctx) (fun s => withCtx s ctx fun _ =>
    refuseOr [(tbase.toNat % 4096 != 0, 1)]
      (.done (modCtx (dropTlb (settle s fun a => a.ctx == ctx) fun e => e.ctx == ctx) ctx fun c => { c with tbase := tbase }) [])) s

/-- CTX_RESUME: a context of world 0 that a hot reset holds goes on (R393). -/
def execCtxResume (h : MbHdr) (ctx : Nat) (s : State) : Out :=
  command h false (ownCtx s h.fn ctx) (fun s => withCtx s ctx fun c =>
    refuseOr [(!c.held || c.world != 0, 3)] (.done (modCtx s ctx fun c => { c with held := false }) [])) s

/-- A target exists. -/
def targetThere (s : State) (t : Target) : Bool :=
  match t with
  | .ctx c => (Tbl.get? s.ctxs c).isSome
  | .vf n => 1 ≤ n && n ≤ 16

/-- PREEMPT: the ladder runs; a context switch of the VF in its first phase rolls back (R237, R242). -/
def execPreempt (h : MbHdr) (tgt : Target) (s : State) : Out :=
  command h false (h.fn == 0) (fun s =>
    let r := match tgt with | .vf n => rollback s n | .ctx _ => s
    refuseOr [(!targetThere s tgt, 1), (r.sys.ladders.any fun l => l.tgt == tgt, 3)]
      (.done (startLadder r tgt none .none) [])) s

/-! Events (R232). -/

/-- The words of an event record. -/
def EvRec.words (r : EvRec) : List W64 := [ans (r.cls % 16 + r.code % 256 * 256), r.src, ans r.time, r.pay]

/-- EVQ_READ: up to six records and LOST are consumed. -/
def execEvqRead (h : MbHdr) (ctx : Nat) (s : State) : Out :=
  command h false (ownCtx s h.fn ctx) (fun s => withCtx s ctx fun c =>
    .done (modCtx s ctx fun c => { c with queues := { c.queues with evq := c.queues.evq.drop 6, lost := 0 } })
      ((c.queues.evq.take 6).flatMap EvRec.words ++ [ans c.queues.lost.toNat])) s

end Sys2Proof.Machine
end

