-- ==== Sys2Proof/Machine/CmdMem.lean ====
section
/-! DEFINITION. Commands on translations, frames and dirty bitmaps (R275, R277 to R281). -/

namespace Sys2Proof.Machine

/-- A translation of a target whose page meets a range of addresses, or any where the range is empty (R280). -/
def invHits (s : State) (t : Target) (lo hi : Nat) (e : TlbEntry) : Bool :=
  (match Tbl.get? s.ctxs e.ctx with | some c => targetHas t e.ctx c | none => false)
    && (lo == hi || (e.pageNo * 2 ^ e.pbits < hi && lo < (e.pageNo + 1) * 2 ^ e.pbits))

/-- An access of a target. -/
def accOfTarget (s : State) (t : Target) (a : Acc) : Bool := match Tbl.get? s.ctxs a.ctx with | some c => targetHas t a.ctx c | none => false

/-- A context belongs to a target. -/
def ofTarget (s : State) (t : Target) (cid : Nat) : Bool := match Tbl.get? s.ctxs cid with | some c => targetHas t cid c | none => false

/-- What was translated before is performed, then the translations go; none where something is still due, any place of an operation of the target among
it (R280; DEDUCED, log 118). -/
def invalidate (s : State) (t : Target) (lo hi : Nat) : Option State :=
  let s := settle s (accOfTarget s t)
  if inFlight s (fun a => accOfTarget s t a && a.val.isNone) || engineUses s (invHits s t lo hi) (ofTarget s t) (fun _ => true) then none
  else some (dropTlb s (invHits s t lo hi))

/-- A result, or the command is taken up later. (DEDUCED, log 36) -/
def orWait (x : Option State) : CmdRes := match x with | some s => .done s [] | none => .wait

/-- TLB_INV (R280). -/
def execTlbInv (h : MbHdr) (tgt : Target) (lo hi : Nat) (s : State) : Out :=
  command h false (match tgt with | .ctx c => ownCtx s h.fn c | .vf n => h.fn == 0 || h.fn == n) (fun s =>
    refuseOr [((match tgt with | .ctx c => (Tbl.get? s.ctxs c).isNone | .vf n => 16 < n) || lo % 32768 != 0 || hi % 32768 != 0 || hi < lo, 1)]
      (orWait (invalidate s tgt lo hi))) s

/-! Frames (R275, R276, R279, R281). -/

/-- The frames of a VPA range. -/
def vpaFrames (vpa size : Nat) : List Nat := (List.range (size / 32768)).map fun i => vpa / 32768 + i
/-- A frame range is aligned and inside a VF's physical space. -/
def frameRange (vpa size : Nat) : Bool := vpa % 32768 == 0 && size % 32768 == 0 && size != 0 && vpa + size ≤ 2 ^ 52

/-- Zero a physical frame; its lines leave the cache. -/
def zeroFrame (s : State) (pfn : Nat) : State :=
  { s with mem := { dropLines s.mem pfn with loc := putRange s.mem.loc (pfn * 32768) 32768 [] } }

/-- Allot frames to a VF, each zeroed: refused where no physical frame is to be had, taken up later where a victim's accesses are awaited (R276). -/
def allotFrames (vf world : Nat) (l : List Nat) (s : State) : CmdRes :=
  match l with
  | [] => .done s []
  | f :: r =>
    match takeFrame s vf with
    | none => if victimThere s vf then .wait else .refuse 4
    | some (pfn, s) =>
      let s := setFrame (setPot (zeroFrame s pfn) pfn { vf := vf, state := 1, world := world }) vf f (1, pfn)
      let s := { s with tables := { s.tables with age := Tbl.set s.tables.age pfn (s.time / 1000000) } }
      allotFrames vf world r (setVf s vf fun v => { v with hf := v.hf + 1 })

/-- FRM_ALLOT. (DEDUCED, log 35) -/
def execFrmAllot (h : MbHdr) (vf vpa size world : Nat) (s : State) : Out :=
  command h false (h.fn == 0 || h.fn == vf) (fun s =>
    refuseOr [(vf < 1 || 16 < vf || !frameRange vpa size || 62 < world, 1), (!worldOfVf s vf world, 1),
            ((vpaFrames vpa size).any fun f => (frameEntry s vf f).1 != 0, 3), ((vfOf s vf).bf.toNat < (vfOf s vf).hf.toNat + size / 32768, 4)]
      (allotFrames vf world (vpaFrames vpa size) s)) s

/-- The memory controllers encrypt the pages of a world. -/
def protectedWorld (w : Nat) : Bool := 1 ≤ w && w ≤ 62

/-- Replace a physical frame's bytes, given from offset 0 on. -/
def frameBytes (s : State) (pfn : Nat) (l : SMap 8) : State :=
  { s with mem := { s.mem with loc := putRange s.mem.loc (pfn * 32768) 32768 (l.map fun e => (pfn * 32768 + e.1, e.2)) } }

/-- A frame's bytes as another world sees them (R18, R270): a protected world's read in world 0 are its ciphertext, which the same world reads back
as before while it is unchanged; other bytes under a key they were not encrypted with are free (DESIGN CHOICE, log 22). -/
def retagBytes (s : State) (pfn old new : Nat) : State :=
  let now := rangeAt s.mem.loc (pfn * 32768) 32768 0
  let f := freshNat s
  let key := 2 ^ 60 + pfn
  if old = new || (!protectedWorld old && !protectedWorld new) then s
  else if protectedWorld old then
    let s := frameBytes f.2 pfn (cipherBytes key f.1 0)
    if protectedWorld new then s
    else { s with tables := { s.tables with veiled := Tbl.set s.tables.veiled pfn { world := old, stamp := f.1, plain := now } } }
  else
    match Tbl.get? s.tables.veiled pfn with
    | some p => if p.world = new && now == cipherBytes key p.stamp 0 then frameBytes s pfn p.plain else frameBytes f.2 pfn (cipherBytes key f.1 0)
    | none => frameBytes f.2 pfn (cipherBytes key f.1 0)

/-- A VF's frame goes: its physical frame is free, a protected world's bytes left as their ciphertext (R270), or its place in the backing area. -/
def freeVfFrame (s : State) (vf frame : Nat) : State :=
  let e := frameEntry s vf frame
  let s := { s with tables := { s.tables with frames := Tbl.erase s.tables.frames (frameKey vf frame) } }
  let s := if e.1 == 1 then retagBytes { s with mem := dropLines s.mem e.2 } e.2 (potEntry s e.2).world 0 else s
  if e.1 == 1 then setVf (setPot s e.2 { vf := 0, state := 0, world := 63 }) vf fun v => { v with hf := v.hf - 1 }
  else { s with tables := { s.tables with paged := Tbl.erase s.tables.paged (frameKey vf frame) } }

/-- Every frame of a list goes. -/
def freeVfFrames (vf : Nat) (l : List Nat) (s : State) : State :=
  match l with
  | [] => s
  | f :: r => freeVfFrames vf r (freeVfFrame s vf f)

/-- The physical frames of a VF's frames that are resident. -/
def residentFrames (s : State) (vf : Nat) (l : List Nat) : List Nat :=
  l.filterMap fun f => if (frameEntry s vf f).1 == 1 then some (frameEntry s vf f).2 else none

/-- FRM_FREE. -/
def execFrmFree (h : MbHdr) (vf vpa size : Nat) (s : State) : Out :=
  command h false (h.fn == 0 || h.fn == vf) (fun s =>
    let l := vpaFrames vpa size
    refuseOr [(vf < 1 || 16 < vf || !frameRange vpa size, 1), (l.any fun f => (frameEntry s vf f).1 != 1 && (frameEntry s vf f).1 != 3, 3)]
      (orWait ((clearFrames s (residentFrames s vf l)).map (freeVfFrames vf l)))) s

/-- The guarantees of the other VFs. -/
def otherGf (s : State) (vf : Nat) : Nat := (s.vfs.filter fun e => e.1 != vf).foldl (fun n e => n + e.2.gf.toNat) 0

/-- FRM_QUOTA. -/
def execFrmQuota (h : MbHdr) (vf gf bf backBase backSize : Nat) (s : State) : Out :=
  command h false (h.fn == 0) (fun s =>
    refuseOr [(vf < 1 || 16 < vf || 2 ^ 32 ≤ bf || bf < gf || frameCount s < otherGf s vf + gf, 1)]
      (.done (setVf s vf fun v => { v with gf := BitVec.ofNat 32 gf, bf := BitVec.ofNat 32 bf, back := some (backBase, backSize) }) [])) s

/-- Put the same entry for every frame of a list; their lines leave the cache. -/
def setPots (e : PotEntry) (l : List Nat) (s : State) : State :=
  match l with
  | [] => s
  | p :: r => setPots e r (setPot (retagBytes { s with mem := dropLines s.mem p } p (potEntry s p).world e.world) p e)

/-- POT_SET (R281). -/
def execPotSet (h : MbHdr) (pa size vf world state : Nat) (s : State) : Out :=
  command h false (h.fn == 0) (fun s =>
    let l := vpaFrames pa size
    refuseOr [(!frameRange pa size || 16 < vf || 63 < world || 3 < state || l.any (frameCount s ≤ ·), 1),
            (l.any fun p => (potEntry s p).state == 2, 3)]
      (orWait ((clearFrames s l).map (setPots { vf := vf, state := state, world := world } l)))) s

/-! Dirty bitmaps (R277, R278). -/

/-- DIRTY_BASE. -/
def execDirtyBase (h : MbHdr) (vf a b : Nat) (en : Bool) (s : State) : Out :=
  command h false (h.fn == 0) (fun s =>
    refuseOr [(16 < vf || a % 64 != 0 || b % 64 != 0, 1)] (.done (setVf s vf fun v => { v with dirtyA := a, dirtyB := b, dirtyEn := en }) [])) s

/-- DIRTY_SWAP: ACTIVE flips; the newly inactive bitmap is returned (R278). -/
def execDirtySwap (h : MbHdr) (vf : Nat) (s : State) : Out :=
  command h false (h.fn == 0) (fun s =>
    let v := vfOf s vf
    refuseOr [(16 < vf, 1), (!v.dirtyEn, 3)]
      (.done (setVf s vf fun v => { v with activeB := !v.activeB }) [ans (if v.activeB then v.dirtyB else v.dirtyA)])) s

end Sys2Proof.Machine
end

