-- ==== Sys2Proof/Machine/CmdPix.lean ====
section
/-! DEFINITION. Commands of the Bright Tank (R284, R287 to R295, R300, R304). -/

namespace Sys2Proof.Machine

/-! Displays (R284, R287). -/

/-- A timing is in range for a display: a period for the virtual ones, a mode that the link carries for the outputs. -/
def timingFits (q : DispArgs) : Bool :=
  match q.timing with
  | .period ns => 4 ≤ q.disp && 1000000 ≤ ns && ns ≤ 1000000000
  | .mode pclk ht vt =>
    q.disp < 4 && pclk != 0 && q.w < ht && q.h < vt && 1000000 * pclk ≤ ht * vt * 1000000 && ht * vt * 1000000 ≤ 1000000000 * pclk
      && Config.linkCarries q.disp pclk ht vt

/-- A display has an output surface. -/
def hasOutput (s : State) (d : Nat) : Bool := s.pix.surfs.any fun e => e.2.a.kind == 3 && e.2.a.disp == d

/-- The first boundary after DISP_CFG: a period after it, or the first start of vertical blanking, which falls freely within a frame (R284). -/
def firstBoundary (s : State) (q : DispArgs) : Nat × State :=
  match q.timing with
  | .period ns => (s.time + ns, s)
  | .mode pclk ht vt => let r := freshNat s; (s.time + r.1 % (ht * vt * 1000000 / pclk + 1), r.2)

/-- A display as DISP_CFG leaves it: GEN goes on and DROPD is 0, or, at the first, GEN starts at 1 and DROPD stays; every POM word is 0 (R284, R286). -/
def configured (x : Display) (q : DispArgs) (first : Nat) : Display :=
  { x with cfg := some q, gen := if x.cfg.isSome then x.gen else 1, dropd := if x.cfg.isSome then 0 else x.dropd, pom := [], staged := [],
           sums := (List.range (tilesOf q)).map fun t => (t, 0x80000000), first := first, count := 0 }

/-- DISP_CFG. -/
def execDispCfg (h : MbHdr) (q : DispArgs) (s : State) : Out :=
  command h false (h.fn == 0) (fun s =>
    refuseOr [(19 < q.disp || q.w < 64 || 8192 < q.w || q.h < 64 || 8192 < q.h || !timingFits q, 1), (!s.full && q.disp != 0, 7),
              (hasOutput s q.disp, 3)]
      (let r := firstBoundary s q
       .done { r.2 with pix := { s.pix with disps := Tbl.set s.pix.disps q.disp (configured (dispSt s q.disp) q r.1) } } [])) s

/-- POM_WRITE: staged for the next boundary (R287). -/
def execPomWrite (h : MbHdr) (q : PomCmd) (disp : Nat) (s : State) : Out :=
  command h false (h.fn == 0) (fun s =>
    match (dispSt s disp).cfg with
    | none => .refuse 3
    | some c =>
      refuseOr [(q.x1 < q.x0 || q.y1 < q.y0 || c.w ≤ q.x1 || c.h ≤ q.y1 || q.word.toNat / 2 ^ 12 % 4 != 0, 1)]
        (.done { s with pix := { s.pix with disps := Tbl.modify s.pix.disps disp fun x => { x with staged := x.staged ++ [q] } } } [])) s

/-! Surfaces (R288, R289). -/

/-- A surface's fields are in range (R288). -/
def surfFits (q : SurfArgs) : Bool :=
  q.base % 32768 == 0 && q.base + q.pitch * q.h ≤ 2 ^ 52 && q.pitch % 128 == 0 && q.pitch < 2 ^ 32 && 1 ≤ q.h && q.h ≤ 16384 && 1 ≤ q.w && q.w ≤ 16384
    && -32768 ≤ q.oy && q.oy ≤ 32767 && -32768 ≤ q.ox && q.ox ≤ 32767 && q.z < 256 && q.fmt < 4 && 1 ≤ q.kind && q.kind ≤ 3
    && (if q.kind = 1 then q.disp == 255 else q.disp < 20) && q.vf ≤ 16 && q.oid < 4096 && (q.kind != 3 || q.fmt == 0)

/-- An output surface covers its display exactly. -/
def coversDisplay (s : State) (q : SurfArgs) : Bool :=
  match (dispSt s q.disp).cfg with
  | some c => c.w == q.w && c.h == q.h
  | none => false

/-- The physical frames of a surface that are resident. -/
def surfPhys (s : State) (q : SurfArgs) : List Nat :=
  let r := surfFrames q
  residentFrames s q.vf ((List.range (r.2 - r.1)).map fun i => r.1 + i)

/-- The lowest free SID; 4095 where there is none. -/
def freeSid (s : State) : Nat := Tbl.freshFrom s.pix.surfs 0 4096

/-- SURF_REG: the cached translations of its frames go first (R288, R289). -/
def execSurfReg (h : MbHdr) (q : SurfArgs) (s : State) : Out :=
  command h false (h.fn == 0 || (q.vf == h.fn && q.kind != 3 && ownOid s h.fn q.oid)) (fun s =>
    refuseOr [(!surfFits q || (q.kind == 3 && !coversDisplay s q), 1), (q.kind == 3 && hasOutput s q.disp, 3), (4094 < freeSid s, 4)]
      (match clearFrames s (surfPhys s q) with
       | none => .wait
       | some s => .done { s with pix := { s.pix with surfs := Tbl.set s.pix.surfs (freeSid s) { a := q, fn := h.fn } } } [ans (freeSid s)])) s

/-- The records of every queue that name a surface retire as refused (R300, R304). -/
def refusePres (sid : Nat) (l : List (Nat × PresQ)) (s : State) : State :=
  match l with
  | [] => s
  | e :: r =>
    let n := (e.2.recs.filter fun x => x.sid == sid).length
    refusePres sid r ((List.range n).foldl (fun s _ => presRefused s e.2)
      (modPq s e.1 fun q => { q with recs := q.recs.filter fun x => x.sid != sid }))

/-- A queue has latched a surface. -/
def surfLatched (s : State) (sid : Nat) : Bool := s.pix.pqs.any fun e => match latNow s e.2 with | some r => r.sid == sid | none => false

/-- SURF_FREE: after the translations of its frames have gone (R289, R304). (DEDUCED, log 95) -/
def execSurfFree (h : MbHdr) (sid : Nat) (s : State) : Out :=
  match Tbl.get? s.pix.surfs sid with
  | none => command h false true (fun _ => .refuse 1) s
  | some sf =>
    command h false (sf.fn == h.fn) (fun s =>
      refuseOr [(surfLatched s sid, 3)]
        (match clearFrames s (surfPhys s sf.a) with
         | none => .wait
         | some s => .done (refusePres sid s.pix.pqs { s with pix := { s.pix with surfs := Tbl.erase s.pix.surfs sid } }) [])) s

/-! Refusal values and consent (R292 to R295). -/

/-- RVAL_SET, refused for nothing (R304); OID 4095 keeps all +0.0 (R294). -/
def execRvalSet (h : MbHdr) (oid : Nat) (v : Rgba) (s : State) : Out :=
  command h false (ownOid s h.fn oid) (fun s =>
    .done (if 4094 < oid then s else { s with pix := { s.pix with rvals := Tbl.set s.pix.rvals oid v } }) []) s

/-- A grant's fields are in range. -/
def grantFits (q : GrantArgs) : Bool :=
  q.y1 < 65536 && q.x1 < 65536 && q.x0 ≤ q.x1 && q.y0 ≤ q.y1 && q.sid < 4096 && q.gte < 4096 && q.gtr < 4096 && q.minlod < 16 && q.disp < 20
    && q.gtr != q.gte

/-- The lowest free consent entry; 4096 where there is none. -/
def freeCt (s : State) : Nat := Tbl.freshFrom s.pix.cts 0 4097

/-- CT_GRANT: it covers no generation before the next (R295). -/
def execCtGrant (h : MbHdr) (q : GrantArgs) (s : State) : Out :=
  command h false (ownOid s h.fn q.gtr) (fun s =>
    refuseOr [(!grantFits q, 1), (4095 < freeCt s, 4)]
      (let a : GrantArgs := { q with first := ans (max q.first.toNat (genOf s q.disp + 1)) }
       .done { s with pix := { s.pix with cts := Tbl.set s.pix.cts (freeCt s) { a := a, fn := h.fn } } } [ans (freeCt s)])) s

/-- CT_WITHDRAW, by a function that may still grant and made the entry (R304): the generation in progress stays covered, the next is not (R295). -/
def execCtWithdraw (h : MbHdr) (idx : Nat) (s : State) : Out :=
  match Tbl.get? s.pix.cts idx with
  | none => command h false true (fun _ => .refuse 1) s
  | some e =>
    command h false (ownOid s h.fn e.a.gtr && e.fn == h.fn) (fun s =>
      .done { s with pix := { s.pix with cts := Tbl.modify s.pix.cts idx fun x =>
        { x with a := { x.a with last := ans (min x.a.last.toNat (genOf s x.a.disp)) } } } } []) s

/-! Present queues (R300). -/

/-- PQ_CREATE's fields are in range. -/
def pqFits (q : PqArgs) : Bool :=
  q.oid < 4096 && q.disp < 20 && q.ring.toNat % 4096 == 0 && 4 ≤ q.log2n && q.log2n ≤ 12 && 1 ≤ q.cad && q.cad ≤ 15 && q.phase < q.cad
    && q.maxrp ≤ 15 && q.br ≤ 7

/-- The lowest free queue number; 256 where there is none. -/
def freePq (s : State) : Nat := Tbl.freshFrom s.pix.pqs 0 257

/-- A new queue. -/
def newPq (q : PqArgs) (fn : Nat) : PresQ :=
  { a := q, fn := fn, head := 0, recs := [], last := none, lat := none, rpc := 0, m := identity3, tl := 0 }

/-- PQ_CREATE. -/
def execPqCreate (h : MbHdr) (q : PqArgs) (s : State) : Out :=
  command h false (ownOid s h.fn q.oid && ownCtx s h.fn q.ctx) (fun s => withCtx s q.ctx fun _ =>
    refuseOr [(!pqFits q, 1), (255 < freePq s, 4)]
      (.done { s with pix := { s.pix with pqs := Tbl.set s.pix.pqs (freePq s) (newPq q h.fn) } } [ans (freePq s)])) s

/-- PQ_FREE. -/
def execPqFree (h : MbHdr) (pq : Nat) (s : State) : Out :=
  match Tbl.get? s.pix.pqs pq with
  | none => command h false true (fun _ => .refuse 1) s
  | some q =>
    command h false (h.fn == 0 || ownOid s h.fn q.a.oid) (fun s =>
      .done { s with pix := { s.pix with pqs := Tbl.erase s.pix.pqs pq } } []) s

end Sys2Proof.Machine
end

