-- ==== Sys2Proof/Machine/CmdWcs.lean ====
section
/-! DEFINITION. Commands on the control store (R322, R333, R334, R336, R337). -/

namespace Sys2Proof.Machine

/-! Units (R322, R336). -/

/-- Assign a unit to a VF, or to none. -/
def setUnit (s : State) (u : Nat) (vf : Option Nat) : State :=
  { s with wcsUnits := SMap.set s.wcsUnits u (match vf with | some v => BitVec.ofNat 16 (128 + v) | none => 0) }

/-- A unit leaves a VF: its bindings go, and its micro-ops are 0 (R322). -/
def clearUnit (s : State) (u vf : Nat) : State := putWcs (unbindOver s vf (256 * u) 256) (256 * u) (List.replicate 256 0)

/-- A unit under a VF's new set. -/
def assignUnit (s : State) (vf : Nat) (set : Half) (u : Nat) : State :=
  match unitVf s (256 * u), set.getLsbD u with
  | some v, true => if v = vf then s else setUnit (clearUnit s u v) u (some vf)
  | none, true => setUnit s u (some vf)
  | some v, false => if v = vf then setUnit (clearUnit s u v) u none else s
  | none, false => s

/-- WCS_ASSIGN. -/
def execWcsAssign (h : MbHdr) (vf : Nat) (set rel : Half) (s : State) : Out :=
  command h false (h.fn == 0) (fun s =>
    let taken := fun (u : Nat) => set.getLsbD u && !rel.getLsbD u && (match unitVf s (256 * u) with | some v => v != vf | none => false)
    refuseOr [(16 < vf, 1), ((List.range 16).any taken, 3)]
      (.done ((List.range 16).foldl (fun s u => assignUnit s vf set u) s) [])) s

/-! XOP_LOAD (R333, R334, R336, R337). -/

/-- Read bytes of a context's memory for a command, up to `n`; none where a byte cannot be read. -/
def cmdRead (s : State) (cid : Nat) (c : Ctx) (va n : Nat) : Take (List Byte) :=
  (frontRead s cid c va (n / 64)).bind fun bs =>
    if n % 64 = 0 then .ok bs else (frontBytes s cid c (va + n / 64 * 64) (n % 64) 2).bind fun r => .ok (bs ++ r)

/-- A sequence of the image: the byte offset of its header, and its words. -/
abbrev Seq := Nat × List W64

/-- The sequences of a section, back to back; the number of the first whose header holds no LEN of 1 to 64, or whose words the section cuts short. -/
def parseSeqs (off i : Nat) (ws : List W64) (fuel : Nat) : Except Nat (List Seq) :=
  match fuel, ws with
  | _, [] => .ok []
  | 0, _ => .error i
  | k + 1, h :: r =>
    let n := h.toNat
    if n < 1 || 64 < n || r.length < n then .error i
    else (parseSeqs (off + 8 + 8 * n) (i + 1) (r.drop n) k).map ((off, r.take n) :: ·)

/-- `n` addresses from one on are of the VF, in one unit, under no live binding and not taken. -/
def seqRoom (s : State) (vf n : Nat) (taken : List (Nat × Nat)) (a : Nat) : Bool :=
  a / 256 == (a + n - 1) / 256 && unitsOk s vf a n && !covered s vf a n && taken.all fun t => a + n ≤ t.1 || t.1 + t.2 ≤ a

/-- Place sequences first-fit by ascending address; the number of the first with no room (R336). -/
def placeSeqs (s : State) (vf : Nat) (taken : List (Nat × Nat)) (l : List Seq) (i : Nat) : Except Nat (List (Nat × Nat)) :=
  match l with
  | [] => .ok taken
  | q :: r =>
    match (List.range 4096).find? (seqRoom s vf q.2.length taken) with
    | none => .error i
    | some a => placeSeqs s vf (taken ++ [(a, q.2.length)]) r (i + 1)

/-- Write placed sequences. -/
def writeSeqs (s : State) (l : List (Nat × Seq)) : State :=
  match l with
  | [] => s
  | e :: r => writeSeqs (putWcs s e.1 e.2.2) r

/-- Bind the listed indexes; the failing sequence, index and status of the first that fails (R334, R336). -/
def bindAll (cid vf : Nat) (places : List (Nat × Seq)) (l : List W64) (s : State) : Except (Nat × Nat × Nat) State :=
  match l with
  | [] => .ok s
  | w :: r =>
    let xi := w.toNat % 32
    match places.findIdx? fun e => e.2.1 == w.toNat / 2 ^ 32 with
    | none => .error (0, xi, 1)
    | some i =>
      let e := nth places i (0, 0, [])
      if w.toNat % 2 ^ 32 / 32 != 0 then .error (i, xi, 1)
      else
        match seqFailure s vf e.1 e.2.2.length with
        | some f => .error (i, xi, seqStatus (some f))
        | none => bindAll cid vf places r (bindEntry s cid xi e.1 e.2.2.length)

/-- Place, write and bind an image, whose last index may be cut short. -/
def loadImage (s : State) (cid : Nat) (c : Ctx) (seqs : List Seq) (binds : List W64) (cut : Bool) : CmdRes :=
  match placeSeqs s c.vf [] seqs 0 with
  | .error i => .tell 4 [ans i, 0, 0]
  | .ok places =>
    let l := (places.map (·.1)).zip seqs
    match bindAll cid c.vf l binds (writeSeqs s l) with
    | .error (i, xi, st) => .tell 1 [ans i, ans xi, ans st]
    | .ok s => if cut then .tell 1 [0, 0, 1] else .done s []

/-- XOP_LOAD: any failure answers the failing sequence, index and status; a section that cannot be read fails at its first (R336). (DEDUCED, log 98) -/
def execXopLoad (h : MbHdr) (ctx : Nat) (q : XopLoadArgs) (s : State) : Out :=
  command h false (ownCtx s h.fn ctx) (fun s => withCtx s ctx fun c =>
    let bad := fun (i : Nat) => CmdRes.tell 1 [ans i, 0, ans (seqStatus (some (1, 0)))]
    match cmdRead s ctx c q.seqVa.toNat q.seqBytes, cmdRead s ctx c q.bindVa.toNat q.bindBytes with
    | .ok a, .ok b =>
      (match parseSeqs 0 0 (wordsOf (q.seqBytes / 8) a) (q.seqBytes / 8 + 1) with
       | .ok l =>
         if q.seqBytes % 8 != 0 then bad l.length
         else
           loadImage (touchReads s ctx c [(q.seqVa.toNat, q.seqBytes), (q.bindVa.toNat, q.bindBytes)]) ctx c l (wordsOf (q.bindBytes / 8) b)
             (q.bindBytes % 8 != 0)
       | .error i => bad i)
    | .wait, _ => .wait
    | _, .wait => .wait
    | _, _ => .tell 3 [0, 0, ans (seqStatus (some (1, 0)))]) s

/-- XOP_QUERY: the binding table, and the unit set of its VF. -/
def execXopQuery (h : MbHdr) (ctx : Nat) (s : State) : Out :=
  command h false (ownCtx s h.fn ctx) (fun s => withCtx s ctx fun c =>
    .done s (((List.range 32).map fun i => bindOf c i) ++ [ans ((unitsOfVf s c.vf).foldl (fun n u => n + 2 ^ u) 0)])) s

end Sys2Proof.Machine
end

