-- ==== Sys2Proof/Machine/CmdSys.lean ====
section
/-! DEFINITION. Commands on engines, clocks, current, the error log, worlds, patches, the fabric and migration (R203, R358, R359, R384, R385, R390 to R396). -/

namespace Sys2Proof.Machine

/-- MASH_RESET (R203). -/
def execMashReset (h : MbHdr) (core : Nat) (s : State) : Out :=
  command h false (h.fn == 0) (fun s => refuseOr [(47 < core, 1)] (.done (engineReset s core) [])) s

/-! Clocks and current (R358, R391). -/

/-- The entries of the voltage and frequency table in use: MHz and mV. -/
def vft (s : State) : List (Nat × Nat) :=
  ((List.range 16).filterMap fun i => (cfgNat s (64 + 4 * i) 4).map fun w => (w % 2 ^ 16, w / 2 ^ 16)).filter fun e => e != (0, 0)

/-- FMAX at a voltage. -/
def fmax (s : State) (mv : Nat) : Nat := (vft s).foldl (fun m e => if e.2 ≤ mv then max m e.1 else m) 0
/-- VMIN at a frequency; none where no entry reaches it. -/
def vmin (s : State) (mhz : Nat) : Option Nat :=
  (vft s).foldl (fun m e => if mhz ≤ e.1 then (match m with | some x => some (min x e.2) | none => some e.2) else m) none

/-- CLK_SET. (DEDUCED, log 97) -/
def execClkSet (h : MbHdr) (cluster mhz : Nat) (s : State) : Out :=
  command h false (h.fn == 0) (fun s =>
    refuseOr [(!s.full, 7), (11 < cluster || mhz < 400 || 2400 < mhz || mhz % 25 != 0, 1), (fmax s (clusterSt s cluster).mv < mhz, 3)]
      (.done (aimFll s cluster mhz) [])) s

/-- LDO_SET: the voltage carries the present frequency and the one that the FLL moves to (R359). -/
def execLdoSet (h : MbHdr) (cluster mv : Nat) (s : State) : Out :=
  command h false (h.fn == 0) (fun s =>
    refuseOr [(11 < cluster || mv < 550 || 1050 < mv || mv % 5 != 0, 1),
              ((match vmin s (max (presentMhz s cluster) (clusterSt s cluster).mhz) with | some v => mv < v | none => true), 3)]
      (.done (modCluster s cluster fun c => { c with mv := mv }) [])) s

/-- KILN_SET: written at the next step boundary, all at once. -/
def execKilnSet (h : MbHdr) (cluster cap : Nat) (ramp : List (Nat × Nat)) (s : State) : Out :=
  command h false (h.fn == 0) (fun s =>
    refuseOr [(11 < cluster || cap < 16 || 255 < cap || ramp.length != 8 || ramp.any fun r => r.1 < 1 || 255 < r.1 || r.2 < 1 || 255 < r.2, 1)]
      (.done (modCluster s cluster fun c => { c with kset := some (cap, ramp) }) [])) s

/-- THERM_QUERY: the temperature in quarter degrees, and the throttle state. -/
def execThermQuery (h : MbHdr) (cluster : Nat) (s : State) : Out :=
  command h false (h.fn == 0) (fun s =>
    let c := clusterSt s cluster
    refuseOr [(11 < cluster, 1)] (.done s [ans c.temp, ans ((if c.hot then 1 else 0) + if c.deny then 2 else 0)])) s

/-- The arbiter's state word (R354). -/
def kilnWord (c : Cluster) : Nat := (if c.deny then 2 ^ 31 else 0) + c.cap % 256 * 2 ^ 16 + c.level % 256

/-- PWR_STAT: the arbiter's word, and the FLL and LDO settings. -/
def execPwrStat (h : MbHdr) (cluster : Nat) (s : State) : Out :=
  command h false (h.fn == 0) (fun s =>
    let c := clusterSt s cluster
    refuseOr [(11 < cluster, 1)] (.done s [ans (kilnWord c), ans c.mhz, ans c.mv])) s

/-! Errors (R384, R385). -/

/-- The words of a log entry, as a function reads it. -/
def errWords (array : Nat) (e : ErrEntry) (fn : Nat) : List W64 :=
  [ans (array + e.count * 2 ^ 8 + e.core * 2 ^ 32 + e.kind * 2 ^ 41 + e.vf * 2 ^ 45 + (if e.inj then 2 ^ 50 else 0)
      + (match e.ctx with | some c => c * 2 ^ 52 | none => 2 ^ 51)),
    ans e.time, ans (e.syn.toNat * 2 ^ 32), if fn = 0 then e.addr else 0]

/-- ERR_LOG: the PF reads every entry, a VF those that name it. -/
def execErrLog (h : MbHdr) (array index : Nat) (s : State) : Out :=
  match (ringOf s array).entries[index]? with
  | none => command h false true (fun _ => .refuse 1) s
  | some e => command h false (h.fn == 0 || (e.vf == h.fn && e.ctx.isSome)) (fun s => .done s (errWords array e h.fn ++ [ans (ringOf s array).lost])) s

/-- A MODE that an array takes: 1 or 2 under SECDED, 3 under parity, 0 disarms. -/
def modeFits (array mode : Nat) : Bool :=
  mode == 0 || (if [3, 8, 9, 10, 12, 14].contains array then mode == 3 else array != 15 && mode != 3)
/-- Bits of a protected word of an array. -/
def wordBits (array : Nat) : Nat := if array = 4 then 32 else if array = 11 then 128 else 64

/-- The target of an injection lies in a protected frame. -/
def protectedTarget (s : State) (array addr : Nat) : Bool := array ≤ 1 && (potEntry s (addr / 32768)).world != 0

/-- An injection register is written; in an array whose writes the model does not follow, one of its earlier writes may have stored flipped bits before
(DESIGN CHOICE, log 154). -/
def armRing (r : ErrRing) (array : Nat) (word : BitVec 128) : ErrRing :=
  let w := r.inject.toNat
  let mode := w / 2 ^ 48 % 4
  { r with inject := word, planted := if array ≤ 1 || mode = 0 then r.planted else plantOnce r.planted (w / 2 ^ 64) mode }

/-- ERR_INJECT. -/
def execErrInject (h : MbHdr) (array : Nat) (word : BitVec 128) (s : State) : Out :=
  command h false (h.fn == 0) (fun s =>
    let w := word.toNat
    let mode := w / 2 ^ 48 % 4
    let rep := w / 2 ^ 40 % 256
    refuseOr [(!s.full, 7), ((cfgNat s 32 2).getD 0 % 2 == 0, 3),
              (15 < array || w / 2 ^ 50 % 2 ^ 14 != 0 || w / 2 ^ 16 % 2 ^ 24 != 0 || !modeFits array mode || (mode != 0 && rep == 0)
                || wordBits array ≤ w % 256 || (mode == 2 && wordBits array ≤ w / 256 % 256), 1),
              (protectedTarget s array (w / 2 ^ 64), 3)]
      (.done { s with errs := Tbl.set s.errs array (armRing (ringOf s array) array word) } [])) s

/-! Worlds (R392). -/

/-- A command of a VF arrives through an established SPDM session of its own (R392). -/
def sessionVf (s : State) (h : MbHdr) : Bool :=
  h.fn != 0 && (match h.session with | some n => (spdmOf s h.fn).sessions.contains n | none => false)

/-- The lowest world that is not allotted; 63 where there is none. -/
def freeWorld (s : State) : Nat := Tbl.freshFrom s.sys.worlds 1 62

/-- Put a world. -/
def setWorld (s : State) (w : Nat) (x : World) : State := { s with sys := { s.sys with worlds := Tbl.set s.sys.worlds w x } }

/-- WORLD_NEW: a world and its unseal token, which is free (DESIGN CHOICE, log 2). -/
def execWorldNew (h : MbHdr) (s : State) : Out :=
  command h false (sessionVf s h) (fun s =>
    let w := freeWorld s
    let f := freshNat s
    let g := freshNat f.2
    let t : BitVec 128 := (ans g.1) ++ (ans f.1)
    refuseOr [(62 < w, 4)] (.done (setWorld g.2 w { vf := h.fn, token := t, fails := 0, sealed := false }) [ans w, ans f.1, ans g.1])) s

/-- A world of the issuing VF. -/
def ownWorld (s : State) (fn w : Nat) : Bool := match Tbl.get? s.sys.worlds w with | some x => x.vf == fn | none => false

/-- SEAL_KEY (R307). -/
def execSealKey (h : MbHdr) (world key : Nat) (k : BitVec 512) (s : State) : Out :=
  command h false (sessionVf s h && ownWorld s h.fn world) (fun s =>
    refuseOr [(255 < key, 1)] (.done { s with sealKeys := Tbl.set s.sealKeys (world * 256 + key) k } [])) s

/-- The frames of a world are zeroed, those paged out among them. -/
def zeroWorld (s : State) (w : Nat) : State :=
  let s := (s.tables.pot.filter fun e => e.2.world == w && e.2.state != 0).foldl (fun s e => zeroFrame s e.1) s
  { s with tables := { s.tables with paged := s.tables.paged.map fun e => (e.1, if e.2.world == w then { e.2 with plain := [] } else e.2) } }

/-- A world is free again, and its keys are gone. -/
def dropWorld (s : State) (w : Nat) : State :=
  { s with sys := { s.sys with worlds := Tbl.erase s.sys.worlds w }, sealKeys := s.sealKeys.filter fun e => e.1 / 256 != w }

/-- A world is unsealed: the contexts that a hot reset holds go on (R393). -/
def unsealed (s : State) (w : Nat) (x : World) : State :=
  let s := setWorld s w { x with fails := 0, sealed := false }
  { s with ctxs := s.ctxs.map fun e => (e.1, if e.2.world == w && e.2.vf == x.vf then { e.2 with held := false } else e.2) }

/-- A wrong token: at the sixteenth failure the world's frames are zeroed and the world is free. -/
def wrongToken (s : State) (w : Nat) (x : World) : State :=
  if x.fails + 1 = 16 then dropWorld (zeroWorld s w) w else setWorld s w { x with fails := x.fails + 1 }

/-- WORLD_UNSEAL. -/
def execWorldUnseal (h : MbHdr) (world : Nat) (token : BitVec 128) (s : State) : Out :=
  command h false (sessionVf s h && ownWorld s h.fn world) (fun s =>
    match Tbl.get? s.sys.worlds world with
    | none => .refuse 2
    | some x => if x.token = token then .done (unsealed s world x) [] else .failed (wrongToken s world x) 8) s

/-- WORLD_FREE: a world with no context and no frame. -/
def execWorldFree (h : MbHdr) (world : Nat) (s : State) : Out :=
  command h false (sessionVf s h && ownWorld s h.fn world) (fun s =>
    refuseOr [((s.ctxs.any fun e => e.2.world == world) || s.tables.pot.any fun e => e.2.world == world && e.2.state != 0, 3)]
      (.done (dropWorld s world) [])) s

/-! Patches (R390). -/

/-- PATCH_STAGE: an image in host memory whose signature holds and whose SVN is not below the record's. -/
def execPatchStage (h : MbHdr) (addr size : Nat) (s : State) : Out :=
  command h false (h.fn == 0) (fun s =>
    if !s.full then .refuse 7
    else
      let image := readPhys s.mem .host addr size
      match Config.patchSvn image, cfgNat s 28 4 with
      | some n, some least => if n < least then .refuse 8 else .done { s with sys := { s.sys with staged := some (n, image) } } []
      | _, _ => .refuse 8) s

/-- PATCH_ACTIVATE: the staged patch is in force within 10 ms; when is free (DESIGN CHOICE, log 2). -/
def execPatchActivate (h : MbHdr) (s : State) : Out :=
  command h false (h.fn == 0) (fun s =>
    let f := freshNat s
    refuseOr [(s.sys.staged.isNone, 3)] (.pend { f.2 with sys := { f.2.sys with activating := some (h.fn, s.time + f.1 % 10000001) } })) s

/-! The fabric (R394, R395). -/

/-- FAB_MAP. -/
def execFabMap (h : MbHdr) (link peer : Nat) (s : State) : Out :=
  command h false (h.fn == 0) (fun s =>
    refuseOr [(5 < link || 255 < peer, 1)] (.done { s with sys := { s.sys with links := Tbl.set s.sys.links link peer } } [])) s

/-- This device's fabric number (R391). -/
def fabId (s : State) : Nat := (cfgNat s 34 1).getD 0

/-- COLL_POST. -/
def execCollPost (h : MbHdr) (q : CollArgs) (s : State) : Out :=
  command h false (ownCtx s h.fn q.ctx) (fun s => withCtx s q.ctx fun _ =>
    refuseOr [(q.peers.isEmpty || !noRepeats q.peers || q.va.toNat % 4 != 0
        || q.peers.any fun p => p != fabId s && !(s.sys.links.any fun e => e.2 == p), 1)]
      (.done { s with sys := { s.sys with colls := s.sys.colls ++ [{ ctx := q.ctx, a := q, id := s.steps, sent := false }] } } [])) s

/-- The value that a participant brings to an element: the device's own, or a peer's, which is free (DESIGN CHOICE, log 2). -/
def collVal (own : Nat) (me : Nat) (p : Nat) (s : State) : Nat × State :=
  if p = me then (own, s) else let f := freshNat s; (f.1 % 2 ^ 32, f.2)

/-- The sum of the participants' values in ascending fabric number, one RNE rounding an addition (R395). -/
def collSum (own me : Nat) (l : List Nat) (acc : Option Nat) (s : State) : Nat × State :=
  match l with
  | [] => (acc.getD 0, s)
  | p :: r =>
    let v := collVal own me p s
    collSum own me r (some (match acc with | some a => fmt32.add .rne a v.1 | none => v.1)) v.2

/-- What a collective leaves in an element that holds `own`. (DESIGN CHOICE, log 101) -/
def collElem (q : CollArgs) (own : Nat) (s : State) : Nat × State :=
  if q.bcast then collVal own (fabId s) (nth q.peers 0 0) s else collSum own (fabId s) (sortNat q.peers) none s

/-- The group number of a collective's writes to peer pages. -/
def collGid (id : Nat) : Nat := 2 ^ 66 + id

/-- The write of an element of a collective's buffer that lies in a peer's page. -/
def collAcc (s : State) (x : Coll) (p : Part) (bs : List Byte) : Acc :=
  { gid := collGid x.id, pc := 0, ctx := x.ctx, lane := 0, seq := s.steps, space := p.space, pa := p.pa, n := 4, kind := p.kind, vpa := p.vpa,
    world := p.world, op := .store bs, dst := none, val := none, micro := none, tied := none }

/-- What an element of a buffer holds: a peer's is free (DESIGN CHOICE, log 2). -/
def collOwn (s : State) (p : Part) : Nat × State :=
  if p.isPeer then (fun (y : List Byte × State) => (leNat y.1, y.2)) (freeBytes s 4) else (leNat (readPhys s.mem p.space p.pa 4), s)

/-- An element is written: in a peer's page by a write that leaves for it (R375). -/
def collPut (s : State) (x : Coll) (p : Part) (bs : List Byte) : Option State :=
  if p.isPeer then
    let a := collAcc s x p bs
    if peerMayLeave s a && ackRoom s x.ctx 1 then some (sendPeer { s with mem := { s.mem with tick := s.mem.tick + 1 } } a) else none
  else some (writeFor s x.ctx p.space p.pa p.vpa bs)

/-- The elements of a collective's buffer, from element `i` on; one whose page refuses it keeps its value; none where a page-in is awaited, or a write to a
peer cannot leave. -/
def collWrite (c : Ctx) (x : Coll) (i n : Nat) (s : State) : Option State :=
  match n with
  | 0 => some s
  | n + 1 =>
    let va := (x.a.va.toNat + 4 * i) % 2 ^ 64
    match fill s x.ctx c va true false with
    | .wait _ => none
    | .fault _ _ => collWrite c x (i + 1) n s
    | .ok e =>
      let p := partOf e va 0 4
      if p.space == .loc && outputFrame s p.pa then collWrite c x (i + 1) n s
      else
        let o := collOwn s p
        let v := collElem x.a o.1 o.2
        (collPut v.2 x p (natLE 4 v.1)).bind (collWrite c x (i + 1) n)

/-- A collective whose buffer is written passes its timeline, once its writes to peer pages are acknowledged (R375, R395). -/
def collPass (s : State) (k : Nat) (x : Coll) : State :=
  if inFlight s fun a => a.gid == collGid x.id then s
  else checkTimelines (modCounts { s with sys := { s.sys with colls := removeAt s.sys.colls k } } x.ctx fun n => { n with coll := n.coll + 1 })

/-- COLL_RETIRE: a collective's buffer is written, and the context's collective timeline rises (R375, R395). -/
def execCollRetire (k : Nat) (s : State) : Out :=
  .next (match s.sys.colls[k]? with
    | none => s
    | some x =>
      match Tbl.get? s.ctxs x.ctx with
      | none => s
      | some c =>
        if x.sent then collPass s k x
        else
          match collWrite c x 0 x.a.count s with
          | none => s
          | some s => collPass { s with sys := { s.sys with colls := modifyAt s.sys.colls k fun x => { x with sent := true } } } k x)

end Sys2Proof.Machine
end

