-- ==== Sys2Proof/Machine/Migrate.lean ====
section
/-! DEFINITION. Migration of a VF between devices (R242, R396). -/

namespace Sys2Proof.Machine

/-! The source. -/

/-- MIG_OUT: the VF's frames are copied, and the ladder runs on every context of it; then what was written since is copied, and the ticket follows (R396;
DESIGN CHOICE, log 142). -/
def execMigOut (h : MbHdr) (vf peer : Nat) (s : State) : Out :=
  command h false (h.fn == 0) (fun s =>
    refuseOr [(vf < 1 || 16 < vf || !(s.sys.links.any fun e => e.2 == peer), 1),
              (!(vfOf s vf).enabled || (Tbl.get? s.sys.migs vf).isSome || (s.sys.ladders.any fun l => l.tgt == .vf vf), 3)]
      (let r := sendFrames (rollback s vf) vf ((vfFrames s vf).map (·.1)) []
       .pend (startLadder r.2 (.vf vf) none (.migrate h.fn peer r.1)))) s

/-- Forget a VF's migration: its contexts run again. -/
def dropMig (s : State) (vf : Nat) : State := { s with sys := { s.sys with migs := Tbl.erase s.sys.migs vf } }

/-- The peer reports its completion, or that it failed; after 1 s without one the VF goes on here (R396). -/
def execMigCompletion (vf : Nat) (ok : Bool) (s : State) : Out :=
  .next (match Tbl.get? s.sys.migs vf with
    | none => s
    | some m =>
      if m.done.isSome then s
      else if ok && s.time ≤ m.started + 1000000000 then setMig s vf { m with done := some true }
      else dropMig s vf)

/-- Everything that a VF holds is free, and the VFs that shared its cores may take their slices (R240, R396): contexts, counters, frames, units, surfaces, grants, queues and worlds; its quotas are those of reset. -/
def freeVf (s : State) (vf : Nat) : State :=
  let s := (vfCtxs s vf).foldl freeContext s
  let s := { s with depcVf := s.depcVf.filter fun e => e.2.toNat != vf + 1 }
  let s := (List.range 16).foldl (fun s u => assignUnit s vf 0 u) s
  let l := (vfFrames s vf).map (·.1)
  let s := freeVfFrames vf l (dropTlb s fun e => (residentFrames s vf l).any fun p => entryInFrame p e)
  let s := { s with pix := { s.pix with surfs := s.pix.surfs.filter (fun e => e.2.fn != vf), cts := s.pix.cts.filter (fun e => e.2.fn != vf),
                                        pqs := s.pix.pqs.filter fun e => e.2.fn != vf } }
  let s := (s.sys.worlds.filter fun e => e.2.vf == vf).foldl (fun s e => dropWorld s e.1) s
  startSlices (setVf s vf fun v => { VfSt.reset with enabled := v.enabled }) vf

/-- MIG_STAT: 0 under way, 1 complete; a VF whose peer has completed is freed (R396). -/
def execMigStat (h : MbHdr) (vf : Nat) (s : State) : Out :=
  command h false (h.fn == 0) (fun s =>
    match Tbl.get? s.sys.migs vf with
    | none => .refuse 3
    | some m => if m.done == some true then .done (freeVf (dropMig s vf) vf) [1] else .done s [0]) s

/-! The peer. -/

/-- What a ticket brings from its source: ticket, counter; none where the migration fails (DESIGN CHOICE, log 2). -/
opaque migImage : BitVec 128 → Nat → Option MigImage

/-- Two tables have no number in common. -/
def disjoint {α β : Type} (a : Tbl α) (b : Tbl β) : Bool := a.all fun e => (Tbl.get? b e.1).isNone

/-- Every live binding of a context names a sequence of 1 to 64 micro-ops in one unit among those given (R322, R323). -/
def bindsSound (units : List Nat) (c : Ctx) : Bool :=
  c.tabs.bind.all fun e => !bindV e.2 ||
    (e.1 < 32 && 1 ≤ bindLen e.2 && bindLen e.2 ≤ 64 && bindStart e.2 / 256 == (bindStart e.2 + bindLen e.2 - 1) / 256
      && units.contains (bindStart e.2 / 256))

/-- The micro-state of a fibre stands inside its sequence, or is stale (R331). -/
def microSound (c : Ctx) (f : Fibre) : Bool :=
  match f.micro with
  | none => true
  | some m => let e := bindOf c m.xi; m.xi < 32 && m.upc < 64 && (!bindV e || bindSer e != m.bser || m.upc < bindLen e)

/-- The fibres of a group of an image stand inside their sequences. -/
def groupSound (m : MigImage) (e : Nat × Group) : Bool :=
  match (Tbl.get? m.blocks (bsnOf e.1)).bind fun b => Tbl.get? m.ctxs b.ctx with
  | some c => e.2.fibres.all fun f => microSound c f.2
  | none => false

/-- The units of an image are no other VF's here, and hold its words. -/
def unitsSound (s : State) (m : MigImage) : Bool :=
  m.units.all (fun u => u < 16 && (match unitVf s (256 * u) with | some v => v == m.vf | none => true))
    && m.wcs.all fun e => m.units.contains (e.1 / 256)

/-- An image is one that this device can hold: fresh numbers, contexts of the VF with cores of its set and bindings in its units, blocks saved, frames of
its worlds. -/
def imageSound (s : State) (m : MigImage) : Bool :=
  1 ≤ m.vf && m.vf ≤ 16 && (vfCtxs s m.vf).isEmpty && (vfFrames s m.vf).isEmpty
    && disjoint m.ctxs s.ctxs && disjoint m.slots s.slots && disjoint m.recs s.recs && disjoint m.launches s.launches
    && disjoint m.blocks s.blocks && disjoint m.groups s.groups && disjoint m.passes s.passes && disjoint m.worlds s.sys.worlds
    && Tbl.wf m.ctxs && Tbl.wf m.slots && Tbl.wf m.recs && Tbl.wf m.launches && Tbl.wf m.blocks && Tbl.wf m.groups && Tbl.wf m.saves
    && Tbl.wf m.passes && Tbl.wf m.worlds && Tbl.wf m.keys && SMap.wf m.wcs && unitsSound s m
    && m.ctxs.all (fun e => e.1 < 4096 && e.2.vf == m.vf && e.2.cores.all (coreAllowed s m.vf) && bindsSound m.units e.2
      && (e.2.world == 0 || (Tbl.get? m.worlds e.2.world).isSome))
    && m.blocks.all (fun e => e.2.saved && (Tbl.get? m.ctxs e.2.ctx).isSome) && m.groups.all (groupSound m)
    && m.slots.all (fun e => e.1 < 1024 && e.2.vf == m.vf) && m.worlds.all (fun e => 1 ≤ e.1 && e.1 ≤ 62 && e.2.vf == m.vf)
    && m.frames.all fun f => (f.2.world == 0 || (Tbl.get? m.worlds f.2.world).isSome) && SMap.wf f.2.plain && f.2.plain.all fun e => e.1 < 32768

/-- Install frames: allot each and put its bytes. -/
def installFrames (vf : Nat) (l : Tbl Paged) (s : State) : Option State :=
  match l with
  | [] => some s
  | f :: r =>
    match allotFrames vf f.2.world [f.1] s with
    | .done s _ =>
      let pfn := (frameEntry s vf f.1).2
      let bytes := f.2.plain.map fun e => (pfn * 32768 + e.1, e.2)
      installFrames vf r { s with mem := { s.mem with loc := putRange s.mem.loc (pfn * 32768) 32768 bytes } }
    | _ => none

/-- A VF takes control store units, with the words given for them (R322, R396). -/
def takeUnits (s : State) (vf : Nat) (units : List Nat) (ws : SMap 64) : State :=
  { s with wcsUnits := units.foldl (fun m u => SMap.set m u (BitVec.ofNat 16 (128 + vf))) s.wcsUnits,
           wcs := setAll (SMap.keep s.wcs fun a => !units.contains (a / 256)) ws }

/-- Install a VF (R154, R396): its settings with the TIME offset that keeps its readings rising, its tables, its frames. -/
def installVf (s : State) (m : MigImage) : Option State :=
  (installFrames m.vf m.frames (setVf s m.vf fun v =>
      { m.st with enabled := v.enabled, cores := v.cores, hf := 0, sliceEnd := none, timeOff := m.last - s.time })).map fun s =>
    let s := takeUnits s m.vf m.units m.wcs
    { s with
      ctxs := setAll s.ctxs m.ctxs, slots := setAll s.slots m.slots, recs := setAll s.recs m.recs, launches := setAll s.launches m.launches,
      blocks := setAll s.blocks m.blocks, groups := setAll s.groups m.groups, saves := setAll s.saves m.saves,
      passes := setAll s.passes m.passes, sealKeys := setAll s.sealKeys m.keys,
      nextRec := max s.nextRec (Tbl.next m.recs), nextBsn := max s.nextBsn (Tbl.next m.blocks),
      nextLaunch := max s.nextLaunch (Tbl.next m.launches),
      sys := { s.sys with worlds := setAll s.sys.worlds m.worlds, spdm := Tbl.set s.sys.spdm m.vf m.spdm } }

/-- MIG_IN: the VF that the ticket names comes over the fabric and is installed; its contexts go on (R396). (DESIGN CHOICE, log 100) -/
def execMigIn (h : MbHdr) (ticket : BitVec 128) (s : State) : Out :=
  command h false (h.fn == 0) (fun s =>
    let s1 := { s with freeCtr := s.freeCtr + 1 }
    match migImage ticket s.freeCtr with
    | none => .refuse 8
    | some m =>
      if !imageSound s1 m || !(vfOf s m.vf).enabled then .refuse 3
      else match installVf s1 m with | some s => .done (startSlices s m.vf) [ans m.vf] | none => .refuse 4) s

end Sys2Proof.Machine
end

