-- ==== Sys2Proof/Machine/Boot.lean ====
section
/-! DEFINITION. What the schedule may hold, and one group of the PF placed at given bytes: the load that stands for a program (DESIGN CHOICE, log 6). -/

namespace Sys2Proof.Machine

/-- An entry of the schedule may be an event or a command, never an instruction or a micro-op, which only their fetch issues. -/
def scheduled (i : Instr) : Bool :=
  match i with
  | .reservedMajor _ _ _ => false
  | .refusedWord _ => false
  | i => (encode i).isEmpty && (encodeUop i).isNone

/-- The kernel record that the placed group runs. -/
def loadKernel : KRec :=
  { entry := 0, width := 64, vregs := 64, pool := 0, scratch := 0, shared := 0, bcores := 1, bgrp := 1, ndim := 1, threads := 0, ext := (1, 1, 1),
    tlines := 0, tways := 0, dep := [] }

/-- The descriptor of the launch whose point the group runs: its code is at 0x8000. -/
def loadDesc : Desc := { kr := loadKernel, code := 0x8000, cca := 0, logb := 0, logsz := 0, arg0 := 0, arg1 := 0, arg2 := 0 }

/-- Its handler kernel begins at the same code. -/
def loadHandler : HandlerKernel := { entry := 0x8000, width := 16, vregs := 16, pool := 0, scratch := 0, shared := 0, tlines := 0, tways := 0 }

/-- A context of the PF on core 0, its page table at 0x80000. -/
def loadCtx : Ctx :=
  { newCtx { vf := 0, world := 0, oid := 0, u := 64, cores := [0], handler := some loadHandler, saveArea := 0, frontierBytes := 0 } with tbase := 0x80000 }

/-- Page tables of one page: virtual 0x8000 at physical 0x88000, executable, and the code bytes there. -/
def loadMem (m : SMap 8) (code : List Byte) : SMap 8 :=
  SMap.setList (wrNat (wrNat (wrNat (wrNat m 0x80000 8 0x81001) 0x81000 8 0x82001) 0x82000 8 0x83001) 0x83008 8 0x88113) 0x88000 code

/-- The placed group: one runnable fibre of 64 lanes, in an active slot of core 0's partition 0. -/
def loadGroup (at_ : Nat) : Group :=
  { newGroup 64 64 0x8000 (lanesOf 64) [] { core := 0, part := 0, slot := some 0 } at_ with cur := some 0 }

/-- The partition's port holds its burst reservation, so that no grant is awaited. -/
def loadBurst (c : Cluster) (gid : Nat) : Cluster :=
  { c with res := [{ who := .vector 0 0, ctx := 0, gid := gid, want := 0, held := 2, asked := 0, full := 0, ended := false }] }

/-- A state in which the next step fetches the code bytes and runs the instruction they begin with. -/
def loadCode (s : State) (code : List Byte) : State :=
  let bsn := s.nextBsn
  let lid := s.nextLaunch
  let s := setPot (setPot s 16 { vf := 0, state := 1, world := 0 }) 17 { vf := 0, state := 1, world := 0 }
  let s := modCluster s 0 fun c => loadBurst c (256 * bsn)
  let b := newBlock 0 (.point lid 0) (0, 0, 0) none loadKernel.foot [0]
  { s with
    agenda := [], ready := [256 * bsn],
    mem := { s.mem with loc := loadMem s.mem.loc code, tlb := Tbl.erase s.mem.tlb 0,
                        cache := s.mem.cache.filter (fun e => e.1 / 256 != 16 && e.1 / 256 != 17),
                        poison := s.mem.poison.filter fun e => e.1 / 256 != 16 && e.1 / 256 != 17 },
    ctxs := Tbl.set s.ctxs 0 loadCtx,
    launches := Tbl.set s.launches lid (newLaunch 0 0 0 0 loadDesc 0 none []), nextLaunch := lid + 1,
    blocks := Tbl.set s.blocks bsn b, nextBsn := bsn + 1,
    groups := Tbl.set s.groups (256 * bsn) (loadGroup s.steps) }

/-- Go on from what an instruction leaves. -/
def after (o : Out) (f : State → State) : Out :=
  match o with
  | .next s => .next (f s)
  | .fault r => .fault r
  | .refused r => .refused r

/-- Count a step. (DESIGN CHOICE, log 107) -/
def tickStep (s : State) : State := { s with steps := s.steps + 1 }

end Sys2Proof.Machine
end

