-- ==== Sys2Proof/Machine/Atomics.lean ====
section
/-! DEFINITION. Atomics, deterministic atomic adds, multicast and reducing stores (R170 to R177). -/

namespace Sys2Proof.Machine

/-! Atomics (R170). -/

/-- CMP of a lane: the prefix's D, 0 without a prefix (R170). -/
def MemJob.cmp (j : MemJob) (h : Here) (lane : Nat) : Nat :=
  match j.pfx with
  | some q => if j.cas then selLane h j.pfx j.ty q.d lane else 0
  | none => 0

/-- An atomic on scratchpad bytes, in ascending lane order. -/
def scratchAtomic (j : MemJob) (op : AtmOp) (s : State) (h : Here) (l : LaneOk) : State :=
  let n := j.ty.bytes
  let old := leNat (readScratch s h.gid l.ea n)
  let new := atmNew op j.ty old (j.data h l.lane % 2 ^ j.ty.width) (j.cmp h l.lane % 2 ^ j.ty.width)
  let s := writeScratch s h.gid l.ea (natLE n new)
  returnData s h.gid (some { reg := .vec (h.f.wb * 8 + j.vd.toNat) l.lane, off := 0, size := n, sext := false }) (natLE n old)

/-- The effect of an atomic: in flight in virtual memory, at once in the scratchpad. -/
def atomicEffect (j : MemJob) (op : AtmOp) (s : State) (h : Here) (oks : List LaneOk) : State :=
  if j.sp then oks.foldl (fun s l => scratchAtomic j op s h l) s
  else
    pushPend s (oks.flatMap fun l =>
      laneAccs s h l.lane
        (fun _ => .rmw op j.ty (BitVec.ofNat 64 (j.data h l.lane)) (BitVec.ofNat 64 (j.cmp h l.lane)))
        (fun _ => some { reg := .vec (h.f.wb * 8 + j.vd.toNat) l.lane, off := 0, size := j.ty.bytes, sext := false }) l.parts)

/-- An atomic instruction (R170). -/
def atomicRun (op : AtmOp) (spec : MemSpec) (f : MFmt) (s : State) : Out :=
  let j := jobM spec f true true true true
  memRun j j.ty.needsFull (fun s h oks => atomicEffect j op s h oks) s

/-- `atm.add` (R170). -/
def execAtmAdd (f : MFmt) (s : State) : Out := atomicRun .add atmSpec f s
/-- `atm.min` (R170). -/
def execAtmMin (f : MFmt) (s : State) : Out := atomicRun .min atmSpec f s
/-- `atm.max` (R170). -/
def execAtmMax (f : MFmt) (s : State) : Out := atomicRun .max atmSpec f s
/-- `atm.and` (R170). -/
def execAtmAnd (f : MFmt) (s : State) : Out := atomicRun .and atmSpec f s
/-- `atm.or` (R170). -/
def execAtmOr (f : MFmt) (s : State) : Out := atomicRun .or atmSpec f s
/-- `atm.xor` (R170). -/
def execAtmXor (f : MFmt) (s : State) : Out := atomicRun .xor atmSpec f s
/-- `atm.xchg` (R170). -/
def execAtmXchg (f : MFmt) (s : State) : Out := atomicRun .xchg xchgSpec f s
/-- `atm.cas` (R170). -/
def execAtmCas (f : MFmt) (s : State) : Out := atomicRun .cas casSpec f s
/-- `atm.fadd` (R170). -/
def execAtmFadd (f : MFmt) (s : State) : Out := atomicRun .fadd faddSpec f s

/-! Deterministic atomic adds (R171, R172). -/

/-- A contribution's 32-byte record (R172). -/
def contribBytes (c : Contrib) : List Byte :=
  natLE 32 ((if c.f64 then 1 else 0) + c.world % 64 * 2 ^ 8 + c.pa % 2 ^ 64 * 2 ^ 64 + c.seq % 2 ^ 18 * 2 ^ 128
    + c.lrank % 2 ^ 14 * 2 ^ 146 + c.prank % 2 ^ 32 * 2 ^ 160 + c.value.toNat * 2 ^ 192)

/-- What a lane's contribution comes to. -/
inductive Logged where
  | ok (s : State)
  /-- the lane faults: code, subcode, address -/
  | bad (code sub addr : Nat)
  /-- a page-in is awaited -/
  | wait

/-- Record `n` of a launch's log is written in the memory of the launch's world: at once, or, on a peer page, as a store of the lane; a translation that
fails faults the lane (DEDUCED, log 14). -/
def writeLog (s : State) (h : Here) (lane logb n : Nat) (c : Contrib) : Logged :=
  let va := logb + 32 * n
  match translate s h.core h.cid h.c va true false with
  | (.fault code sub, _) => .bad code sub va
  | (.wait _, _) => .wait
  | (.ok e, s) =>
    let p := partOf e va 0 32
    match p.space with
    | .peer _ =>
      if ackRoom s h.cid 1 then .ok (pushPend s [.acc (accOf h lane s.steps (.store (contribBytes c)) none p)]) else .wait
    | sp => .ok (writeFor s h.cid sp p.pa p.vpa (contribBytes c))

/-- One lane's contribution, or det-log-full (R171, R172). A block of no launch has no log, and its lanes fault so (DESIGN CHOICE, log 120). -/
def contribute (j : MemJob) (s : State) (h : Here) (l : LaneOk) : Logged :=
  let full := Logged.bad 0x026 0 l.ea
  match pointOf h.b, l.parts with
  | some (lid, rank), p :: _ =>
    match Tbl.get? s.launches lid with
    | none => full
    | some la =>
      let n := la.log.length
      let seq := (SMap.get h.g.contrib l.lane).toNat
      if la.desc.logsz < 32 * (n + 1) || 262143 ≤ seq then full
      else
        let v := j.data h l.lane % 2 ^ j.ty.width
        let c : Contrib :=
          { prank := rank, lrank := gidxOf h.gid * h.g.w + l.lane, seq := seq, pa := p.pa,
            peer := (match p.space with | .peer k => some k | _ => none), host := p.space == .host,
            world := p.world, f64 := j.ty.wide, value := BitVec.ofNat 64 v, vpa := p.vpa }
        match writeLog s h l.lane la.desc.logb.toNat n c with
        | .ok s =>
          let s := { s with launches := Tbl.modify s.launches lid fun la => { la with log := la.log ++ [c] } }
          .ok (modGroup s h.gid fun g => { g with contrib := SMap.set g.contrib l.lane (BitVec.ofNat 18 (seq + 1)) })
        | x => x
  | _, _ => full

/-- Contributions of the lanes that passed, in ascending order; those that fail are added to the failing ones; none where one waits. -/
def contributeAll (j : MemJob) (h : Here) (oks : List LaneOk) (s : State) (bads : List LaneBad) : Option (State × List LaneBad) :=
  match oks with
  | [] => some (s, bads)
  | l :: r =>
    match contribute j s h l with
    | .ok s => contributeAll j h r s bads
    | .bad c b a => contributeAll j h r s (bads ++ [⟨l.lane, c, b, a⟩])
    | .wait => none

/-- The failing lane of least number. -/
def lowestBad (l : List LaneBad) : List LaneBad :=
  l.foldl (fun acc b => match acc with | [] => [b] | x :: r => if b.lane < x.lane then b :: x :: r else x :: (r ++ [b])) []

/-- `atm.fadd.det` (R171). -/
def execAtmFaddDet (f : MFmt) (s : State) : Out :=
  let j := jobM detSpec f true false true true
  issue s fun h =>
    let n := j.named h
    checked s h j.causes j.ty.needsFull j.msk j.len
      (if outOfWindow h n then raiseA s h j.msk j.len 0x002 0
       else if badLatch h n then raiseA s h j.msk j.len 0x003 0
       else withRegs s h n fun s h =>
        let r := j.scan s h
        if r.wait || rangeBusy s h ((laneList (h.act j.msk)).map fun l => (false, j.ea h l, j.ty.bytes)) then s
        else
          match contributeAll j h r.oks r.s r.bads with
          | none => s
          | some x => parkBads x.1 h j.len (lowestBad x.2))

/-! Multicast and reducing stores (R175 to R177). -/

/-- The multicast word: destinations minus 1, operation, stride (R175). -/
def mcCnt (w : Nat) : Nat := w % 8
/-- OP. -/
def mcOp (w : Nat) : Nat := w / 64 % 4
/-- STRIDE. -/
def mcStride (w : Nat) : Int := let x : Nat := w / 2 ^ 24 % 2 ^ 40; if 2 ^ 39 ≤ x then (x : Int) - 2 ^ 40 else (x : Int)

/-- The word breaks the constraints of R175. -/
def mcBreach (red : Bool) (t : Ty) (w : Nat) : Bool :=
  w / 2 ^ 8 % 2 ^ 16 != 0 || w / 8 % 8 != 0 || (!red && mcOp w != 0)
    || (red && (if mcOp w = 3 then !t.isFp else t.isFp))

/-- The atomic that OP names. -/
def mcAtm (w : Nat) : AtmOp :=
  match mcOp w with
  | 0 => .add
  | 1 => .min
  | 2 => .max
  | _ => .fadd

/-- The destinations of a lane: addresses. -/
def mcDests (w ea : Nat) : List Nat :=
  (List.range (mcCnt w + 1)).map fun i => (((ea : Int) + i * mcStride w) % (2 : Int) ^ 64).toNat

/-- What the destinations of the lanes answer: accesses, and per failing lane its first fault and its bitmap. -/
structure McScan where
  s : State
  accs : List Pend
  bads : List LaneBad
  wait : Bool

/-- Note a failed destination: the first of a lane gives the cause and address, each sets its bit. -/
def mcFail (l : List LaneBad) (lane i code addr : Nat) : List LaneBad :=
  if l.any (fun b => b.lane == lane) then l.map fun b => if b.lane = lane then { b with sub := b.sub + 2 ^ i } else b
  else l ++ [⟨lane, code, 2 ^ i, addr⟩]

/-- Check and gather the destinations of one lane. -/
def mcLane (h : Here) (red : Bool) (j : MemJob) (w lane : Nat) (l : List (Nat × Nat)) (r : McScan) : McScan :=
  match l with
  | [] => r
  | (i, a) :: t =>
    match checkOne r.s h false red red true j.ty.bytes a with
    | (.ok ps, s) =>
      let op := fun p => if red then AccOp.rmw (mcAtm w) j.ty (BitVec.ofNat 64 (j.data h lane)) 0 else .store (partBytes (j.data h lane) p)
      mcLane h red j w lane t { r with s := s, accs := r.accs ++ laneAccs s h lane op (fun _ => none) ps }
    | (.fault c _ ad, s) => mcLane h red j w lane t { r with s := s, bads := mcFail r.bads lane i c ad }
    | (.wait, s) => mcLane h red j w lane t { r with s := s, wait := true }

/-- The destinations of every lane, ascending. -/
def mcLanes (h : Here) (red : Bool) (j : MemJob) (w : Nat) (lanes : List Nat) (r : McScan) : McScan :=
  match lanes with
  | [] => r
  | l :: t => mcLanes h red j w t (mcLane h red j w l ((List.range 8).zip (mcDests w (j.ea h l))) r)

/-- The lanes that failed park after the instruction (R177). -/
def parkAfter (s : State) (h : Here) (len : Nat) (l : List LaneBad) : State :=
  match l with
  | [] => h.advance s len
  | b :: _ =>
    let next := h.f.pc + BitVec.ofNat 64 len
    takeTrap (h.advance s len) h (badSet l) next h.f.pc 1 b.code b.sub (BitVec.ofNat 64 b.addr) h.f.micro

/-- Accesses of a list that leave for a peer. -/
def peerCount (l : List Pend) : Nat := (l.filter fun p => match p with | .acc a => a.isPeer | _ => false).length

/-- A multicast or reducing store (R175 to R177); it stalls without room for its writes to peers in the acknowledgement counter (R351).
(DEDUCED, log 26) -/
def mcRun (red : Bool) (spec : MemSpec) (f : MFmt) (s : State) : Out :=
  let j := jobM spec f red red true true
  issue s fun h =>
    let n := (j.named h).and { sregs := [scalarNo f.pfx f.a + 1] }
    checked s h j.causes j.ty.needsFull j.msk j.len
      (if outOfWindow h n then raiseA s h j.msk j.len 0x002 0
       else if badLatch h n then raiseA s h j.msk j.len 0x003 0
       else withRegs s h n fun s h =>
        let w := (getSreg h.g (scalarNo f.pfx f.a + 1)).toNat
        if mcBreach red j.ty w then raiseA s h j.msk j.len 0x006 0
        else
          let lanes := laneList (h.act j.msk)
          let r := mcLanes h red j w lanes { s := s, accs := [], bads := [], wait := false }
          if r.wait || rangeBusy s h (lanes.flatMap fun l => (mcDests w (j.ea h l)).map fun a => (false, a, j.ty.bytes)) then s
          else if peerCount r.accs != 0 && !ackRoom r.s h.cid (peerCount r.accs) then r.s
          else parkAfter (pushPend r.s r.accs) h j.len r.bads)

/-- `st.mc` (R175, R176). -/
def execStMc (f : MFmt) (s : State) : Out := mcRun false stMcSpec f s
/-- `st.red` (R175, R176). -/
def execStRed (f : MFmt) (s : State) : Out := mcRun true stRedSpec f s

end Sys2Proof.Machine
end

