-- ==== Sys2Proof/Machine/Cross.lean ====
section
/-! DEFINITION. The cross-lane instructions (R35, R112 to R114). -/

namespace Sys2Proof.Machine

/-- `vperm`: A of the lane that B names, mod W (R112). -/
def execVperm (f : VFmt) (s : State) : Out :=
  let j := jobV permSpec f
  laneRun s j noImage fun _ _ x l => x.a (x.b l % x.w)

/-- The source lane of a shift (R113). -/
def shfLane (mode o w l : Nat) : Nat :=
  match mode with
  | 0 => (l + o) % w
  | 1 => l ^^^ o
  | 2 => if o ≤ l then l - o else l
  | _ => if l + o < w then l + o else l

/-- The job of `vshf`. -/
def jobShf (f : UNFmt) : LaneJob :=
  let t := tyOf .n32 f.pfx
  { causes := shfCauses f, svc := t.needsFull, pfx := f.pfx, len := lenOf f.pfx, ta := t, tb := t, tc := t, td := t, nb := t,
    a := f.a, b := none, c := none, vd := f.vd, nw := f.nw, sel := false }

/-- `vshf`: an offset below 1 at the group's W is illegal (R113). -/
def execVshf (f : UNFmt) (s : State) : Out :=
  let j := jobShf f
  let k := f.fn.toNat % 8
  issue s fun h =>
    checked s h (j.causes ++ cause (h.g.w / 2 ^ k == 0) 4) j.svc j.msk j.len
      (laneChecks j s h true none fun s h =>
        laneFinish j s h fun l => (j.src s h).a (shfLane (f.fn.toNat / 64) (h.g.w / 2 ^ k) h.g.w l))

/-- One level of the tree: neighbours combined, the lower first (R35). -/
def pairUp (op : Nat → Nat → Nat) (l : List Nat) : List Nat :=
  match l with
  | x :: y :: r => op x y :: pairUp op r
  | l => l

/-- The tree over at most 2 ^ n values (R35). -/
def treeOf (op : Nat → Nat → Nat) (l : List Nat) (n : Nat) : Nat :=
  match n with
  | 0 => l.headD 0
  | n + 1 => treeOf op (pairUp op l) n

/-- The operations of `vred`. -/
inductive RedOp where
  | sum | max | min
  deriving DecidableEq, Repr

/-- The identity of an operation at a type (R35). -/
def redIdentity (o : RedOp) (t : Ty) : Nat :=
  match o with
  | .sum => if t.isFp then (fmtOf t).zero true else 0
  | .max => if t.isFp then (fmtOf t).infBits true else wrapN t.width (tyMin t)
  | .min => if t.isFp then (fmtOf t).infBits false else wrapN t.width (tyMax t)

/-- One node. -/
def redNode (o : RedOp) (t : Ty) (r : Rnd) (a b : Nat) : Nat :=
  if t.isFp then
    match o with
    | .sum => (fmtOf t).add r a b
    | .max => (fmtOf t).max a b
    | .min => (fmtOf t).min a b
  else
    match o with
    | .sum => intAdd t a b 0
    | .max => intMax t a b 0
    | .min => intMin t a b 0

/-- A reduction over the W lanes, each element position its own tree (R35, R114). -/
def reduce (o : RedOp) (t : Ty) (r : Rnd) (x : Src) : Nat :=
  treeOf (fun a b => perElem t.width (fun a b _ => redNode o t r a b) a b 0)
    ((List.range x.w).map fun l => if inSet x.act l then x.a l else pack t.width (redIdentity o t)) 6

/-- A reduction, written to every active lane (R114). -/
def redRun (o : RedOp) (f : UFmt) (s : State) : Out :=
  let j := jobU redSpec f
  issue s fun h =>
    checked s h j.causes j.svc j.msk j.len
      (laneChecks j s h true none fun s h =>
        let v := reduce o j.td (rndFor .rne f.pfx) (j.src s h)
        laneFinish j s h fun _ => v)

/-- `vred.sum` (R114). -/
def execVredSum (f : UFmt) (s : State) : Out := redRun .sum f s
/-- `vred.max` (R114). -/
def execVredMax (f : UFmt) (s : State) : Out := redRun .max f s
/-- `vred.min` (R114). -/
def execVredMin (f : UFmt) (s : State) : Out := redRun .min f s

end Sys2Proof.Machine
end

