-- ==== Sys2Proof/Machine/MaskOps.lean ====
section
/-! DEFINITION. The mask instructions `kop` (R80, R104). -/

namespace Sys2Proof.Machine

/-- A mask operation that writes kd (R104). -/
def kRun (fn : Nat) (f : KFmt) (n : Here → Named) (v : Here → W64) (s : State) : Out :=
  let len := lenOf f.pfx
  issue s fun h =>
    checked s h (kCauses fn f) false 0 len
      (if outOfWindow h (n h) then raiseA s h 0 len 0x002 0
       else if badLatch h (n h) then raiseA s h 0 len 0x003 0
       else withRegs s h (n h) fun s h => h.advance (modGroup s h.gid fun g => setMask g f.kd.toNat (v h)) len)

/-- A mask operation on two masks. -/
def kBin (fn : Nat) (op : W64 → W64 → W64) (f : KFmt) (s : State) : Out :=
  kRun fn f (fun _ => {}) (fun h => op (h.g.maskOf f.ka.toNat) (h.g.maskOf (f.s.toNat % 8))) s

/-- `kand` (R104). -/
def execKand (f : KFmt) (s : State) : Out := kBin 0 (fun a b => a &&& b) f s
/-- `kor` (R104). -/
def execKor (f : KFmt) (s : State) : Out := kBin 1 (fun a b => a ||| b) f s
/-- `kxor` (R104). -/
def execKxor (f : KFmt) (s : State) : Out := kBin 2 (fun a b => a ^^^ b) f s
/-- `kandn` (R104). -/
def execKandn (f : KFmt) (s : State) : Out := kBin 3 (fun a b => a &&& ~~~b) f s
/-- `knot` (R104). -/
def execKnot (f : KFmt) (s : State) : Out := kRun 4 f (fun _ => {}) (fun h => ~~~(h.g.maskOf f.ka.toNat)) s

/-- `kfromv`: bit 0 of each lane of PRED; other bits of kd stay (R104). -/
def execKfromv (f : KFmt) (s : State) : Out :=
  kRun 5 f (fun h => nameSel h f.pfx false f.s)
    (fun h => laneSet h.g.w fun l =>
      if inSet h.f.pred l then (selLane h f.pfx .n32 f.s l) % 2 == 1 else inSet (h.g.maskOf f.kd.toNat) l) s

/-- `kfroms` (R104). -/
def execKfroms (f : KFmt) (s : State) : Out :=
  kRun 6 f (fun _ => { sregs := scalarNos f.pfx f.s }) (fun h => uniVal h.g f.pfx f.s) s

/-- `ktos` (R104). -/
def execKtos (f : KFmt) (s : State) : Out :=
  scalarRun (kCauses 7 f) (lenOf f.pfx) {} (BitVec.ofNat 8 (scalarNo f.pfx f.s)) (fun h => h.g.maskOf f.ka.toNat) s

end Sys2Proof.Machine
end

