-- ==== Sys2Proof/Machine/Dispatch.lean ====
section
/-! DEFINITION. Dispatch: one arm per constructor of `Instr`. -/

namespace Sys2Proof.Machine

/-- What an instruction, micro-op, command or event does. -/
def exec (i : Instr) (s : State) : Host.Outcome State Fault Refusal :=
  match i with
  | .vadd f => Sys2Proof.Machine.execVadd f s
  | .vsub f => Sys2Proof.Machine.execVsub f s
  | .vmul f => Sys2Proof.Machine.execVmul f s
  | .vmulh f => Sys2Proof.Machine.execVmulh f s
  | .vmad f => Sys2Proof.Machine.execVmad f s
  | .vmin f => Sys2Proof.Machine.execVmin f s
  | .vmax f => Sys2Proof.Machine.execVmax f s
  | .vabsd f => Sys2Proof.Machine.execVabsd f s
  | .vand f => Sys2Proof.Machine.execVand f s
  | .vor f => Sys2Proof.Machine.execVor f s
  | .vxor f => Sys2Proof.Machine.execVxor f s
  | .vandn f => Sys2Proof.Machine.execVandn f s
  | .vshl f => Sys2Proof.Machine.execVshl f s
  | .vshr f => Sys2Proof.Machine.execVshr f s
  | .vsra f => Sys2Proof.Machine.execVsra f s
  | .vrot f => Sys2Proof.Machine.execVrot f s
  | .vadds f => Sys2Proof.Machine.execVadds f s
  | .vsubs f => Sys2Proof.Machine.execVsubs f s
  | .vcmp f => Sys2Proof.Machine.execVcmp f s
  | .vbfx f => Sys2Proof.Machine.execVbfx f s
  | .vbfi f => Sys2Proof.Machine.execVbfi f s
  | .vsel f => Sys2Proof.Machine.execVsel f s
  | .vrq f => Sys2Proof.Machine.execVrq f s
  | .vaddr f => Sys2Proof.Machine.execVaddr f s
  | .vfadd f => Sys2Proof.Machine.execVfadd f s
  | .vfsub f => Sys2Proof.Machine.execVfsub f s
  | .vfmul f => Sys2Proof.Machine.execVfmul f s
  | .vfma f => Sys2Proof.Machine.execVfma f s
  | .vfms f => Sys2Proof.Machine.execVfms f s
  | .vfmin f => Sys2Proof.Machine.execVfmin f s
  | .vfmax f => Sys2Proof.Machine.execVfmax f s
  | .vfdiv f => Sys2Proof.Machine.execVfdiv f s
  | .vfcmp f => Sys2Proof.Machine.execVfcmp f s
  | .vfdp2 f => Sys2Proof.Machine.execVfdp2 f s
  | .vfsgn f => Sys2Proof.Machine.execVfsgn f s
  | .vperm f => Sys2Proof.Machine.execVperm f s
  | .vmov f => Sys2Proof.Machine.execVmov f s
  | .vnot f => Sys2Proof.Machine.execVnot f s
  | .vneg f => Sys2Proof.Machine.execVneg f s
  | .vabs f => Sys2Proof.Machine.execVabs f s
  | .vpopc f => Sys2Proof.Machine.execVpopc f s
  | .vclz f => Sys2Proof.Machine.execVclz f s
  | .vctz f => Sys2Proof.Machine.execVctz f s
  | .vbrev f => Sys2Proof.Machine.execVbrev f s
  | .vfneg f => Sys2Proof.Machine.execVfneg f s
  | .vfabs f => Sys2Proof.Machine.execVfabs f s
  | .vfsqrt f => Sys2Proof.Machine.execVfsqrt f s
  | .vfrnd f => Sys2Proof.Machine.execVfrnd f s
  | .vcvt f => Sys2Proof.Machine.execVcvt f s
  | .vsfuSin f => Sys2Proof.Machine.execVsfuSin f s
  | .vsfuCos f => Sys2Proof.Machine.execVsfuCos f s
  | .vsfuExp2 f => Sys2Proof.Machine.execVsfuExp2 f s
  | .vsfuLog2 f => Sys2Proof.Machine.execVsfuLog2 f s
  | .vsfuRcp f => Sys2Proof.Machine.execVsfuRcp f s
  | .vsfuRsqrt f => Sys2Proof.Machine.execVsfuRsqrt f s
  | .vredSum f => Sys2Proof.Machine.execVredSum f s
  | .vredMax f => Sys2Proof.Machine.execVredMax f s
  | .vredMin f => Sys2Proof.Machine.execVredMin f s
  | .vshf f => Sys2Proof.Machine.execVshf f s
  | .cAdd f => Sys2Proof.Machine.execCAdd f s
  | .cSub f => Sys2Proof.Machine.execCSub f s
  | .cMul f => Sys2Proof.Machine.execCMul f s
  | .cAnd f => Sys2Proof.Machine.execCAnd f s
  | .cOr f => Sys2Proof.Machine.execCOr f s
  | .cXor f => Sys2Proof.Machine.execCXor f s
  | .cShl f => Sys2Proof.Machine.execCShl f s
  | .cShr f => Sys2Proof.Machine.execCShr f s
  | .cMov f => Sys2Proof.Machine.execCMov f s
  | .cFadd f => Sys2Proof.Machine.execCFadd f s
  | .cFsub f => Sys2Proof.Machine.execCFsub f s
  | .cFmul f => Sys2Proof.Machine.execCFmul f s
  | .cFmin f => Sys2Proof.Machine.execCFmin f s
  | .cFmax f => Sys2Proof.Machine.execCFmax f s
  | .cMin f => Sys2Proof.Machine.execCMin f s
  | .cMax f => Sys2Proof.Machine.execCMax f s
  | .sadd f => Sys2Proof.Machine.execSadd f s
  | .ssub f => Sys2Proof.Machine.execSsub f s
  | .smul f => Sys2Proof.Machine.execSmul f s
  | .smulh f => Sys2Proof.Machine.execSmulh f s
  | .sand f => Sys2Proof.Machine.execSand f s
  | .sor f => Sys2Proof.Machine.execSor f s
  | .sxor f => Sys2Proof.Machine.execSxor f s
  | .sshl f => Sys2Proof.Machine.execSshl f s
  | .sshr f => Sys2Proof.Machine.execSshr f s
  | .ssra f => Sys2Proof.Machine.execSsra f s
  | .smin f => Sys2Proof.Machine.execSmin f s
  | .smax f => Sys2Proof.Machine.execSmax f s
  | .sseq f => Sys2Proof.Machine.execSseq f s
  | .ssne f => Sys2Proof.Machine.execSsne f s
  | .sslt f => Sys2Proof.Machine.execSslt f s
  | .ssle f => Sys2Proof.Machine.execSsle f s
  | .srdl f => Sys2Proof.Machine.execSrdl f s
  | .swrl f => Sys2Proof.Machine.execSwrl f s
  | .sli f => Sys2Proof.Machine.execSli f s
  | .slih f => Sys2Proof.Machine.execSlih f s
  | .smov f => Sys2Proof.Machine.execSmov f s
  | .snot f => Sys2Proof.Machine.execSnot f s
  | .sneg f => Sys2Proof.Machine.execSneg f s
  | .spopc f => Sys2Proof.Machine.execSpopc f s
  | .sclz f => Sys2Proof.Machine.execSclz f s
  | .sctz f => Sys2Proof.Machine.execSctz f s
  | .kand f => Sys2Proof.Machine.execKand f s
  | .kor f => Sys2Proof.Machine.execKor f s
  | .kxor f => Sys2Proof.Machine.execKxor f s
  | .kandn f => Sys2Proof.Machine.execKandn f s
  | .knot f => Sys2Proof.Machine.execKnot f s
  | .kfromv f => Sys2Proof.Machine.execKfromv f s
  | .kfroms f => Sys2Proof.Machine.execKfroms f s
  | .ktos f => Sys2Proof.Machine.execKtos f s
  | .ld f => Sys2Proof.Machine.execLd f s
  | .st f => Sys2Proof.Machine.execSt f s
  | .sld f => Sys2Proof.Machine.execSld f s
  | .sst f => Sys2Proof.Machine.execSst f s
  | .pf f => Sys2Proof.Machine.execPf f s
  | .stMc f => Sys2Proof.Machine.execStMc f s
  | .stRed f => Sys2Proof.Machine.execStRed f s
  | .spLook f => Sys2Proof.Machine.execSpLook f s
  | .atmAdd f => Sys2Proof.Machine.execAtmAdd f s
  | .atmMin f => Sys2Proof.Machine.execAtmMin f s
  | .atmMax f => Sys2Proof.Machine.execAtmMax f s
  | .atmAnd f => Sys2Proof.Machine.execAtmAnd f s
  | .atmOr f => Sys2Proof.Machine.execAtmOr f s
  | .atmXor f => Sys2Proof.Machine.execAtmXor f s
  | .atmXchg f => Sys2Proof.Machine.execAtmXchg f s
  | .atmCas f => Sys2Proof.Machine.execAtmCas f s
  | .atmFadd f => Sys2Proof.Machine.execAtmFadd f s
  | .atmFaddDet f => Sys2Proof.Machine.execAtmFaddDet f s
  | .fence f => Sys2Proof.Machine.execFence f s
  | .fibFork f => Sys2Proof.Machine.execFibFork f s
  | .br f => Sys2Proof.Machine.execBr f s
  | .brn f => Sys2Proof.Machine.execBrn f s
  | .call f => Sys2Proof.Machine.execCall f s
  | .fibJoin f => Sys2Proof.Machine.execFibJoin f s
  | .fibExit f => Sys2Proof.Machine.execFibExit f s
  | .fibYield f => Sys2Proof.Machine.execFibYield f s
  | .ret f => Sys2Proof.Machine.execRet f s
  | .brInd f => Sys2Proof.Machine.execBrInd f s
  | .callInd f => Sys2Proof.Machine.execCallInd f s
  | .nop f => Sys2Proof.Machine.execNop f s
  | .sysRd f => Sys2Proof.Machine.execSysRd f s
  | .sysWr f => Sys2Proof.Machine.execSysWr f s
  | .trap f => Sys2Proof.Machine.execTrap f s
  | .sig f => Sys2Proof.Machine.execSig f s
  | .qTail f => Sys2Proof.Machine.execQTail f s
  | .qCancel f => Sys2Proof.Machine.execQCancel f s
  | .qEvt f => Sys2Proof.Machine.execQEvt f s
  | .pkRd f => Sys2Proof.Machine.execPkRd f s
  | .pkMask f => Sys2Proof.Machine.execPkMask f s
  | .pkPc f => Sys2Proof.Machine.execPkPc f s
  | .pkResume f => Sys2Proof.Machine.execPkResume f s
  | .pkKill f => Sys2Proof.Machine.execPkKill f s
  | .hdlRet f => Sys2Proof.Machine.execHdlRet f s
  | .spSet f => Sys2Proof.Machine.execSpSet f s
  | .spInv f => Sys2Proof.Machine.execSpInv f s
  | .mm f => Sys2Proof.Machine.execMm f s
  | .accClr f => Sys2Proof.Machine.execAccClr f s
  | .accMov f => Sys2Proof.Machine.execAccMov f s
  | .accLd f => Sys2Proof.Machine.execAccLd f s
  | .accSt f => Sys2Proof.Machine.execAccSt f s
  | .accPut f => Sys2Proof.Machine.execAccPut f s
  | .osClaim f => Sys2Proof.Machine.execOsClaim f s
  | .osRel f => Sys2Proof.Machine.execOsRel f s
  | .mmWait f => Sys2Proof.Machine.execMmWait f s
  | .tex f => Sys2Proof.Machine.execTex f s
  | .texFetch f => Sys2Proof.Machine.execTexFetch f s
  | .tbLd f => Sys2Proof.Machine.execTbLd f s
  | .tbSt f => Sys2Proof.Machine.execTbSt f s
  | .tbFence f => Sys2Proof.Machine.execTbFence f s
  | .pixOwn f => Sys2Proof.Machine.execPixOwn f s
  | .pixExp f => Sys2Proof.Machine.execPixExp f s
  | .ctLook f => Sys2Proof.Machine.execCtLook f s
  | .frtRetire f => Sys2Proof.Machine.execFrtRetire f s
  | .frtYield f => Sys2Proof.Machine.execFrtYield f s
  | .frtQuery f => Sys2Proof.Machine.execFrtQuery f s
  | .frtCancel f => Sys2Proof.Machine.execFrtCancel f s
  | .tdSet f => Sys2Proof.Machine.execTdSet f s
  | .tdGet f => Sys2Proof.Machine.execTdGet f s
  | .tdInv f => Sys2Proof.Machine.execTdInv f s
  | .cpKick f => Sys2Proof.Machine.execCpKick f s
  | .cpGather f => Sys2Proof.Machine.execCpGather f s
  | .barSync f => Sys2Proof.Machine.execBarSync f s
  | .barTeam f => Sys2Proof.Machine.execBarTeam f s
  | .barArrive f => Sys2Proof.Machine.execBarArrive f s
  | .barPost f => Sys2Proof.Machine.execBarPost f s
  | .barWait f => Sys2Proof.Machine.execBarWait f s
  | .tlWait f => Sys2Proof.Machine.execTlWait f s
  | .tlRd f => Sys2Proof.Machine.execTlRd f s
  | .cntRd f => Sys2Proof.Machine.execCntRd f s
  | .vClaim f => Sys2Proof.Machine.execVClaim f s
  | .vRel f => Sys2Proof.Machine.execVRel f s
  | .winSet f => Sys2Proof.Machine.execWinSet f s
  | .winAdd f => Sys2Proof.Machine.execWinAdd f s
  | .wcsLd f => Sys2Proof.Machine.execWcsLd f s
  | .wcsBind f => Sys2Proof.Machine.execWcsBind f s
  | .wcsUnbind f => Sys2Proof.Machine.execWcsUnbind f s
  | .wcsInv f => Sys2Proof.Machine.execWcsInv f s
  | .xop f => Sys2Proof.Machine.execXop f s
  | .uadd f => Sys2Proof.Machine.execUadd f s
  | .usub f => Sys2Proof.Machine.execUsub f s
  | .umul f => Sys2Proof.Machine.execUmul f s
  | .umad f => Sys2Proof.Machine.execUmad f s
  | .uand f => Sys2Proof.Machine.execUand f s
  | .uor f => Sys2Proof.Machine.execUor f s
  | .uxor f => Sys2Proof.Machine.execUxor f s
  | .uandn f => Sys2Proof.Machine.execUandn f s
  | .ushl f => Sys2Proof.Machine.execUshl f s
  | .ushr f => Sys2Proof.Machine.execUshr f s
  | .usra f => Sys2Proof.Machine.execUsra f s
  | .umin f => Sys2Proof.Machine.execUmin f s
  | .umax f => Sys2Proof.Machine.execUmax f s
  | .uminn f => Sys2Proof.Machine.execUminn f s
  | .umaxn f => Sys2Proof.Machine.execUmaxn f s
  | .useq f => Sys2Proof.Machine.execUseq f s
  | .usne f => Sys2Proof.Machine.execUsne f s
  | .uslt f => Sys2Proof.Machine.execUslt f s
  | .usle f => Sys2Proof.Machine.execUsle f s
  | .usltn f => Sys2Proof.Machine.execUsltn f s
  | .usel f => Sys2Proof.Machine.execUsel f s
  | .ubfx f => Sys2Proof.Machine.execUbfx f s
  | .uzx32 f => Sys2Proof.Machine.execUzx32 f s
  | .usx32 f => Sys2Proof.Machine.execUsx32 f s
  | .ufadd f => Sys2Proof.Machine.execUfadd f s
  | .ufsub f => Sys2Proof.Machine.execUfsub f s
  | .ufmul f => Sys2Proof.Machine.execUfmul f s
  | .uffma f => Sys2Proof.Machine.execUffma f s
  | .ufmin f => Sys2Proof.Machine.execUfmin f s
  | .ufmax f => Sys2Proof.Machine.execUfmax f s
  | .ufcvti f => Sys2Proof.Machine.execUfcvti f s
  | .uicvtf f => Sys2Proof.Machine.execUicvtf f s
  | .umov f => Sys2Proof.Machine.execUmov f s
  | .upick f => Sys2Proof.Machine.execUpick f s
  | .uld32 f => Sys2Proof.Machine.execUld32 f s
  | .uld64 f => Sys2Proof.Machine.execUld64 f s
  | .ust32 f => Sys2Proof.Machine.execUst32 f s
  | .ust64 f => Sys2Proof.Machine.execUst64 f s
  | .ujmp f => Sys2Proof.Machine.execUjmp f s
  | .ubnz f => Sys2Proof.Machine.execUbnz f s
  | .ubz f => Sys2Proof.Machine.execUbz f s
  | .uend f => Sys2Proof.Machine.execUend f s
  | .uout f => Sys2Proof.Machine.execUout f s
  | .status h => Sys2Proof.Machine.execStatus h s
  | .vfEnable h n => Sys2Proof.Machine.execVfEnable h n s
  | .vfQuota h q => Sys2Proof.Machine.execVfQuota h q s
  | .slotAssign h q => Sys2Proof.Machine.execSlotAssign h q s
  | .slotRestart h slot => Sys2Proof.Machine.execSlotRestart h slot s
  | .slotFree h slot => Sys2Proof.Machine.execSlotFree h slot s
  | .depcAssign h ctr vf => Sys2Proof.Machine.execDepcAssign h ctr vf s
  | .depcReset h ctr => Sys2Proof.Machine.execDepcReset h ctr s
  | .ctxCreate h q => Sys2Proof.Machine.execCtxCreate h q s
  | .ctxDestroy h ctx => Sys2Proof.Machine.execCtxDestroy h ctx s
  | .ctxSwitch h ctx phase => Sys2Proof.Machine.execCtxSwitch h ctx phase s
  | .ctxStat h ctx => Sys2Proof.Machine.execCtxStat h ctx s
  | .ctxRoot h ctx tbase => Sys2Proof.Machine.execCtxRoot h ctx tbase s
  | .ctxResume h ctx => Sys2Proof.Machine.execCtxResume h ctx s
  | .preempt h tgt => Sys2Proof.Machine.execPreempt h tgt s
  | .evqRead h ctx => Sys2Proof.Machine.execEvqRead h ctx s
  | .tlbInv h tgt lo hi => Sys2Proof.Machine.execTlbInv h tgt lo hi s
  | .frmAllot h vf vpa size world => Sys2Proof.Machine.execFrmAllot h vf vpa size world s
  | .frmFree h vf vpa size => Sys2Proof.Machine.execFrmFree h vf vpa size s
  | .frmQuota h vf gf bf backBase backSize => Sys2Proof.Machine.execFrmQuota h vf gf bf backBase backSize s
  | .potSet h pa size vf world state => Sys2Proof.Machine.execPotSet h pa size vf world state s
  | .dirtyBase h vf a b en => Sys2Proof.Machine.execDirtyBase h vf a b en s
  | .dirtySwap h vf => Sys2Proof.Machine.execDirtySwap h vf s
  | .dispCfg h q => Sys2Proof.Machine.execDispCfg h q s
  | .pomWrite h q disp => Sys2Proof.Machine.execPomWrite h q disp s
  | .surfReg h q => Sys2Proof.Machine.execSurfReg h q s
  | .surfFree h sid => Sys2Proof.Machine.execSurfFree h sid s
  | .rvalSet h oid v => Sys2Proof.Machine.execRvalSet h oid v s
  | .ctGrant h q => Sys2Proof.Machine.execCtGrant h q s
  | .ctWithdraw h idx => Sys2Proof.Machine.execCtWithdraw h idx s
  | .pqCreate h q => Sys2Proof.Machine.execPqCreate h q s
  | .pqFree h pq => Sys2Proof.Machine.execPqFree h pq s
  | .wcsAssign h vf set rel => Sys2Proof.Machine.execWcsAssign h vf set rel s
  | .xopLoad h ctx q => Sys2Proof.Machine.execXopLoad h ctx q s
  | .xopQuery h ctx => Sys2Proof.Machine.execXopQuery h ctx s
  | .mashReset h core => Sys2Proof.Machine.execMashReset h core s
  | .clkSet h cluster mhz => Sys2Proof.Machine.execClkSet h cluster mhz s
  | .ldoSet h cluster mv => Sys2Proof.Machine.execLdoSet h cluster mv s
  | .kilnSet h cluster cap ramp => Sys2Proof.Machine.execKilnSet h cluster cap ramp s
  | .thermQuery h cluster => Sys2Proof.Machine.execThermQuery h cluster s
  | .pwrStat h cluster => Sys2Proof.Machine.execPwrStat h cluster s
  | .errLog h array index => Sys2Proof.Machine.execErrLog h array index s
  | .errInject h array word => Sys2Proof.Machine.execErrInject h array word s
  | .worldNew h => Sys2Proof.Machine.execWorldNew h s
  | .sealKey h world key k => Sys2Proof.Machine.execSealKey h world key k s
  | .worldUnseal h world token => Sys2Proof.Machine.execWorldUnseal h world token s
  | .worldFree h world => Sys2Proof.Machine.execWorldFree h world s
  | .patchStage h addr size => Sys2Proof.Machine.execPatchStage h addr size s
  | .patchActivate h => Sys2Proof.Machine.execPatchActivate h s
  | .fabMap h link peer => Sys2Proof.Machine.execFabMap h link peer s
  | .collPost h q => Sys2Proof.Machine.execCollPost h q s
  | .migOut h vf peer => Sys2Proof.Machine.execMigOut h vf peer s
  | .migIn h ticket => Sys2Proof.Machine.execMigIn h ticket s
  | .migStat h vf => Sys2Proof.Machine.execMigStat h vf s
  | .unknownCommand h code => Sys2Proof.Machine.execUnknownCommand h code s
  | .mbsemRead fn port => Sys2Proof.Machine.execMbsemRead fn port s
  | .mbsemRel fn port => Sys2Proof.Machine.execMbsemRel fn port s
  | .mbstatViolClear fn => Sys2Proof.Machine.execMbstatViolClear fn s
  | .registerWrite fn port off v => Sys2Proof.Machine.execRegisterWrite fn port off v s
  | .getVersion fn req => Sys2Proof.Machine.execGetVersion fn req s
  | .getCapabilities fn req => Sys2Proof.Machine.execGetCapabilities fn req s
  | .negotiateAlgorithms fn req => Sys2Proof.Machine.execNegotiateAlgorithms fn req s
  | .getDigests fn req => Sys2Proof.Machine.execGetDigests fn req s
  | .getCertificate fn req => Sys2Proof.Machine.execGetCertificate fn req s
  | .challenge fn req => Sys2Proof.Machine.execChallenge fn req s
  | .getMeasurements fn req => Sys2Proof.Machine.execGetMeasurements fn req s
  | .keyExchange fn req => Sys2Proof.Machine.execKeyExchange fn req s
  | .finish fn req => Sys2Proof.Machine.execFinish fn req s
  | .heartbeat fn req => Sys2Proof.Machine.execHeartbeat fn req s
  | .keyUpdate fn req => Sys2Proof.Machine.execKeyUpdate fn req s
  | .endSession fn req => Sys2Proof.Machine.execEndSession fn req s
  | .unsupportedRequest fn req => Sys2Proof.Machine.execUnsupportedRequest fn req s
  | .queueDoorbell slot tail => Sys2Proof.Machine.execQueueDoorbell slot tail s
  | .recordTake slot => Sys2Proof.Machine.execRecordTake slot s
  | .recordBegin slot => Sys2Proof.Machine.execRecordBegin slot s
  | .pointFire cluster => Sys2Proof.Machine.execPointFire cluster s
  | .blockRestorePlace bsn => Sys2Proof.Machine.execBlockRestorePlace bsn s
  | .activeSlotEntry gid => Sys2Proof.Machine.execActiveSlotEntry gid s
  | .claimDeadlock bsn => Sys2Proof.Machine.execClaimDeadlock bsn s
  | .pointRetire bsn => Sys2Proof.Machine.execPointRetire bsn s
  | .detCommit launch => Sys2Proof.Machine.execDetCommit launch s
  | .launchRetire launch => Sys2Proof.Machine.execLaunchRetire launch s
  | .handlerEntry ctx => Sys2Proof.Machine.execHandlerEntry ctx s
  | .signalDelivery k => Sys2Proof.Machine.execSignalDelivery k s
  | .mgmtDoorbellRead ctx => Sys2Proof.Machine.execMgmtDoorbellRead ctx s
  | .eventRecordWrite k => Sys2Proof.Machine.execEventRecordWrite k s
  | .memoryAccessPerform k => Sys2Proof.Machine.execMemoryAccessPerform k s
  | .loadDataReturn gid => Sys2Proof.Machine.execLoadDataReturn gid s
  | .pageOut vf => Sys2Proof.Machine.execPageOut vf s
  | .pageIn vf frame => Sys2Proof.Machine.execPageIn vf frame s
  | .accumulatorOwnershipTrap core ctx => Sys2Proof.Machine.execAccumulatorOwnershipTrap core ctx s
  | .mashOpStart core => Sys2Proof.Machine.execMashOpStart core s
  | .mashOpComplete core => Sys2Proof.Machine.execMashOpComplete core s
  | .accOpExecute core => Sys2Proof.Machine.execAccOpExecute core s
  | .mashTimeoutReset core => Sys2Proof.Machine.execMashTimeoutReset core s
  | .copyByteArrival core k n => Sys2Proof.Machine.execCopyByteArrival core k n s
  | .kilnStep cluster => Sys2Proof.Machine.execKilnStep cluster s
  | .kilnRequest cluster who => Sys2Proof.Machine.execKilnRequest cluster who s
  | .vectorBurstEnd core part => Sys2Proof.Machine.execVectorBurstEnd core part s
  | .thermalSample cluster quarterDeg => Sys2Proof.Machine.execThermalSample cluster quarterDeg s
  | .droopAlarm cluster => Sys2Proof.Machine.execDroopAlarm cluster s
  | .denyEnd cluster => Sys2Proof.Machine.execDenyEnd cluster s
  | .hotSpotMigration cluster => Sys2Proof.Machine.execHotSpotMigration cluster s
  | .retentionEntry cluster => Sys2Proof.Machine.execRetentionEntry cluster s
  | .retentionExit cluster => Sys2Proof.Machine.execRetentionExit cluster s
  | .sliceExpiry vf => Sys2Proof.Machine.execSliceExpiry vf s
  | .drainExpiry tgt => Sys2Proof.Machine.execDrainExpiry tgt s
  | .coopBudgetExpiry tgt => Sys2Proof.Machine.execCoopBudgetExpiry tgt s
  | .preemptTExpiry slot => Sys2Proof.Machine.execPreemptTExpiry slot s
  | .forcedSave tgt => Sys2Proof.Machine.execForcedSave tgt s
  | .displayBoundary disp => Sys2Proof.Machine.execDisplayBoundary disp s
  | .presentDoorbell pq tail => Sys2Proof.Machine.execPresentDoorbell pq tail s
  | .passItemTake pass => Sys2Proof.Machine.execPassItemTake pass s
  | .tileRaster pass tile => Sys2Proof.Machine.execTileRaster pass tile s
  | .binOverflowSpill pass => Sys2Proof.Machine.execBinOverflowSpill pass s
  | .sampleCommit pass k => Sys2Proof.Machine.execSampleCommit pass k s
  | .tileStore pass tile => Sys2Proof.Machine.execTileStore pass tile s
  | .deviceReset => Sys2Proof.Machine.execDeviceReset s
  | .configRecordVerify => Sys2Proof.Machine.execConfigRecordVerify s
  | .linkDown port => Sys2Proof.Machine.execLinkDown port s
  | .hotReset port => Sys2Proof.Machine.execHotReset port s
  | .hostAccess q => Sys2Proof.Machine.execHostAccess q s
  | .fabricWriteAck k => Sys2Proof.Machine.execFabricWriteAck k s
  | .fabricReadResponse k v => Sys2Proof.Machine.execFabricReadResponse k v s
  | .peerRequest peer world q => Sys2Proof.Machine.execPeerRequest peer world q s
  | .fabricTimeout k => Sys2Proof.Machine.execFabricTimeout k s
  | .collRetire k => Sys2Proof.Machine.execCollRetire k s
  | .migCompletion vf ok => Sys2Proof.Machine.execMigCompletion vf ok s
  | .softErrorDetect q => Sys2Proof.Machine.execSoftErrorDetect q s
  | .reservedMajor sub len msk => Sys2Proof.Machine.execReservedMajor sub len msk s
  | .refusedWord w => Sys2Proof.Machine.execRefusedWord w s
  | .linkUp port => Sys2Proof.Machine.execLinkUp port s

end Sys2Proof.Machine
end

