-- ==== Sys2Proof/Machine/Step.lean ====
section
/-! DEFINITION. One step of the machine (R236; DESIGN CHOICE, log 3): the next entry of the schedule, or the group at the head of the issue order. -/

namespace Sys2Proof.Machine

/-- A group issues: its next instruction runs, and it goes behind the others. -/
def issueStep (s : State) (gid : Option Nat) : Host.Outcome State Fault Refusal :=
  match issueNext s with
  | .hold s => .next (rotate gid s)
  | .run i s => after (exec i s) (rotate gid)

/-- One step. -/
def step (s : State) : Host.Outcome State Fault Refusal :=
  let s := tickStep s
  match s.agenda with
  | [] => issueStep s s.ready.head?
  | .event i :: r => if scheduled i then exec i { s with agenda := r } else .next { s with agenda := r }
  | .pass ns :: r => .next (passTime { s with agenda := r } ns)
  | .issue gid :: r =>
    if s.ready.contains gid then issueStep (headGroup { s with agenda := r } gid) (some gid) else .next { s with agenda := r }

/-- The state whose next step fetches and runs a word of the opcode table (DESIGN CHOICE, log 6). -/
def State.withFetchWord (s : State) (nbits w : Nat) : State := loadCode s (bytesLE (max 8 (nbits / 8)) w)

end Sys2Proof.Machine
end

