-- ==== Sys2Proof/Laws/Encoding.lean ====
section
/-! SUPPORT. Every format's encoder read back by its decoder, field by field (R40 to R48, R53, R324). -/

namespace Sys2Proof.Laws

/-- A field is what its bits are. -/
theorem field_of_bits {n : Nat} (w : BitVec n) (lo len : Nat) (x : BitVec len)
    (h : ∀ i, i < len → w.getLsbD (lo + i) = x.getLsbD i) : field w lo len = x := by
  apply BitVec.eq_of_getLsbD_eq
  intro i hi
  simp [field, hi, h i hi]

/-- A bit above the low part. -/
theorem bit_hi {w v : Nat} (x : BitVec w) (y : BitVec v) (i : Nat) : (x ++ y).getLsbD (v + i) = x.getLsbD i := by
  simp [BitVec.getLsbD_append]

/-- A bit of the low part. -/
theorem bit_lo {w v : Nat} (x : BitVec w) (y : BitVec v) (i : Nat) (h : i < v) : (x ++ y).getLsbD i = y.getLsbD i := by
  simp [BitVec.getLsbD_append, h]

/-- A field above the low part. -/
theorem field_hi {w v : Nat} (x : BitVec w) (y : BitVec v) (lo len : Nat) : field (x ++ y) (v + lo) len = field x lo len := by
  apply field_of_bits
  intro i hi
  rw [Nat.add_assoc, bit_hi]
  simp [field, hi]

/-- The low part. -/
theorem field_low {w v : Nat} (x : BitVec w) (y : BitVec v) : field (x ++ y) 0 v = y := by
  apply field_of_bits
  intro i hi
  rw [Nat.zero_add, bit_lo _ _ _ hi]

/-- A field that is all of a word. -/
theorem field_all {v : Nat} (y : BitVec v) : field y 0 v = y := by
  apply field_of_bits
  intro i _
  rw [Nat.zero_add]

/-- A one-bit field above a part, read as a Bool. -/
theorem bit_of {w : Nat} (x : BitVec w) (b : Bool) : (x ++ BitVec.ofBool b).getLsbD 0 = b := by
  rw [bit_lo _ _ _ (by decide)]
  cases b <;> rfl

/-- Every 32-bit word that the encoder makes ends in its major and the length bit (R40). -/
theorem majorOf_tail (x : BitVec 24) (m : BitVec 7) : majorOf (x ++ encTail m) = m.toNat := by
  have h : field (x ++ encTail m) 1 7 = m := by
    apply field_of_bits
    intro i hi
    rw [bit_lo _ _ _ (by omega)]
    exact bit_hi m (1 : BitVec 1) i
  exact congrArg BitVec.toNat h

/-- Its bit 0 is set. -/
theorem long_tail (x : BitVec 24) (m : BitVec 7) : (x ++ encTail m).getLsbD 0 = true := by
  rw [bit_lo _ _ _ (by decide)]
  exact (bit_lo m (1 : BitVec 1) 0 (by decide)).trans rfl

theorem encV_b (m : BitVec 7) (f : VFmt) : field (encV m f) 24 8 = f.b :=
  (field_hi _ (encTail m) 16 8).trans ((field_hi _ f.vd 9 8).trans ((field_hi _ (BitVec.ofBool f.nw) 8 8).trans ((field_hi _ f.a 0 8).trans (field_all _))))

theorem encV_a (m : BitVec 7) (f : VFmt) : field (encV m f) 16 8 = f.a :=
  (field_hi _ (encTail m) 8 8).trans ((field_hi _ f.vd 1 8).trans ((field_hi _ (BitVec.ofBool f.nw) 0 8).trans (field_low _ _)))

theorem encV_nw (m : BitVec 7) (f : VFmt) : (encV m f).getLsbD 15 = f.nw :=
  (bit_hi _ (encTail m) 7).trans ((bit_hi _ f.vd 0).trans (bit_of _ _))

theorem encV_vd (m : BitVec 7) (f : VFmt) : field (encV m f) 8 7 = f.vd :=
  (field_hi _ (encTail m) 0 7).trans (field_low _ _)

theorem decV_enc (m : BitVec 7) (f : VFmt) : decV f.pfx (encV m f) = f := by
  obtain ⟨⟩ := f
  simp only [decV, encV_b, encV_a, encV_nw, encV_vd]

theorem majorOf_encV (m : BitVec 7) (f : VFmt) : majorOf (encV m f) = m.toNat := majorOf_tail _ m
theorem long_encV (m : BitVec 7) (f : VFmt) : (encV m f).getLsbD 0 = true := long_tail _ m

theorem encVC_b (m : BitVec 7) (f : VCFmt) : field (encVC m f) 24 8 = f.b :=
  (field_hi _ (encTail m) 16 8).trans ((field_hi _ f.kd 13 8).trans ((field_hi _ (BitVec.ofBool f.rsv) 12 8).trans ((field_hi _ f.cc 8 8).trans ((field_hi _ f.a 0 8).trans (field_all _)))))

theorem encVC_a (m : BitVec 7) (f : VCFmt) : field (encVC m f) 16 8 = f.a :=
  (field_hi _ (encTail m) 8 8).trans ((field_hi _ f.kd 5 8).trans ((field_hi _ (BitVec.ofBool f.rsv) 4 8).trans ((field_hi _ f.cc 0 8).trans (field_low _ _))))

theorem encVC_cc (m : BitVec 7) (f : VCFmt) : field (encVC m f) 12 4 = f.cc :=
  (field_hi _ (encTail m) 4 4).trans ((field_hi _ f.kd 1 4).trans ((field_hi _ (BitVec.ofBool f.rsv) 0 4).trans (field_low _ _)))

theorem encVC_rsv (m : BitVec 7) (f : VCFmt) : (encVC m f).getLsbD 11 = f.rsv :=
  (bit_hi _ (encTail m) 3).trans ((bit_hi _ f.kd 0).trans (bit_of _ _))

theorem encVC_kd (m : BitVec 7) (f : VCFmt) : field (encVC m f) 8 3 = f.kd :=
  (field_hi _ (encTail m) 0 3).trans (field_low _ _)

theorem decVC_enc (m : BitVec 7) (f : VCFmt) : decVC f.pfx (encVC m f) = f := by
  obtain ⟨⟩ := f
  simp only [decVC, encVC_b, encVC_a, encVC_cc, encVC_rsv, encVC_kd]

theorem majorOf_encVC (m : BitVec 7) (f : VCFmt) : majorOf (encVC m f) = m.toNat := majorOf_tail _ m
theorem long_encVC (m : BitVec 7) (f : VCFmt) : (encVC m f).getLsbD 0 = true := long_tail _ m

theorem encU_a (m : BitVec 7) (fn : Byte) (f : UFmt) : field (encU m fn f) 16 8 = f.a :=
  (field_hi _ (encTail m) 8 8).trans ((field_hi _ f.vd 1 8).trans ((field_hi _ (BitVec.ofBool f.nw) 0 8).trans (field_low _ _)))

theorem encU_nw (m : BitVec 7) (fn : Byte) (f : UFmt) : (encU m fn f).getLsbD 15 = f.nw :=
  (bit_hi _ (encTail m) 7).trans ((bit_hi _ f.vd 0).trans (bit_of _ _))

theorem encU_vd (m : BitVec 7) (fn : Byte) (f : UFmt) : field (encU m fn f) 8 7 = f.vd :=
  (field_hi _ (encTail m) 0 7).trans (field_low _ _)

theorem encU_sub (m : BitVec 7) (fn : Byte) (f : UFmt) : field (encU m fn f) 24 8 = fn :=
  (field_hi _ (encTail m) 16 8).trans ((field_hi _ f.vd 9 8).trans ((field_hi _ (BitVec.ofBool f.nw) 8 8).trans ((field_hi _ f.a 0 8).trans (field_all _))))

theorem decU_enc (m : BitVec 7) (fn : Byte) (f : UFmt) : decU f.pfx (encU m fn f) = f := by
  obtain ⟨⟩ := f
  simp only [decU, encU_a, encU_nw, encU_vd]

theorem majorOf_encU (m : BitVec 7) (fn : Byte) (f : UFmt) : majorOf (encU m fn f) = m.toNat := majorOf_tail _ m
theorem long_encU (m : BitVec 7) (fn : Byte) (f : UFmt) : (encU m fn f).getLsbD 0 = true := long_tail _ m

theorem encUN_fn (m : BitVec 7) (f : UNFmt) : field (encUN m f) 24 8 = f.fn :=
  (field_hi _ (encTail m) 16 8).trans ((field_hi _ f.vd 9 8).trans ((field_hi _ (BitVec.ofBool f.nw) 8 8).trans ((field_hi _ f.a 0 8).trans (field_all _))))

theorem encUN_a (m : BitVec 7) (f : UNFmt) : field (encUN m f) 16 8 = f.a :=
  (field_hi _ (encTail m) 8 8).trans ((field_hi _ f.vd 1 8).trans ((field_hi _ (BitVec.ofBool f.nw) 0 8).trans (field_low _ _)))

theorem encUN_nw (m : BitVec 7) (f : UNFmt) : (encUN m f).getLsbD 15 = f.nw :=
  (bit_hi _ (encTail m) 7).trans ((bit_hi _ f.vd 0).trans (bit_of _ _))

theorem encUN_vd (m : BitVec 7) (f : UNFmt) : field (encUN m f) 8 7 = f.vd :=
  (field_hi _ (encTail m) 0 7).trans (field_low _ _)

theorem decUN_enc (m : BitVec 7) (f : UNFmt) : decUN f.pfx (encUN m f) = f := by
  obtain ⟨⟩ := f
  simp only [decUN, encUN_fn, encUN_a, encUN_nw, encUN_vd]

theorem majorOf_encUN (m : BitVec 7) (f : UNFmt) : majorOf (encUN m f) = m.toNat := majorOf_tail _ m
theorem long_encUN (m : BitVec 7) (f : UNFmt) : (encUN m f).getLsbD 0 = true := long_tail _ m

theorem encS_b (m : BitVec 7) (f : SFmt) : field (encS m f) 24 8 = f.b :=
  (field_hi _ (encTail m) 16 8).trans ((field_hi _ f.sd 8 8).trans ((field_hi _ f.a 0 8).trans (field_all _)))

theorem encS_a (m : BitVec 7) (f : SFmt) : field (encS m f) 16 8 = f.a :=
  (field_hi _ (encTail m) 8 8).trans ((field_hi _ f.sd 0 8).trans (field_low _ _))

theorem encS_sd (m : BitVec 7) (f : SFmt) : field (encS m f) 8 8 = f.sd :=
  (field_hi _ (encTail m) 0 8).trans (field_low _ _)

theorem decS_enc (m : BitVec 7) (f : SFmt) : decS f.pfx (encS m f) = f := by
  obtain ⟨⟩ := f
  simp only [decS, encS_b, encS_a, encS_sd]

theorem majorOf_encS (m : BitVec 7) (f : SFmt) : majorOf (encS m f) = m.toNat := majorOf_tail _ m
theorem long_encS (m : BitVec 7) (f : SFmt) : (encS m f).getLsbD 0 = true := long_tail _ m

theorem encSU_a (m : BitVec 7) (fn : Byte) (f : SUFmt) : field (encSU m fn f) 16 8 = f.a :=
  (field_hi _ (encTail m) 8 8).trans ((field_hi _ f.sd 0 8).trans (field_low _ _))

theorem encSU_sd (m : BitVec 7) (fn : Byte) (f : SUFmt) : field (encSU m fn f) 8 8 = f.sd :=
  (field_hi _ (encTail m) 0 8).trans (field_low _ _)

theorem encSU_sub (m : BitVec 7) (fn : Byte) (f : SUFmt) : field (encSU m fn f) 24 8 = fn :=
  (field_hi _ (encTail m) 16 8).trans ((field_hi _ f.sd 8 8).trans ((field_hi _ f.a 0 8).trans (field_all _)))

theorem decSU_enc (m : BitVec 7) (fn : Byte) (f : SUFmt) : decSU f.pfx (encSU m fn f) = f := by
  obtain ⟨⟩ := f
  simp only [decSU, encSU_a, encSU_sd]

theorem majorOf_encSU (m : BitVec 7) (fn : Byte) (f : SUFmt) : majorOf (encSU m fn f) = m.toNat := majorOf_tail _ m
theorem long_encSU (m : BitVec 7) (fn : Byte) (f : SUFmt) : (encSU m fn f).getLsbD 0 = true := long_tail _ m

theorem encSI_imm (m : BitVec 7) (f : SIFmt) : field (encSI m f) 16 16 = f.imm :=
  (field_hi _ (encTail m) 8 16).trans ((field_hi _ f.sd 0 16).trans (field_all _))

theorem encSI_sd (m : BitVec 7) (f : SIFmt) : field (encSI m f) 8 8 = f.sd :=
  (field_hi _ (encTail m) 0 8).trans (field_low _ _)

theorem decSI_enc (m : BitVec 7) (f : SIFmt) : decSI (encSI m f) = f := by
  obtain ⟨⟩ := f
  simp only [decSI, encSI_imm, encSI_sd]

theorem majorOf_encSI (m : BitVec 7) (f : SIFmt) : majorOf (encSI m f) = m.toNat := majorOf_tail _ m
theorem long_encSI (m : BitVec 7) (f : SIFmt) : (encSI m f).getLsbD 0 = true := long_tail _ m

theorem encK_s (m : BitVec 7) (fn : BitVec 5) (f : KFmt) : field (encK m fn f) 24 8 = f.s :=
  (field_hi _ (encTail m) 16 8).trans ((field_hi _ f.kd 13 8).trans ((field_hi _ f.rsv 8 8).trans ((field_hi _ f.ka 5 8).trans ((field_hi _ fn 0 8).trans (field_all _)))))

theorem encK_ka (m : BitVec 7) (fn : BitVec 5) (f : KFmt) : field (encK m fn f) 16 3 = f.ka :=
  (field_hi _ (encTail m) 8 3).trans ((field_hi _ f.kd 5 3).trans ((field_hi _ f.rsv 0 3).trans (field_low _ _)))

theorem encK_rsv (m : BitVec 7) (fn : BitVec 5) (f : KFmt) : field (encK m fn f) 11 5 = f.rsv :=
  (field_hi _ (encTail m) 3 5).trans ((field_hi _ f.kd 0 5).trans (field_low _ _))

theorem encK_kd (m : BitVec 7) (fn : BitVec 5) (f : KFmt) : field (encK m fn f) 8 3 = f.kd :=
  (field_hi _ (encTail m) 0 3).trans (field_low _ _)

theorem encK_sub (m : BitVec 7) (fn : BitVec 5) (f : KFmt) : field (encK m fn f) 19 5 = fn :=
  (field_hi _ (encTail m) 11 5).trans ((field_hi _ f.kd 8 5).trans ((field_hi _ f.rsv 3 5).trans ((field_hi _ f.ka 0 5).trans (field_low _ _))))

theorem decK_enc (m : BitVec 7) (fn : BitVec 5) (f : KFmt) : decK f.pfx (encK m fn f) = f := by
  obtain ⟨⟩ := f
  simp only [decK, encK_s, encK_ka, encK_rsv, encK_kd]

theorem majorOf_encK (m : BitVec 7) (fn : BitVec 5) (f : KFmt) : majorOf (encK m fn f) = m.toNat := majorOf_tail _ m
theorem long_encK (m : BitVec 7) (fn : BitVec 5) (f : KFmt) : (encK m fn f).getLsbD 0 = true := long_tail _ m

theorem encM_b (m : BitVec 7) (f : MFmt) : field (encM m f) 24 8 = f.b :=
  (field_hi _ (encTail m) 16 8).trans ((field_hi _ f.vd 9 8).trans ((field_hi _ (BitVec.ofBool f.sp) 8 8).trans ((field_hi _ f.a 0 8).trans (field_all _))))

theorem encM_a (m : BitVec 7) (f : MFmt) : field (encM m f) 16 8 = f.a :=
  (field_hi _ (encTail m) 8 8).trans ((field_hi _ f.vd 1 8).trans ((field_hi _ (BitVec.ofBool f.sp) 0 8).trans (field_low _ _)))

theorem encM_sp (m : BitVec 7) (f : MFmt) : (encM m f).getLsbD 15 = f.sp :=
  (bit_hi _ (encTail m) 7).trans ((bit_hi _ f.vd 0).trans (bit_of _ _))

theorem encM_vd (m : BitVec 7) (f : MFmt) : field (encM m f) 8 7 = f.vd :=
  (field_hi _ (encTail m) 0 7).trans (field_low _ _)

theorem decM_enc (m : BitVec 7) (f : MFmt) : decM f.pfx (encM m f) = f := by
  obtain ⟨⟩ := f
  simp only [decM, encM_b, encM_a, encM_sp, encM_vd]

theorem majorOf_encM (m : BitVec 7) (f : MFmt) : majorOf (encM m f) = m.toNat := majorOf_tail _ m
theorem long_encM (m : BitVec 7) (f : MFmt) : (encM m f).getLsbD 0 = true := long_tail _ m

theorem encJ_off (m : BitVec 7) (f : JFmt) : field (encJ m f) 16 16 = f.off :=
  (field_hi _ (encTail m) 8 16).trans ((field_hi _ f.c 0 16).trans (field_all _))

theorem encJ_c (m : BitVec 7) (f : JFmt) : field (encJ m f) 8 8 = f.c :=
  (field_hi _ (encTail m) 0 8).trans (field_low _ _)

theorem decJ_enc (m : BitVec 7) (f : JFmt) : decJ f.pfx (encJ m f) = f := by
  obtain ⟨⟩ := f
  simp only [decJ, encJ_off, encJ_c]

theorem majorOf_encJ (m : BitVec 7) (f : JFmt) : majorOf (encJ m f) = m.toNat := majorOf_tail _ m
theorem long_encJ (m : BitVec 7) (f : JFmt) : (encJ m f).getLsbD 0 = true := long_tail _ m

theorem encG_b (m : BitVec 7) (fn : Byte) (f : GFmt) : field (encG m fn f) 24 8 = f.b :=
  (field_hi _ (encTail m) 16 8).trans ((field_hi _ fn 8 8).trans ((field_hi _ f.a 0 8).trans (field_all _)))

theorem encG_a (m : BitVec 7) (fn : Byte) (f : GFmt) : field (encG m fn f) 16 8 = f.a :=
  (field_hi _ (encTail m) 8 8).trans ((field_hi _ fn 0 8).trans (field_low _ _))

theorem encG_sub (m : BitVec 7) (fn : Byte) (f : GFmt) : field (encG m fn f) 8 8 = fn :=
  (field_hi _ (encTail m) 0 8).trans (field_low _ _)

theorem decG_enc (m : BitVec 7) (fn : Byte) (f : GFmt) : decG f.pfx (encG m fn f) = f := by
  obtain ⟨⟩ := f
  simp only [decG, encG_b, encG_a]

theorem majorOf_encG (m : BitVec 7) (fn : Byte) (f : GFmt) : majorOf (encG m fn f) = m.toNat := majorOf_tail _ m
theorem long_encG (m : BitVec 7) (fn : Byte) (f : GFmt) : (encG m fn f).getLsbD 0 = true := long_tail _ m

theorem encX_nf (m : BitVec 7) (f : XFmt) : field (encX m f) 26 6 = f.nf :=
  (field_hi _ (encTail m) 18 6).trans ((field_hi _ f.fn 10 6).trans ((field_hi _ f.a 2 6).trans ((field_hi _ f.mf 0 6).trans (field_all _))))

theorem encX_mf (m : BitVec 7) (f : XFmt) : field (encX m f) 24 2 = f.mf :=
  (field_hi _ (encTail m) 16 2).trans ((field_hi _ f.fn 8 2).trans ((field_hi _ f.a 0 2).trans (field_low _ _)))

theorem encX_a (m : BitVec 7) (f : XFmt) : field (encX m f) 16 8 = f.a :=
  (field_hi _ (encTail m) 8 8).trans ((field_hi _ f.fn 0 8).trans (field_low _ _))

theorem encX_fn (m : BitVec 7) (f : XFmt) : field (encX m f) 8 8 = f.fn :=
  (field_hi _ (encTail m) 0 8).trans (field_low _ _)

theorem decX_enc (m : BitVec 7) (f : XFmt) : decX f.pfx (encX m f) = f := by
  obtain ⟨⟩ := f
  simp only [decX, encX_nf, encX_mf, encX_a, encX_fn]

theorem majorOf_encX (m : BitVec 7) (f : XFmt) : majorOf (encX m f) = m.toNat := majorOf_tail _ m
theorem long_encX (m : BitVec 7) (f : XFmt) : (encX m f).getLsbD 0 = true := long_tail _ m

theorem encY_sys (m : BitVec 7) (f : YFmt) : field (encY m f) 20 12 = f.sys :=
  (field_hi _ (encTail m) 12 12).trans ((field_hi _ f.a 4 12).trans ((field_hi _ f.fn 0 12).trans (field_all _)))

theorem encY_fn (m : BitVec 7) (f : YFmt) : field (encY m f) 16 4 = f.fn :=
  (field_hi _ (encTail m) 8 4).trans ((field_hi _ f.a 0 4).trans (field_low _ _))

theorem encY_a (m : BitVec 7) (f : YFmt) : field (encY m f) 8 8 = f.a :=
  (field_hi _ (encTail m) 0 8).trans (field_low _ _)

theorem decY_enc (m : BitVec 7) (f : YFmt) : decY f.pfx (encY m f) = f := by
  obtain ⟨⟩ := f
  simp only [decY, encY_sys, encY_fn, encY_a]

theorem majorOf_encY (m : BitVec 7) (f : YFmt) : majorOf (encY m f) = m.toNat := majorOf_tail _ m
theorem long_encY (m : BitVec 7) (f : YFmt) : (encY m f).getLsbD 0 = true := long_tail _ m

theorem encXO_b (m : BitVec 7) (f : XOFmt) : field (encXO m f) 24 8 = f.b :=
  (field_hi _ (encTail m) 16 8).trans ((field_hi _ f.rsv 13 8).trans ((field_hi _ f.xi 8 8).trans ((field_hi _ f.a 0 8).trans (field_all _))))

theorem encXO_a (m : BitVec 7) (f : XOFmt) : field (encXO m f) 16 8 = f.a :=
  (field_hi _ (encTail m) 8 8).trans ((field_hi _ f.rsv 5 8).trans ((field_hi _ f.xi 0 8).trans (field_low _ _)))

theorem encXO_xi (m : BitVec 7) (f : XOFmt) : field (encXO m f) 11 5 = f.xi :=
  (field_hi _ (encTail m) 3 5).trans ((field_hi _ f.rsv 0 5).trans (field_low _ _))

theorem encXO_rsv (m : BitVec 7) (f : XOFmt) : field (encXO m f) 8 3 = f.rsv :=
  (field_hi _ (encTail m) 0 3).trans (field_low _ _)

theorem decXO_enc (m : BitVec 7) (f : XOFmt) : decXO f.pfx (encXO m f) = f := by
  obtain ⟨⟩ := f
  simp only [decXO, encXO_b, encXO_a, encXO_xi, encXO_rsv]

theorem majorOf_encXO (m : BitVec 7) (f : XOFmt) : majorOf (encXO m f) = m.toNat := majorOf_tail _ m
theorem long_encXO (m : BitVec 7) (f : XOFmt) : (encXO m f).getLsbD 0 = true := long_tail _ m

theorem encC_b (op : BitVec 4) (f : CFmt) : field (encC op f) 1 6 = f.b :=
  (field_hi _ ((0 : BitVec 1)) 0 6).trans (field_low _ _)

theorem encC_vd (op : BitVec 4) (f : CFmt) : field (encC op f) 7 5 = f.vd :=
  (field_hi _ ((0 : BitVec 1)) 6 5).trans ((field_hi _ f.b 0 5).trans (field_low _ _))

theorem encC_sub (op : BitVec 4) (f : CFmt) : field (encC op f) 12 4 = op :=
  (field_hi _ ((0 : BitVec 1)) 11 4).trans ((field_hi _ f.b 5 4).trans ((field_hi _ f.vd 0 4).trans (field_all _)))

theorem short_encC (op : BitVec 4) (f : CFmt) : (encC op f).getLsbD 0 = false :=
  (bit_lo _ (0 : BitVec 1) 0 (by decide)).trans rfl

theorem decC_enc (op : BitVec 4) (f : CFmt) : decC (encC op f) = f := by
  obtain ⟨⟩ := f
  simp only [decC, encC_vd, encC_b]

theorem encUop_d (op : Byte) (f : UopFmt) : field (encUop op f) 52 4 = f.d :=
  (field_hi _ f.imm 20 4).trans ((field_hi _ f.rsvLo 14 4).trans ((field_hi _ (BitVec.ofBool f.sp) 13 4).trans ((field_hi _ (BitVec.ofBool f.rsvHi) 12 4).trans ((field_hi _ f.c 8 4).trans ((field_hi _ f.b 4 4).trans ((field_hi _ f.a 0 4).trans (field_low _ _)))))))

theorem encUop_a (op : Byte) (f : UopFmt) : field (encUop op f) 48 4 = f.a :=
  (field_hi _ f.imm 16 4).trans ((field_hi _ f.rsvLo 10 4).trans ((field_hi _ (BitVec.ofBool f.sp) 9 4).trans ((field_hi _ (BitVec.ofBool f.rsvHi) 8 4).trans ((field_hi _ f.c 4 4).trans ((field_hi _ f.b 0 4).trans (field_low _ _))))))

theorem encUop_b (op : Byte) (f : UopFmt) : field (encUop op f) 44 4 = f.b :=
  (field_hi _ f.imm 12 4).trans ((field_hi _ f.rsvLo 6 4).trans ((field_hi _ (BitVec.ofBool f.sp) 5 4).trans ((field_hi _ (BitVec.ofBool f.rsvHi) 4 4).trans ((field_hi _ f.c 0 4).trans (field_low _ _)))))

theorem encUop_c (op : Byte) (f : UopFmt) : field (encUop op f) 40 4 = f.c :=
  (field_hi _ f.imm 8 4).trans ((field_hi _ f.rsvLo 2 4).trans ((field_hi _ (BitVec.ofBool f.sp) 1 4).trans ((field_hi _ (BitVec.ofBool f.rsvHi) 0 4).trans (field_low _ _))))

theorem encUop_rsvHi (op : Byte) (f : UopFmt) : (encUop op f).getLsbD 39 = f.rsvHi :=
  (bit_hi _ f.imm 7).trans ((bit_hi _ f.rsvLo 1).trans ((bit_hi _ (BitVec.ofBool f.sp) 0).trans (bit_of _ _)))

theorem encUop_sp (op : Byte) (f : UopFmt) : (encUop op f).getLsbD 38 = f.sp :=
  (bit_hi _ f.imm 6).trans ((bit_hi _ f.rsvLo 0).trans (bit_of _ _))

theorem encUop_rsvLo (op : Byte) (f : UopFmt) : field (encUop op f) 32 6 = f.rsvLo :=
  (field_hi _ f.imm 0 6).trans (field_low _ _)

theorem encUop_imm (op : Byte) (f : UopFmt) : field (encUop op f) 0 32 = f.imm :=
  field_low _ _

theorem encUop_sub (op : Byte) (f : UopFmt) : field (encUop op f) 56 8 = op :=
  (field_hi _ f.imm 24 8).trans ((field_hi _ f.rsvLo 18 8).trans ((field_hi _ (BitVec.ofBool f.sp) 17 8).trans ((field_hi _ (BitVec.ofBool f.rsvHi) 16 8).trans ((field_hi _ f.c 12 8).trans ((field_hi _ f.b 8 8).trans ((field_hi _ f.a 4 8).trans ((field_hi _ f.d 0 8).trans (field_all _))))))))

theorem decUop_enc (op : Byte) (f : UopFmt) : decUop (encUop op f) = f := by
  obtain ⟨⟩ := f
  simp only [decUop, encUop_d, encUop_a, encUop_b, encUop_c, encUop_rsvHi, encUop_sp, encUop_rsvLo, encUop_imm]

theorem encPrefix_d (q : Prefix) : field (encPrefix q) 24 8 = q.d :=
  (field_hi _ ((1 : BitVec 1)) 23 8).trans ((field_hi _ ((0x7E : BitVec 7)) 16 8).trans ((field_hi _ q.ahi 14 8).trans ((field_hi _ (BitVec.ofBool q.af) 13 8).trans ((field_hi _ q.typ 9 8).trans ((field_hi _ q.sb 7 8).trans ((field_hi _ (BitVec.ofBool q.zro) 6 8).trans ((field_hi _ q.msk 3 8).trans ((field_hi _ q.rnd 0 8).trans (field_all _)))))))))

theorem encPrefix_rnd (q : Prefix) : field (encPrefix q) 21 3 = q.rnd :=
  (field_hi _ ((1 : BitVec 1)) 20 3).trans ((field_hi _ ((0x7E : BitVec 7)) 13 3).trans ((field_hi _ q.ahi 11 3).trans ((field_hi _ (BitVec.ofBool q.af) 10 3).trans ((field_hi _ q.typ 6 3).trans ((field_hi _ q.sb 4 3).trans ((field_hi _ (BitVec.ofBool q.zro) 3 3).trans ((field_hi _ q.msk 0 3).trans (field_low _ _))))))))

theorem encPrefix_msk (q : Prefix) : field (encPrefix q) 18 3 = q.msk :=
  (field_hi _ ((1 : BitVec 1)) 17 3).trans ((field_hi _ ((0x7E : BitVec 7)) 10 3).trans ((field_hi _ q.ahi 8 3).trans ((field_hi _ (BitVec.ofBool q.af) 7 3).trans ((field_hi _ q.typ 3 3).trans ((field_hi _ q.sb 1 3).trans ((field_hi _ (BitVec.ofBool q.zro) 0 3).trans (field_low _ _)))))))

theorem encPrefix_zro (q : Prefix) : (encPrefix q).getLsbD 17 = q.zro :=
  (bit_hi _ ((1 : BitVec 1)) 16).trans ((bit_hi _ ((0x7E : BitVec 7)) 9).trans ((bit_hi _ q.ahi 7).trans ((bit_hi _ (BitVec.ofBool q.af) 6).trans ((bit_hi _ q.typ 2).trans ((bit_hi _ q.sb 0).trans (bit_of _ _))))))

theorem encPrefix_sb (q : Prefix) : field (encPrefix q) 15 2 = q.sb :=
  (field_hi _ ((1 : BitVec 1)) 14 2).trans ((field_hi _ ((0x7E : BitVec 7)) 7 2).trans ((field_hi _ q.ahi 5 2).trans ((field_hi _ (BitVec.ofBool q.af) 4 2).trans ((field_hi _ q.typ 0 2).trans (field_low _ _)))))

theorem encPrefix_typ (q : Prefix) : field (encPrefix q) 11 4 = q.typ :=
  (field_hi _ ((1 : BitVec 1)) 10 4).trans ((field_hi _ ((0x7E : BitVec 7)) 3 4).trans ((field_hi _ q.ahi 1 4).trans ((field_hi _ (BitVec.ofBool q.af) 0 4).trans (field_low _ _))))

theorem encPrefix_af (q : Prefix) : (encPrefix q).getLsbD 10 = q.af :=
  (bit_hi _ ((1 : BitVec 1)) 9).trans ((bit_hi _ ((0x7E : BitVec 7)) 2).trans ((bit_hi _ q.ahi 0).trans (bit_of _ _)))

theorem encPrefix_ahi (q : Prefix) : field (encPrefix q) 8 2 = q.ahi :=
  (field_hi _ ((1 : BitVec 1)) 7 2).trans ((field_hi _ ((0x7E : BitVec 7)) 0 2).trans (field_low _ _))

theorem encPrefix_major (q : Prefix) : field (encPrefix q) 1 7 = (0x7E : BitVec 7) :=
  (field_hi _ ((1 : BitVec 1)) 0 7).trans (field_low _ _)

theorem long_encPrefix (q : Prefix) : (encPrefix q).getLsbD 0 = true := (bit_lo _ (1 : BitVec 1) 0 (by decide)).trans rfl

theorem majorOf_encPrefix (q : Prefix) : majorOf (encPrefix q) = 0x7E := congrArg BitVec.toNat (encPrefix_major q)

theorem decPrefix_enc (q : Prefix) : decPrefix (encPrefix q) = q := by
  obtain ⟨⟩ := q
  simp only [decPrefix, encPrefix_d, encPrefix_rnd, encPrefix_msk, encPrefix_zro, encPrefix_sb, encPrefix_typ, encPrefix_af, encPrefix_ahi]

end Sys2Proof.Laws
end

