-- ==== Sys2Proof/Laws/PerInstr.lean ====
section
/-! SUPPORT. Decoding undoes encoding, one lemma for each instruction (R38 to R57, R324, R325). -/

namespace Sys2Proof.Laws

/-- Bytes of halfwords read back. -/
theorem halvesOf_bytes (hs : List Half) (rest : List Byte) : halvesOf (bytesOfHalves hs ++ rest) = hs ++ halvesOf rest := by
  induction hs with
  | nil => rfl
  | cons h r ih =>
    have e : field h 8 8 ++ field h 0 8 = h := by
      apply BitVec.eq_of_getLsbD_eq
      intro i hi
      by_cases hlt : i < 8
      · rw [bit_lo _ _ _ hlt]
        simp [field, hlt]
      · obtain ⟨k, rfl⟩ : ∃ k, i = 8 + k := ⟨i - 8, by omega⟩
        rw [bit_hi]
        simp [field, show k < 8 by omega]
    simp [bytesOfHalves, halvesOf, ih, e]

/-- The two halfwords of a word make it up again. -/
theorem wordOf_halves (w : W32) : wordOf (field w 0 16) (field w 16 16) = w := by
  apply BitVec.eq_of_getLsbD_eq
  intro i hi
  by_cases hlt : i < 16
  · rw [wordOf, bit_lo _ _ _ hlt]
    simp [field, hlt]
  · obtain ⟨k, rfl⟩ : ∃ k, i = 16 + k := ⟨i - 16, by omega⟩
    rw [wordOf, bit_hi]
    simp [field, show k < 16 by omega]

/-- The major of a word is in its low halfword. -/
theorem majorOf_low (w : W32) (x : Half) : majorOf (wordOf (field w 0 16) x) = majorOf w := by
  refine congrArg BitVec.toNat (field_of_bits _ _ _ _ fun i hi => ?_)
  rw [wordOf, bit_lo _ _ _ (by omega)]
  simp [field, hi]
  omega

theorem bit0_low (w : W32) : (field w 0 16).getLsbD 0 = w.getLsbD 0 := by simp [field]

theorem listed_of_pairable {m : Nat} (h : pairable m = true) : majorListed m = true ∧ m ≠ 0x7E := by
  simp [pairable] at h
  exact ⟨h.1.1.1, h.2⟩

/-- A word with or without a prefix, whatever follows it. -/
theorem decode_long {i : Instr} {p : Option Prefix} {w : W32} (h0 : w.getLsbD 0 = true) (hm : pairable (majorOf w) = true)
    (hd : decodeOp p w = some i) (rest : List Half) :
    decodeHalves (withPrefix p w ++ rest) = .instr i (2 * (withPrefix p w).length) := by
  obtain ⟨hl, hne⟩ := listed_of_pairable hm
  cases p with
  | none =>
    simp only [withPrefix, halves, List.cons_append, List.nil_append, decodeHalves, bit0_low, h0, wordOf_halves, hne, decodeWord,
      hl, hd]
    rfl
  | some q =>
    simp only [withPrefix, halves, List.cons_append, List.nil_append, decodeHalves, bit0_low, h0, long_encPrefix, wordOf_halves,
      majorOf_encPrefix, majorOf_low, hm, decodePair, decPrefix_enc, hd]
    rfl

/-- A word of a form that takes no prefix. -/
theorem decode_plain {i : Instr} {w : W32} (h0 : w.getLsbD 0 = true) (hl : majorListed (majorOf w) = true)
    (hne : majorOf w ≠ 0x7E) (hd : decodeOp none w = some i) (rest : List Half) :
    decodeHalves (halves w ++ rest) = .instr i (2 * (halves w).length) := by
  simp only [halves, List.cons_append, List.nil_append, decodeHalves, bit0_low, h0, wordOf_halves, hne, decodeWord, hl, hd]
  rfl

/-- A 16-bit form. -/
theorem decode_half {i : Instr} {h : Half} (h0 : h.getLsbD 0 = false) (hd : decodeShort h = .instr i 2) (rest : List Half) :
    decodeHalves ([h] ++ rest) = .instr i (2 * [h].length) := by
  simp only [List.cons_append, List.nil_append, decodeHalves, h0, hd]
  rfl

namespace RoundTrip

/-- A well-formed instruction of the instruction stream decodes from its own bytes, whatever follows them, with its length; a
well-formed micro-op decodes from its own control store word. -/
def Statement (i : Instr) : Prop :=
  i.wf = true →
    (encode i ≠ [] → ∀ rest : List Byte, decode (encodeBytes i ++ rest) = .instr i (2 * (encode i).length))
      ∧ ∀ w, encodeUop i = some w → decodeUop w = .instr i 8

/-- From the halfwords. -/
theorem of_halves {i : Instr} (hs : List Half) (he : encode i = hs) (hu : encodeUop i = none)
    (h : i.wf = true → ∀ rest, decodeHalves (hs ++ rest) = .instr i (2 * hs.length)) : Statement i := by
  intro hw
  refine ⟨fun _ rest => ?_, fun w hw => ?_⟩
  · rw [decode, encodeBytes, halvesOf_bytes, he]
    exact h hw _
  · rw [hu] at hw
    cases hw

/-- From the control store word. -/
theorem of_uop {i : Instr} {op : Byte} {f : UopFmt} (he : encode i = []) (hu : encodeUop i = some (encUop op f))
    (h : uopOf op.toNat f = some i) : Statement i := by
  intro hw
  refine ⟨fun hn => absurd he hn, fun w e => ?_⟩
  rw [hu] at e
  cases e
  rw [decodeUop, encUop_sub, decUop_enc, h]
  exact if_pos hw

/-- What has no word. -/
theorem of_none {i : Instr} (he : encode i = []) (hu : encodeUop i = none) : Statement i := fun _ =>
  ⟨fun hn => absurd he hn, fun w e => by rw [hu] at e; cases e⟩

theorem long_of {i : Instr} {p : Option Prefix} {w : W32} {m : BitVec 7} (he : encode i = withPrefix p w) (hu : encodeUop i = none)
    (h0 : w.getLsbD 0 = true) (hm : majorOf w = m.toNat) (hp : pairable m.toNat = true) (hd : decodeOp p w = some i) :
    Statement i := of_halves _ he hu fun _ => decode_long h0 (hm ▸ hp) hd

theorem half_of {i : Instr} {op : BitVec 4} {f : CFmt} (he : encode i = [encC op f]) (hu : encodeUop i = none)
    (hd : i.wf = true → decodeShort (encC op f) = .instr i 2) : Statement i :=
  of_halves _ he hu fun hw => decode_half (short_encC op f) (hd hw)

theorem vadd (f : VFmt) : Statement (.vadd f) :=
  long_of rfl rfl (long_encV 0x00 f) (majorOf_encV 0x00 f) rfl (by
    unfold decodeOp
    rw [majorOf_encV, decV_enc]
    rfl)

theorem vsub (f : VFmt) : Statement (.vsub f) :=
  long_of rfl rfl (long_encV 0x01 f) (majorOf_encV 0x01 f) rfl (by
    unfold decodeOp
    rw [majorOf_encV, decV_enc]
    rfl)

theorem vmul (f : VFmt) : Statement (.vmul f) :=
  long_of rfl rfl (long_encV 0x02 f) (majorOf_encV 0x02 f) rfl (by
    unfold decodeOp
    rw [majorOf_encV, decV_enc]
    rfl)

theorem vmulh (f : VFmt) : Statement (.vmulh f) :=
  long_of rfl rfl (long_encV 0x03 f) (majorOf_encV 0x03 f) rfl (by
    unfold decodeOp
    rw [majorOf_encV, decV_enc]
    rfl)

theorem vmad (f : VFmt) : Statement (.vmad f) :=
  long_of rfl rfl (long_encV 0x04 f) (majorOf_encV 0x04 f) rfl (by
    unfold decodeOp
    rw [majorOf_encV, decV_enc]
    rfl)

theorem vmin (f : VFmt) : Statement (.vmin f) :=
  long_of rfl rfl (long_encV 0x05 f) (majorOf_encV 0x05 f) rfl (by
    unfold decodeOp
    rw [majorOf_encV, decV_enc]
    rfl)

theorem vmax (f : VFmt) : Statement (.vmax f) :=
  long_of rfl rfl (long_encV 0x06 f) (majorOf_encV 0x06 f) rfl (by
    unfold decodeOp
    rw [majorOf_encV, decV_enc]
    rfl)

theorem vabsd (f : VFmt) : Statement (.vabsd f) :=
  long_of rfl rfl (long_encV 0x07 f) (majorOf_encV 0x07 f) rfl (by
    unfold decodeOp
    rw [majorOf_encV, decV_enc]
    rfl)

theorem vand (f : VFmt) : Statement (.vand f) :=
  long_of rfl rfl (long_encV 0x08 f) (majorOf_encV 0x08 f) rfl (by
    unfold decodeOp
    rw [majorOf_encV, decV_enc]
    rfl)

theorem vor (f : VFmt) : Statement (.vor f) :=
  long_of rfl rfl (long_encV 0x09 f) (majorOf_encV 0x09 f) rfl (by
    unfold decodeOp
    rw [majorOf_encV, decV_enc]
    rfl)

theorem vxor (f : VFmt) : Statement (.vxor f) :=
  long_of rfl rfl (long_encV 0x0A f) (majorOf_encV 0x0A f) rfl (by
    unfold decodeOp
    rw [majorOf_encV, decV_enc]
    rfl)

theorem vandn (f : VFmt) : Statement (.vandn f) :=
  long_of rfl rfl (long_encV 0x0B f) (majorOf_encV 0x0B f) rfl (by
    unfold decodeOp
    rw [majorOf_encV, decV_enc]
    rfl)

theorem vshl (f : VFmt) : Statement (.vshl f) :=
  long_of rfl rfl (long_encV 0x0C f) (majorOf_encV 0x0C f) rfl (by
    unfold decodeOp
    rw [majorOf_encV, decV_enc]
    rfl)

theorem vshr (f : VFmt) : Statement (.vshr f) :=
  long_of rfl rfl (long_encV 0x0D f) (majorOf_encV 0x0D f) rfl (by
    unfold decodeOp
    rw [majorOf_encV, decV_enc]
    rfl)

theorem vsra (f : VFmt) : Statement (.vsra f) :=
  long_of rfl rfl (long_encV 0x0E f) (majorOf_encV 0x0E f) rfl (by
    unfold decodeOp
    rw [majorOf_encV, decV_enc]
    rfl)

theorem vrot (f : VFmt) : Statement (.vrot f) :=
  long_of rfl rfl (long_encV 0x0F f) (majorOf_encV 0x0F f) rfl (by
    unfold decodeOp
    rw [majorOf_encV, decV_enc]
    rfl)

theorem vadds (f : VFmt) : Statement (.vadds f) :=
  long_of rfl rfl (long_encV 0x10 f) (majorOf_encV 0x10 f) rfl (by
    unfold decodeOp
    rw [majorOf_encV, decV_enc]
    rfl)

theorem vsubs (f : VFmt) : Statement (.vsubs f) :=
  long_of rfl rfl (long_encV 0x11 f) (majorOf_encV 0x11 f) rfl (by
    unfold decodeOp
    rw [majorOf_encV, decV_enc]
    rfl)

theorem vcmp (f : VCFmt) : Statement (.vcmp f) :=
  long_of rfl rfl (long_encVC 0x12 f) (majorOf_encVC 0x12 f) rfl (by
    unfold decodeOp
    rw [majorOf_encVC, decVC_enc]
    rfl)

theorem vbfx (f : VFmt) : Statement (.vbfx f) :=
  long_of rfl rfl (long_encV 0x13 f) (majorOf_encV 0x13 f) rfl (by
    unfold decodeOp
    rw [majorOf_encV, decV_enc]
    rfl)

theorem vbfi (f : VFmt) : Statement (.vbfi f) :=
  long_of rfl rfl (long_encV 0x14 f) (majorOf_encV 0x14 f) rfl (by
    unfold decodeOp
    rw [majorOf_encV, decV_enc]
    rfl)

theorem vsel (f : VFmt) : Statement (.vsel f) :=
  long_of rfl rfl (long_encV 0x15 f) (majorOf_encV 0x15 f) rfl (by
    unfold decodeOp
    rw [majorOf_encV, decV_enc]
    rfl)

theorem vrq (f : VFmt) : Statement (.vrq f) :=
  long_of rfl rfl (long_encV 0x16 f) (majorOf_encV 0x16 f) rfl (by
    unfold decodeOp
    rw [majorOf_encV, decV_enc]
    rfl)

theorem vaddr (f : VFmt) : Statement (.vaddr f) :=
  long_of rfl rfl (long_encV 0x17 f) (majorOf_encV 0x17 f) rfl (by
    unfold decodeOp
    rw [majorOf_encV, decV_enc]
    rfl)

theorem vfadd (f : VFmt) : Statement (.vfadd f) :=
  long_of rfl rfl (long_encV 0x18 f) (majorOf_encV 0x18 f) rfl (by
    unfold decodeOp
    rw [majorOf_encV, decV_enc]
    rfl)

theorem vfsub (f : VFmt) : Statement (.vfsub f) :=
  long_of rfl rfl (long_encV 0x19 f) (majorOf_encV 0x19 f) rfl (by
    unfold decodeOp
    rw [majorOf_encV, decV_enc]
    rfl)

theorem vfmul (f : VFmt) : Statement (.vfmul f) :=
  long_of rfl rfl (long_encV 0x1A f) (majorOf_encV 0x1A f) rfl (by
    unfold decodeOp
    rw [majorOf_encV, decV_enc]
    rfl)

theorem vfma (f : VFmt) : Statement (.vfma f) :=
  long_of rfl rfl (long_encV 0x1B f) (majorOf_encV 0x1B f) rfl (by
    unfold decodeOp
    rw [majorOf_encV, decV_enc]
    rfl)

theorem vfms (f : VFmt) : Statement (.vfms f) :=
  long_of rfl rfl (long_encV 0x1C f) (majorOf_encV 0x1C f) rfl (by
    unfold decodeOp
    rw [majorOf_encV, decV_enc]
    rfl)

theorem vfmin (f : VFmt) : Statement (.vfmin f) :=
  long_of rfl rfl (long_encV 0x1D f) (majorOf_encV 0x1D f) rfl (by
    unfold decodeOp
    rw [majorOf_encV, decV_enc]
    rfl)

theorem vfmax (f : VFmt) : Statement (.vfmax f) :=
  long_of rfl rfl (long_encV 0x1E f) (majorOf_encV 0x1E f) rfl (by
    unfold decodeOp
    rw [majorOf_encV, decV_enc]
    rfl)

theorem vfdiv (f : VFmt) : Statement (.vfdiv f) :=
  long_of rfl rfl (long_encV 0x1F f) (majorOf_encV 0x1F f) rfl (by
    unfold decodeOp
    rw [majorOf_encV, decV_enc]
    rfl)

theorem vfcmp (f : VCFmt) : Statement (.vfcmp f) :=
  long_of rfl rfl (long_encVC 0x20 f) (majorOf_encVC 0x20 f) rfl (by
    unfold decodeOp
    rw [majorOf_encVC, decVC_enc]
    rfl)

theorem vfdp2 (f : VFmt) : Statement (.vfdp2 f) :=
  long_of rfl rfl (long_encV 0x21 f) (majorOf_encV 0x21 f) rfl (by
    unfold decodeOp
    rw [majorOf_encV, decV_enc]
    rfl)

theorem vfsgn (f : VFmt) : Statement (.vfsgn f) :=
  long_of rfl rfl (long_encV 0x22 f) (majorOf_encV 0x22 f) rfl (by
    unfold decodeOp
    rw [majorOf_encV, decV_enc]
    rfl)

theorem vperm (f : VFmt) : Statement (.vperm f) :=
  long_of rfl rfl (long_encV 0x23 f) (majorOf_encV 0x23 f) rfl (by
    unfold decodeOp
    rw [majorOf_encV, decV_enc]
    rfl)

theorem vmov (f : UFmt) : Statement (.vmov f) :=
  long_of rfl rfl (long_encU 0x24 0 f) (majorOf_encU 0x24 0 f) rfl (by
    unfold decodeOp
    rw [majorOf_encU, encU_sub, decU_enc]
    rfl)

theorem vnot (f : UFmt) : Statement (.vnot f) :=
  long_of rfl rfl (long_encU 0x24 1 f) (majorOf_encU 0x24 1 f) rfl (by
    unfold decodeOp
    rw [majorOf_encU, encU_sub, decU_enc]
    rfl)

theorem vneg (f : UFmt) : Statement (.vneg f) :=
  long_of rfl rfl (long_encU 0x24 2 f) (majorOf_encU 0x24 2 f) rfl (by
    unfold decodeOp
    rw [majorOf_encU, encU_sub, decU_enc]
    rfl)

theorem vabs (f : UFmt) : Statement (.vabs f) :=
  long_of rfl rfl (long_encU 0x24 3 f) (majorOf_encU 0x24 3 f) rfl (by
    unfold decodeOp
    rw [majorOf_encU, encU_sub, decU_enc]
    rfl)

theorem vpopc (f : UFmt) : Statement (.vpopc f) :=
  long_of rfl rfl (long_encU 0x24 4 f) (majorOf_encU 0x24 4 f) rfl (by
    unfold decodeOp
    rw [majorOf_encU, encU_sub, decU_enc]
    rfl)

theorem vclz (f : UFmt) : Statement (.vclz f) :=
  long_of rfl rfl (long_encU 0x24 5 f) (majorOf_encU 0x24 5 f) rfl (by
    unfold decodeOp
    rw [majorOf_encU, encU_sub, decU_enc]
    rfl)

theorem vctz (f : UFmt) : Statement (.vctz f) :=
  long_of rfl rfl (long_encU 0x24 6 f) (majorOf_encU 0x24 6 f) rfl (by
    unfold decodeOp
    rw [majorOf_encU, encU_sub, decU_enc]
    rfl)

theorem vbrev (f : UFmt) : Statement (.vbrev f) :=
  long_of rfl rfl (long_encU 0x24 7 f) (majorOf_encU 0x24 7 f) rfl (by
    unfold decodeOp
    rw [majorOf_encU, encU_sub, decU_enc]
    rfl)

theorem vfneg (f : UFmt) : Statement (.vfneg f) :=
  long_of rfl rfl (long_encU 0x24 8 f) (majorOf_encU 0x24 8 f) rfl (by
    unfold decodeOp
    rw [majorOf_encU, encU_sub, decU_enc]
    rfl)

theorem vfabs (f : UFmt) : Statement (.vfabs f) :=
  long_of rfl rfl (long_encU 0x24 9 f) (majorOf_encU 0x24 9 f) rfl (by
    unfold decodeOp
    rw [majorOf_encU, encU_sub, decU_enc]
    rfl)

theorem vfsqrt (f : UFmt) : Statement (.vfsqrt f) :=
  long_of rfl rfl (long_encU 0x24 10 f) (majorOf_encU 0x24 10 f) rfl (by
    unfold decodeOp
    rw [majorOf_encU, encU_sub, decU_enc]
    rfl)

theorem vfrnd (f : UFmt) : Statement (.vfrnd f) :=
  long_of rfl rfl (long_encU 0x24 11 f) (majorOf_encU 0x24 11 f) rfl (by
    unfold decodeOp
    rw [majorOf_encU, encU_sub, decU_enc]
    rfl)

theorem vcvt (f : UNFmt) : Statement (.vcvt f) :=
  long_of rfl rfl (long_encUN 0x25 f) (majorOf_encUN 0x25 f) rfl (by
    unfold decodeOp
    rw [majorOf_encUN, decUN_enc]
    rfl)

theorem vsfuSin (f : UFmt) : Statement (.vsfuSin f) :=
  long_of rfl rfl (long_encU 0x26 0 f) (majorOf_encU 0x26 0 f) rfl (by
    unfold decodeOp
    rw [majorOf_encU, encU_sub, decU_enc]
    rfl)

theorem vsfuCos (f : UFmt) : Statement (.vsfuCos f) :=
  long_of rfl rfl (long_encU 0x26 1 f) (majorOf_encU 0x26 1 f) rfl (by
    unfold decodeOp
    rw [majorOf_encU, encU_sub, decU_enc]
    rfl)

theorem vsfuExp2 (f : UFmt) : Statement (.vsfuExp2 f) :=
  long_of rfl rfl (long_encU 0x26 2 f) (majorOf_encU 0x26 2 f) rfl (by
    unfold decodeOp
    rw [majorOf_encU, encU_sub, decU_enc]
    rfl)

theorem vsfuLog2 (f : UFmt) : Statement (.vsfuLog2 f) :=
  long_of rfl rfl (long_encU 0x26 3 f) (majorOf_encU 0x26 3 f) rfl (by
    unfold decodeOp
    rw [majorOf_encU, encU_sub, decU_enc]
    rfl)

theorem vsfuRcp (f : UFmt) : Statement (.vsfuRcp f) :=
  long_of rfl rfl (long_encU 0x26 4 f) (majorOf_encU 0x26 4 f) rfl (by
    unfold decodeOp
    rw [majorOf_encU, encU_sub, decU_enc]
    rfl)

theorem vsfuRsqrt (f : UFmt) : Statement (.vsfuRsqrt f) :=
  long_of rfl rfl (long_encU 0x26 5 f) (majorOf_encU 0x26 5 f) rfl (by
    unfold decodeOp
    rw [majorOf_encU, encU_sub, decU_enc]
    rfl)

theorem vredSum (f : UFmt) : Statement (.vredSum f) :=
  long_of rfl rfl (long_encU 0x27 0 f) (majorOf_encU 0x27 0 f) rfl (by
    unfold decodeOp
    rw [majorOf_encU, encU_sub, decU_enc]
    rfl)

theorem vredMax (f : UFmt) : Statement (.vredMax f) :=
  long_of rfl rfl (long_encU 0x27 1 f) (majorOf_encU 0x27 1 f) rfl (by
    unfold decodeOp
    rw [majorOf_encU, encU_sub, decU_enc]
    rfl)

theorem vredMin (f : UFmt) : Statement (.vredMin f) :=
  long_of rfl rfl (long_encU 0x27 2 f) (majorOf_encU 0x27 2 f) rfl (by
    unfold decodeOp
    rw [majorOf_encU, encU_sub, decU_enc]
    rfl)

theorem vshf (f : UNFmt) : Statement (.vshf f) :=
  long_of rfl rfl (long_encUN 0x28 f) (majorOf_encUN 0x28 f) rfl (by
    unfold decodeOp
    rw [majorOf_encUN, decUN_enc]
    rfl)

/-- The halfword 0x0000 is no `c.add`: it is refused before (R53), and no well-formed one has it. -/
theorem cAdd (f : CFmt) : Statement (.cAdd f) :=
  half_of rfl rfl fun hw => by
    have h : encC 0 f ≠ 0 := fun e => by
      have hv : f.vd = 0 := (encC_vd 0 f).symm.trans (congrArg (field · 7 5) e)
      have hb : f.b = 0 := (encC_b 0 f).symm.trans (congrArg (field · 1 6) e)
      obtain ⟨vd, b⟩ := f
      cases hv
      cases hb
      exact absurd hw (by decide)
    simp only [decodeShort, h, encC_sub, decC_enc]
    rfl

theorem cSub (f : CFmt) : Statement (.cSub f) :=
  half_of rfl rfl fun _ => by
    have h : encC 1 f ≠ 0 := fun e => absurd ((encC_sub 1 f).symm.trans (congrArg (field · 12 4) e)) (by decide)
    simp only [decodeShort, h, encC_sub, decC_enc]
    rfl

theorem cMul (f : CFmt) : Statement (.cMul f) :=
  half_of rfl rfl fun _ => by
    have h : encC 2 f ≠ 0 := fun e => absurd ((encC_sub 2 f).symm.trans (congrArg (field · 12 4) e)) (by decide)
    simp only [decodeShort, h, encC_sub, decC_enc]
    rfl

theorem cAnd (f : CFmt) : Statement (.cAnd f) :=
  half_of rfl rfl fun _ => by
    have h : encC 3 f ≠ 0 := fun e => absurd ((encC_sub 3 f).symm.trans (congrArg (field · 12 4) e)) (by decide)
    simp only [decodeShort, h, encC_sub, decC_enc]
    rfl

theorem cOr (f : CFmt) : Statement (.cOr f) :=
  half_of rfl rfl fun _ => by
    have h : encC 4 f ≠ 0 := fun e => absurd ((encC_sub 4 f).symm.trans (congrArg (field · 12 4) e)) (by decide)
    simp only [decodeShort, h, encC_sub, decC_enc]
    rfl

theorem cXor (f : CFmt) : Statement (.cXor f) :=
  half_of rfl rfl fun _ => by
    have h : encC 5 f ≠ 0 := fun e => absurd ((encC_sub 5 f).symm.trans (congrArg (field · 12 4) e)) (by decide)
    simp only [decodeShort, h, encC_sub, decC_enc]
    rfl

theorem cShl (f : CFmt) : Statement (.cShl f) :=
  half_of rfl rfl fun _ => by
    have h : encC 6 f ≠ 0 := fun e => absurd ((encC_sub 6 f).symm.trans (congrArg (field · 12 4) e)) (by decide)
    simp only [decodeShort, h, encC_sub, decC_enc]
    rfl

theorem cShr (f : CFmt) : Statement (.cShr f) :=
  half_of rfl rfl fun _ => by
    have h : encC 7 f ≠ 0 := fun e => absurd ((encC_sub 7 f).symm.trans (congrArg (field · 12 4) e)) (by decide)
    simp only [decodeShort, h, encC_sub, decC_enc]
    rfl

theorem cMov (f : CFmt) : Statement (.cMov f) :=
  half_of rfl rfl fun _ => by
    have h : encC 8 f ≠ 0 := fun e => absurd ((encC_sub 8 f).symm.trans (congrArg (field · 12 4) e)) (by decide)
    simp only [decodeShort, h, encC_sub, decC_enc]
    rfl

theorem cFadd (f : CFmt) : Statement (.cFadd f) :=
  half_of rfl rfl fun _ => by
    have h : encC 9 f ≠ 0 := fun e => absurd ((encC_sub 9 f).symm.trans (congrArg (field · 12 4) e)) (by decide)
    simp only [decodeShort, h, encC_sub, decC_enc]
    rfl

theorem cFsub (f : CFmt) : Statement (.cFsub f) :=
  half_of rfl rfl fun _ => by
    have h : encC 10 f ≠ 0 := fun e => absurd ((encC_sub 10 f).symm.trans (congrArg (field · 12 4) e)) (by decide)
    simp only [decodeShort, h, encC_sub, decC_enc]
    rfl

theorem cFmul (f : CFmt) : Statement (.cFmul f) :=
  half_of rfl rfl fun _ => by
    have h : encC 11 f ≠ 0 := fun e => absurd ((encC_sub 11 f).symm.trans (congrArg (field · 12 4) e)) (by decide)
    simp only [decodeShort, h, encC_sub, decC_enc]
    rfl

theorem cFmin (f : CFmt) : Statement (.cFmin f) :=
  half_of rfl rfl fun _ => by
    have h : encC 12 f ≠ 0 := fun e => absurd ((encC_sub 12 f).symm.trans (congrArg (field · 12 4) e)) (by decide)
    simp only [decodeShort, h, encC_sub, decC_enc]
    rfl

theorem cFmax (f : CFmt) : Statement (.cFmax f) :=
  half_of rfl rfl fun _ => by
    have h : encC 13 f ≠ 0 := fun e => absurd ((encC_sub 13 f).symm.trans (congrArg (field · 12 4) e)) (by decide)
    simp only [decodeShort, h, encC_sub, decC_enc]
    rfl

theorem cMin (f : CFmt) : Statement (.cMin f) :=
  half_of rfl rfl fun _ => by
    have h : encC 14 f ≠ 0 := fun e => absurd ((encC_sub 14 f).symm.trans (congrArg (field · 12 4) e)) (by decide)
    simp only [decodeShort, h, encC_sub, decC_enc]
    rfl

theorem cMax (f : CFmt) : Statement (.cMax f) :=
  half_of rfl rfl fun _ => by
    have h : encC 15 f ≠ 0 := fun e => absurd ((encC_sub 15 f).symm.trans (congrArg (field · 12 4) e)) (by decide)
    simp only [decodeShort, h, encC_sub, decC_enc]
    rfl

theorem sadd (f : SFmt) : Statement (.sadd f) :=
  long_of rfl rfl (long_encS 0x30 f) (majorOf_encS 0x30 f) rfl (by
    unfold decodeOp
    rw [majorOf_encS, decS_enc]
    rfl)

theorem ssub (f : SFmt) : Statement (.ssub f) :=
  long_of rfl rfl (long_encS 0x31 f) (majorOf_encS 0x31 f) rfl (by
    unfold decodeOp
    rw [majorOf_encS, decS_enc]
    rfl)

theorem smul (f : SFmt) : Statement (.smul f) :=
  long_of rfl rfl (long_encS 0x32 f) (majorOf_encS 0x32 f) rfl (by
    unfold decodeOp
    rw [majorOf_encS, decS_enc]
    rfl)

theorem smulh (f : SFmt) : Statement (.smulh f) :=
  long_of rfl rfl (long_encS 0x33 f) (majorOf_encS 0x33 f) rfl (by
    unfold decodeOp
    rw [majorOf_encS, decS_enc]
    rfl)

theorem sand (f : SFmt) : Statement (.sand f) :=
  long_of rfl rfl (long_encS 0x34 f) (majorOf_encS 0x34 f) rfl (by
    unfold decodeOp
    rw [majorOf_encS, decS_enc]
    rfl)

theorem sor (f : SFmt) : Statement (.sor f) :=
  long_of rfl rfl (long_encS 0x35 f) (majorOf_encS 0x35 f) rfl (by
    unfold decodeOp
    rw [majorOf_encS, decS_enc]
    rfl)

theorem sxor (f : SFmt) : Statement (.sxor f) :=
  long_of rfl rfl (long_encS 0x36 f) (majorOf_encS 0x36 f) rfl (by
    unfold decodeOp
    rw [majorOf_encS, decS_enc]
    rfl)

theorem sshl (f : SFmt) : Statement (.sshl f) :=
  long_of rfl rfl (long_encS 0x37 f) (majorOf_encS 0x37 f) rfl (by
    unfold decodeOp
    rw [majorOf_encS, decS_enc]
    rfl)

theorem sshr (f : SFmt) : Statement (.sshr f) :=
  long_of rfl rfl (long_encS 0x38 f) (majorOf_encS 0x38 f) rfl (by
    unfold decodeOp
    rw [majorOf_encS, decS_enc]
    rfl)

theorem ssra (f : SFmt) : Statement (.ssra f) :=
  long_of rfl rfl (long_encS 0x39 f) (majorOf_encS 0x39 f) rfl (by
    unfold decodeOp
    rw [majorOf_encS, decS_enc]
    rfl)

theorem smin (f : SFmt) : Statement (.smin f) :=
  long_of rfl rfl (long_encS 0x3A f) (majorOf_encS 0x3A f) rfl (by
    unfold decodeOp
    rw [majorOf_encS, decS_enc]
    rfl)

theorem smax (f : SFmt) : Statement (.smax f) :=
  long_of rfl rfl (long_encS 0x3B f) (majorOf_encS 0x3B f) rfl (by
    unfold decodeOp
    rw [majorOf_encS, decS_enc]
    rfl)

theorem sseq (f : SFmt) : Statement (.sseq f) :=
  long_of rfl rfl (long_encS 0x3C f) (majorOf_encS 0x3C f) rfl (by
    unfold decodeOp
    rw [majorOf_encS, decS_enc]
    rfl)

theorem ssne (f : SFmt) : Statement (.ssne f) :=
  long_of rfl rfl (long_encS 0x3D f) (majorOf_encS 0x3D f) rfl (by
    unfold decodeOp
    rw [majorOf_encS, decS_enc]
    rfl)

theorem sslt (f : SFmt) : Statement (.sslt f) :=
  long_of rfl rfl (long_encS 0x3E f) (majorOf_encS 0x3E f) rfl (by
    unfold decodeOp
    rw [majorOf_encS, decS_enc]
    rfl)

theorem ssle (f : SFmt) : Statement (.ssle f) :=
  long_of rfl rfl (long_encS 0x3F f) (majorOf_encS 0x3F f) rfl (by
    unfold decodeOp
    rw [majorOf_encS, decS_enc]
    rfl)

theorem srdl (f : SFmt) : Statement (.srdl f) :=
  long_of rfl rfl (long_encS 0x40 f) (majorOf_encS 0x40 f) rfl (by
    unfold decodeOp
    rw [majorOf_encS, decS_enc]
    rfl)

theorem swrl (f : VFmt) : Statement (.swrl f) :=
  long_of rfl rfl (long_encV 0x41 f) (majorOf_encV 0x41 f) rfl (by
    unfold decodeOp
    rw [majorOf_encV, decV_enc]
    rfl)

theorem sli (f : SIFmt) : Statement (.sli f) :=
  of_halves _ rfl rfl fun _ => decode_plain (long_encSI 0x42 f) (by rw [majorOf_encSI]; rfl) (by rw [majorOf_encSI]; decide) (by
    unfold decodeOp
    rw [majorOf_encSI, decSI_enc]
    rfl)

theorem slih (f : SIFmt) : Statement (.slih f) :=
  of_halves _ rfl rfl fun _ => decode_plain (long_encSI 0x43 f) (by rw [majorOf_encSI]; rfl) (by rw [majorOf_encSI]; decide) (by
    unfold decodeOp
    rw [majorOf_encSI, decSI_enc]
    rfl)

theorem smov (f : SUFmt) : Statement (.smov f) :=
  long_of rfl rfl (long_encSU 0x44 0 f) (majorOf_encSU 0x44 0 f) rfl (by
    unfold decodeOp
    rw [majorOf_encSU, encSU_sub, decSU_enc]
    rfl)

theorem snot (f : SUFmt) : Statement (.snot f) :=
  long_of rfl rfl (long_encSU 0x44 1 f) (majorOf_encSU 0x44 1 f) rfl (by
    unfold decodeOp
    rw [majorOf_encSU, encSU_sub, decSU_enc]
    rfl)

theorem sneg (f : SUFmt) : Statement (.sneg f) :=
  long_of rfl rfl (long_encSU 0x44 2 f) (majorOf_encSU 0x44 2 f) rfl (by
    unfold decodeOp
    rw [majorOf_encSU, encSU_sub, decSU_enc]
    rfl)

theorem spopc (f : SUFmt) : Statement (.spopc f) :=
  long_of rfl rfl (long_encSU 0x44 3 f) (majorOf_encSU 0x44 3 f) rfl (by
    unfold decodeOp
    rw [majorOf_encSU, encSU_sub, decSU_enc]
    rfl)

theorem sclz (f : SUFmt) : Statement (.sclz f) :=
  long_of rfl rfl (long_encSU 0x44 4 f) (majorOf_encSU 0x44 4 f) rfl (by
    unfold decodeOp
    rw [majorOf_encSU, encSU_sub, decSU_enc]
    rfl)

theorem sctz (f : SUFmt) : Statement (.sctz f) :=
  long_of rfl rfl (long_encSU 0x44 5 f) (majorOf_encSU 0x44 5 f) rfl (by
    unfold decodeOp
    rw [majorOf_encSU, encSU_sub, decSU_enc]
    rfl)

theorem kand (f : KFmt) : Statement (.kand f) :=
  long_of rfl rfl (long_encK 0x47 0 f) (majorOf_encK 0x47 0 f) rfl (by
    unfold decodeOp
    rw [majorOf_encK, encK_sub, decK_enc]
    rfl)

theorem kor (f : KFmt) : Statement (.kor f) :=
  long_of rfl rfl (long_encK 0x47 1 f) (majorOf_encK 0x47 1 f) rfl (by
    unfold decodeOp
    rw [majorOf_encK, encK_sub, decK_enc]
    rfl)

theorem kxor (f : KFmt) : Statement (.kxor f) :=
  long_of rfl rfl (long_encK 0x47 2 f) (majorOf_encK 0x47 2 f) rfl (by
    unfold decodeOp
    rw [majorOf_encK, encK_sub, decK_enc]
    rfl)

theorem kandn (f : KFmt) : Statement (.kandn f) :=
  long_of rfl rfl (long_encK 0x47 3 f) (majorOf_encK 0x47 3 f) rfl (by
    unfold decodeOp
    rw [majorOf_encK, encK_sub, decK_enc]
    rfl)

theorem knot (f : KFmt) : Statement (.knot f) :=
  long_of rfl rfl (long_encK 0x47 4 f) (majorOf_encK 0x47 4 f) rfl (by
    unfold decodeOp
    rw [majorOf_encK, encK_sub, decK_enc]
    rfl)

theorem kfromv (f : KFmt) : Statement (.kfromv f) :=
  long_of rfl rfl (long_encK 0x47 5 f) (majorOf_encK 0x47 5 f) rfl (by
    unfold decodeOp
    rw [majorOf_encK, encK_sub, decK_enc]
    rfl)

theorem kfroms (f : KFmt) : Statement (.kfroms f) :=
  long_of rfl rfl (long_encK 0x47 6 f) (majorOf_encK 0x47 6 f) rfl (by
    unfold decodeOp
    rw [majorOf_encK, encK_sub, decK_enc]
    rfl)

theorem ktos (f : KFmt) : Statement (.ktos f) :=
  long_of rfl rfl (long_encK 0x47 7 f) (majorOf_encK 0x47 7 f) rfl (by
    unfold decodeOp
    rw [majorOf_encK, encK_sub, decK_enc]
    rfl)

theorem ld (f : MFmt) : Statement (.ld f) :=
  long_of rfl rfl (long_encM 0x48 f) (majorOf_encM 0x48 f) rfl (by
    unfold decodeOp
    rw [majorOf_encM, decM_enc]
    rfl)

theorem st (f : MFmt) : Statement (.st f) :=
  long_of rfl rfl (long_encM 0x49 f) (majorOf_encM 0x49 f) rfl (by
    unfold decodeOp
    rw [majorOf_encM, decM_enc]
    rfl)

theorem sld (f : SFmt) : Statement (.sld f) :=
  long_of rfl rfl (long_encS 0x4A f) (majorOf_encS 0x4A f) rfl (by
    unfold decodeOp
    rw [majorOf_encS, decS_enc]
    rfl)

theorem sst (f : SFmt) : Statement (.sst f) :=
  long_of rfl rfl (long_encS 0x4B f) (majorOf_encS 0x4B f) rfl (by
    unfold decodeOp
    rw [majorOf_encS, decS_enc]
    rfl)

theorem pf (f : MFmt) : Statement (.pf f) :=
  long_of rfl rfl (long_encM 0x4C f) (majorOf_encM 0x4C f) rfl (by
    unfold decodeOp
    rw [majorOf_encM, decM_enc]
    rfl)

theorem stMc (f : MFmt) : Statement (.stMc f) :=
  long_of rfl rfl (long_encM 0x4D f) (majorOf_encM 0x4D f) rfl (by
    unfold decodeOp
    rw [majorOf_encM, decM_enc]
    rfl)

theorem stRed (f : MFmt) : Statement (.stRed f) :=
  long_of rfl rfl (long_encM 0x4E f) (majorOf_encM 0x4E f) rfl (by
    unfold decodeOp
    rw [majorOf_encM, decM_enc]
    rfl)

theorem spLook (f : SFmt) : Statement (.spLook f) :=
  long_of rfl rfl (long_encS 0x4F f) (majorOf_encS 0x4F f) rfl (by
    unfold decodeOp
    rw [majorOf_encS, decS_enc]
    rfl)

theorem atmAdd (f : MFmt) : Statement (.atmAdd f) :=
  long_of rfl rfl (long_encM 0x50 f) (majorOf_encM 0x50 f) rfl (by
    unfold decodeOp
    rw [majorOf_encM, decM_enc]
    rfl)

theorem atmMin (f : MFmt) : Statement (.atmMin f) :=
  long_of rfl rfl (long_encM 0x51 f) (majorOf_encM 0x51 f) rfl (by
    unfold decodeOp
    rw [majorOf_encM, decM_enc]
    rfl)

theorem atmMax (f : MFmt) : Statement (.atmMax f) :=
  long_of rfl rfl (long_encM 0x52 f) (majorOf_encM 0x52 f) rfl (by
    unfold decodeOp
    rw [majorOf_encM, decM_enc]
    rfl)

theorem atmAnd (f : MFmt) : Statement (.atmAnd f) :=
  long_of rfl rfl (long_encM 0x53 f) (majorOf_encM 0x53 f) rfl (by
    unfold decodeOp
    rw [majorOf_encM, decM_enc]
    rfl)

theorem atmOr (f : MFmt) : Statement (.atmOr f) :=
  long_of rfl rfl (long_encM 0x54 f) (majorOf_encM 0x54 f) rfl (by
    unfold decodeOp
    rw [majorOf_encM, decM_enc]
    rfl)

theorem atmXor (f : MFmt) : Statement (.atmXor f) :=
  long_of rfl rfl (long_encM 0x55 f) (majorOf_encM 0x55 f) rfl (by
    unfold decodeOp
    rw [majorOf_encM, decM_enc]
    rfl)

theorem atmXchg (f : MFmt) : Statement (.atmXchg f) :=
  long_of rfl rfl (long_encM 0x56 f) (majorOf_encM 0x56 f) rfl (by
    unfold decodeOp
    rw [majorOf_encM, decM_enc]
    rfl)

theorem atmCas (f : MFmt) : Statement (.atmCas f) :=
  long_of rfl rfl (long_encM 0x57 f) (majorOf_encM 0x57 f) rfl (by
    unfold decodeOp
    rw [majorOf_encM, decM_enc]
    rfl)

theorem atmFadd (f : MFmt) : Statement (.atmFadd f) :=
  long_of rfl rfl (long_encM 0x58 f) (majorOf_encM 0x58 f) rfl (by
    unfold decodeOp
    rw [majorOf_encM, decM_enc]
    rfl)

theorem atmFaddDet (f : MFmt) : Statement (.atmFaddDet f) :=
  long_of rfl rfl (long_encM 0x59 f) (majorOf_encM 0x59 f) rfl (by
    unfold decodeOp
    rw [majorOf_encM, decM_enc]
    rfl)

theorem fence (f : YFmt) : Statement (.fence f) :=
  long_of rfl rfl (long_encY 0x5A f) (majorOf_encY 0x5A f) rfl (by
    unfold decodeOp
    rw [majorOf_encY, decY_enc]
    rfl)

theorem fibFork (f : JFmt) : Statement (.fibFork f) :=
  long_of rfl rfl (long_encJ 0x5B f) (majorOf_encJ 0x5B f) rfl (by
    unfold decodeOp
    rw [majorOf_encJ, decJ_enc]
    rfl)

theorem br (f : JFmt) : Statement (.br f) :=
  long_of rfl rfl (long_encJ 0x5C f) (majorOf_encJ 0x5C f) rfl (by
    unfold decodeOp
    rw [majorOf_encJ, decJ_enc]
    rfl)

theorem brn (f : JFmt) : Statement (.brn f) :=
  long_of rfl rfl (long_encJ 0x5D f) (majorOf_encJ 0x5D f) rfl (by
    unfold decodeOp
    rw [majorOf_encJ, decJ_enc]
    rfl)

theorem call (f : JFmt) : Statement (.call f) :=
  long_of rfl rfl (long_encJ 0x5E f) (majorOf_encJ 0x5E f) rfl (by
    unfold decodeOp
    rw [majorOf_encJ, decJ_enc]
    rfl)

theorem fibJoin (f : GFmt) : Statement (.fibJoin f) :=
  long_of rfl rfl (long_encG 0x5F 0 f) (majorOf_encG 0x5F 0 f) rfl (by
    unfold decodeOp
    rw [majorOf_encG, encG_sub, decG_enc]
    rfl)

theorem fibExit (f : GFmt) : Statement (.fibExit f) :=
  long_of rfl rfl (long_encG 0x5F 1 f) (majorOf_encG 0x5F 1 f) rfl (by
    unfold decodeOp
    rw [majorOf_encG, encG_sub, decG_enc]
    rfl)

theorem fibYield (f : GFmt) : Statement (.fibYield f) :=
  long_of rfl rfl (long_encG 0x5F 2 f) (majorOf_encG 0x5F 2 f) rfl (by
    unfold decodeOp
    rw [majorOf_encG, encG_sub, decG_enc]
    rfl)

theorem ret (f : GFmt) : Statement (.ret f) :=
  long_of rfl rfl (long_encG 0x5F 3 f) (majorOf_encG 0x5F 3 f) rfl (by
    unfold decodeOp
    rw [majorOf_encG, encG_sub, decG_enc]
    rfl)

theorem brInd (f : GFmt) : Statement (.brInd f) :=
  long_of rfl rfl (long_encG 0x5F 4 f) (majorOf_encG 0x5F 4 f) rfl (by
    unfold decodeOp
    rw [majorOf_encG, encG_sub, decG_enc]
    rfl)

theorem callInd (f : GFmt) : Statement (.callInd f) :=
  long_of rfl rfl (long_encG 0x5F 5 f) (majorOf_encG 0x5F 5 f) rfl (by
    unfold decodeOp
    rw [majorOf_encG, encG_sub, decG_enc]
    rfl)

theorem nop (f : GFmt) : Statement (.nop f) :=
  long_of rfl rfl (long_encG 0x5F 6 f) (majorOf_encG 0x5F 6 f) rfl (by
    unfold decodeOp
    rw [majorOf_encG, encG_sub, decG_enc]
    rfl)

theorem sysRd (f : YFmt) : Statement (.sysRd f) :=
  long_of rfl rfl (long_encY 0x60 f) (majorOf_encY 0x60 f) rfl (by
    unfold decodeOp
    rw [majorOf_encY, decY_enc]
    rfl)

theorem sysWr (f : YFmt) : Statement (.sysWr f) :=
  long_of rfl rfl (long_encY 0x61 f) (majorOf_encY 0x61 f) rfl (by
    unfold decodeOp
    rw [majorOf_encY, decY_enc]
    rfl)

theorem trap (f : YFmt) : Statement (.trap f) :=
  long_of rfl rfl (long_encY 0x62 f) (majorOf_encY 0x62 f) rfl (by
    unfold decodeOp
    rw [majorOf_encY, decY_enc]
    rfl)

theorem sig (f : YFmt) : Statement (.sig f) :=
  long_of rfl rfl (long_encY 0x63 f) (majorOf_encY 0x63 f) rfl (by
    unfold decodeOp
    rw [majorOf_encY, decY_enc]
    rfl)

theorem qTail (f : GFmt) : Statement (.qTail f) :=
  long_of rfl rfl (long_encG 0x64 0 f) (majorOf_encG 0x64 0 f) rfl (by
    unfold decodeOp
    rw [majorOf_encG, encG_sub, decG_enc]
    rfl)

theorem qCancel (f : GFmt) : Statement (.qCancel f) :=
  long_of rfl rfl (long_encG 0x64 1 f) (majorOf_encG 0x64 1 f) rfl (by
    unfold decodeOp
    rw [majorOf_encG, encG_sub, decG_enc]
    rfl)

theorem qEvt (f : GFmt) : Statement (.qEvt f) :=
  long_of rfl rfl (long_encG 0x64 2 f) (majorOf_encG 0x64 2 f) rfl (by
    unfold decodeOp
    rw [majorOf_encG, encG_sub, decG_enc]
    rfl)

theorem pkRd (f : GFmt) : Statement (.pkRd f) :=
  long_of rfl rfl (long_encG 0x65 0 f) (majorOf_encG 0x65 0 f) rfl (by
    unfold decodeOp
    rw [majorOf_encG, encG_sub, decG_enc]
    rfl)

theorem pkMask (f : GFmt) : Statement (.pkMask f) :=
  long_of rfl rfl (long_encG 0x65 1 f) (majorOf_encG 0x65 1 f) rfl (by
    unfold decodeOp
    rw [majorOf_encG, encG_sub, decG_enc]
    rfl)

theorem pkPc (f : GFmt) : Statement (.pkPc f) :=
  long_of rfl rfl (long_encG 0x65 2 f) (majorOf_encG 0x65 2 f) rfl (by
    unfold decodeOp
    rw [majorOf_encG, encG_sub, decG_enc]
    rfl)

theorem pkResume (f : GFmt) : Statement (.pkResume f) :=
  long_of rfl rfl (long_encG 0x65 3 f) (majorOf_encG 0x65 3 f) rfl (by
    unfold decodeOp
    rw [majorOf_encG, encG_sub, decG_enc]
    rfl)

theorem pkKill (f : GFmt) : Statement (.pkKill f) :=
  long_of rfl rfl (long_encG 0x65 4 f) (majorOf_encG 0x65 4 f) rfl (by
    unfold decodeOp
    rw [majorOf_encG, encG_sub, decG_enc]
    rfl)

theorem hdlRet (f : GFmt) : Statement (.hdlRet f) :=
  long_of rfl rfl (long_encG 0x65 5 f) (majorOf_encG 0x65 5 f) rfl (by
    unfold decodeOp
    rw [majorOf_encG, encG_sub, decG_enc]
    rfl)

theorem spSet (f : GFmt) : Statement (.spSet f) :=
  long_of rfl rfl (long_encG 0x66 0 f) (majorOf_encG 0x66 0 f) rfl (by
    unfold decodeOp
    rw [majorOf_encG, encG_sub, decG_enc]
    rfl)

theorem spInv (f : GFmt) : Statement (.spInv f) :=
  long_of rfl rfl (long_encG 0x66 1 f) (majorOf_encG 0x66 1 f) rfl (by
    unfold decodeOp
    rw [majorOf_encG, encG_sub, decG_enc]
    rfl)

theorem mm (f : XFmt) : Statement (.mm f) :=
  long_of rfl rfl (long_encX 0x68 f) (majorOf_encX 0x68 f) rfl (by
    unfold decodeOp
    rw [majorOf_encX, decX_enc]
    rfl)

theorem accClr (f : GFmt) : Statement (.accClr f) :=
  long_of rfl rfl (long_encG 0x69 0 f) (majorOf_encG 0x69 0 f) rfl (by
    unfold decodeOp
    rw [majorOf_encG, encG_sub, decG_enc]
    rfl)

theorem accMov (f : GFmt) : Statement (.accMov f) :=
  long_of rfl rfl (long_encG 0x69 1 f) (majorOf_encG 0x69 1 f) rfl (by
    unfold decodeOp
    rw [majorOf_encG, encG_sub, decG_enc]
    rfl)

theorem accLd (f : GFmt) : Statement (.accLd f) :=
  long_of rfl rfl (long_encG 0x69 2 f) (majorOf_encG 0x69 2 f) rfl (by
    unfold decodeOp
    rw [majorOf_encG, encG_sub, decG_enc]
    rfl)

theorem accSt (f : GFmt) : Statement (.accSt f) :=
  long_of rfl rfl (long_encG 0x69 3 f) (majorOf_encG 0x69 3 f) rfl (by
    unfold decodeOp
    rw [majorOf_encG, encG_sub, decG_enc]
    rfl)

theorem accPut (f : GFmt) : Statement (.accPut f) :=
  long_of rfl rfl (long_encG 0x69 4 f) (majorOf_encG 0x69 4 f) rfl (by
    unfold decodeOp
    rw [majorOf_encG, encG_sub, decG_enc]
    rfl)

theorem osClaim (f : GFmt) : Statement (.osClaim f) :=
  long_of rfl rfl (long_encG 0x69 5 f) (majorOf_encG 0x69 5 f) rfl (by
    unfold decodeOp
    rw [majorOf_encG, encG_sub, decG_enc]
    rfl)

theorem osRel (f : GFmt) : Statement (.osRel f) :=
  long_of rfl rfl (long_encG 0x69 6 f) (majorOf_encG 0x69 6 f) rfl (by
    unfold decodeOp
    rw [majorOf_encG, encG_sub, decG_enc]
    rfl)

theorem mmWait (f : GFmt) : Statement (.mmWait f) :=
  long_of rfl rfl (long_encG 0x69 7 f) (majorOf_encG 0x69 7 f) rfl (by
    unfold decodeOp
    rw [majorOf_encG, encG_sub, decG_enc]
    rfl)

theorem tex (f : VFmt) : Statement (.tex f) :=
  long_of rfl rfl (long_encV 0x6C f) (majorOf_encV 0x6C f) rfl (by
    unfold decodeOp
    rw [majorOf_encV, decV_enc]
    rfl)

theorem texFetch (f : VFmt) : Statement (.texFetch f) :=
  long_of rfl rfl (long_encV 0x6D f) (majorOf_encV 0x6D f) rfl (by
    unfold decodeOp
    rw [majorOf_encV, decV_enc]
    rfl)

theorem tbLd (f : UFmt) : Statement (.tbLd f) :=
  long_of rfl rfl (long_encU 0x6E 0 f) (majorOf_encU 0x6E 0 f) rfl (by
    unfold decodeOp
    rw [majorOf_encU, encU_sub, decU_enc]
    rfl)

theorem tbSt (f : UFmt) : Statement (.tbSt f) :=
  long_of rfl rfl (long_encU 0x6E 1 f) (majorOf_encU 0x6E 1 f) rfl (by
    unfold decodeOp
    rw [majorOf_encU, encU_sub, decU_enc]
    rfl)

theorem tbFence (f : UFmt) : Statement (.tbFence f) :=
  long_of rfl rfl (long_encU 0x6E 2 f) (majorOf_encU 0x6E 2 f) rfl (by
    unfold decodeOp
    rw [majorOf_encU, encU_sub, decU_enc]
    rfl)

theorem pixOwn (f : UFmt) : Statement (.pixOwn f) :=
  long_of rfl rfl (long_encU 0x6F 0 f) (majorOf_encU 0x6F 0 f) rfl (by
    unfold decodeOp
    rw [majorOf_encU, encU_sub, decU_enc]
    rfl)

theorem pixExp (f : UFmt) : Statement (.pixExp f) :=
  long_of rfl rfl (long_encU 0x6F 1 f) (majorOf_encU 0x6F 1 f) rfl (by
    unfold decodeOp
    rw [majorOf_encU, encU_sub, decU_enc]
    rfl)

theorem ctLook (f : UFmt) : Statement (.ctLook f) :=
  long_of rfl rfl (long_encU 0x6F 2 f) (majorOf_encU 0x6F 2 f) rfl (by
    unfold decodeOp
    rw [majorOf_encU, encU_sub, decU_enc]
    rfl)

theorem frtRetire (f : GFmt) : Statement (.frtRetire f) :=
  long_of rfl rfl (long_encG 0x70 0 f) (majorOf_encG 0x70 0 f) rfl (by
    unfold decodeOp
    rw [majorOf_encG, encG_sub, decG_enc]
    rfl)

theorem frtYield (f : GFmt) : Statement (.frtYield f) :=
  long_of rfl rfl (long_encG 0x70 1 f) (majorOf_encG 0x70 1 f) rfl (by
    unfold decodeOp
    rw [majorOf_encG, encG_sub, decG_enc]
    rfl)

theorem frtQuery (f : GFmt) : Statement (.frtQuery f) :=
  long_of rfl rfl (long_encG 0x70 2 f) (majorOf_encG 0x70 2 f) rfl (by
    unfold decodeOp
    rw [majorOf_encG, encG_sub, decG_enc]
    rfl)

theorem frtCancel (f : GFmt) : Statement (.frtCancel f) :=
  long_of rfl rfl (long_encG 0x70 3 f) (majorOf_encG 0x70 3 f) rfl (by
    unfold decodeOp
    rw [majorOf_encG, encG_sub, decG_enc]
    rfl)

theorem tdSet (f : GFmt) : Statement (.tdSet f) :=
  long_of rfl rfl (long_encG 0x71 0 f) (majorOf_encG 0x71 0 f) rfl (by
    unfold decodeOp
    rw [majorOf_encG, encG_sub, decG_enc]
    rfl)

theorem tdGet (f : GFmt) : Statement (.tdGet f) :=
  long_of rfl rfl (long_encG 0x71 1 f) (majorOf_encG 0x71 1 f) rfl (by
    unfold decodeOp
    rw [majorOf_encG, encG_sub, decG_enc]
    rfl)

theorem tdInv (f : GFmt) : Statement (.tdInv f) :=
  long_of rfl rfl (long_encG 0x71 2 f) (majorOf_encG 0x71 2 f) rfl (by
    unfold decodeOp
    rw [majorOf_encG, encG_sub, decG_enc]
    rfl)

theorem cpKick (f : GFmt) : Statement (.cpKick f) :=
  long_of rfl rfl (long_encG 0x71 3 f) (majorOf_encG 0x71 3 f) rfl (by
    unfold decodeOp
    rw [majorOf_encG, encG_sub, decG_enc]
    rfl)

theorem cpGather (f : GFmt) : Statement (.cpGather f) :=
  long_of rfl rfl (long_encG 0x71 4 f) (majorOf_encG 0x71 4 f) rfl (by
    unfold decodeOp
    rw [majorOf_encG, encG_sub, decG_enc]
    rfl)

theorem barSync (f : GFmt) : Statement (.barSync f) :=
  long_of rfl rfl (long_encG 0x72 0 f) (majorOf_encG 0x72 0 f) rfl (by
    unfold decodeOp
    rw [majorOf_encG, encG_sub, decG_enc]
    rfl)

theorem barTeam (f : GFmt) : Statement (.barTeam f) :=
  long_of rfl rfl (long_encG 0x72 1 f) (majorOf_encG 0x72 1 f) rfl (by
    unfold decodeOp
    rw [majorOf_encG, encG_sub, decG_enc]
    rfl)

theorem barArrive (f : GFmt) : Statement (.barArrive f) :=
  long_of rfl rfl (long_encG 0x72 2 f) (majorOf_encG 0x72 2 f) rfl (by
    unfold decodeOp
    rw [majorOf_encG, encG_sub, decG_enc]
    rfl)

theorem barPost (f : GFmt) : Statement (.barPost f) :=
  long_of rfl rfl (long_encG 0x72 3 f) (majorOf_encG 0x72 3 f) rfl (by
    unfold decodeOp
    rw [majorOf_encG, encG_sub, decG_enc]
    rfl)

theorem barWait (f : GFmt) : Statement (.barWait f) :=
  long_of rfl rfl (long_encG 0x72 4 f) (majorOf_encG 0x72 4 f) rfl (by
    unfold decodeOp
    rw [majorOf_encG, encG_sub, decG_enc]
    rfl)

theorem tlWait (f : GFmt) : Statement (.tlWait f) :=
  long_of rfl rfl (long_encG 0x72 5 f) (majorOf_encG 0x72 5 f) rfl (by
    unfold decodeOp
    rw [majorOf_encG, encG_sub, decG_enc]
    rfl)

theorem tlRd (f : GFmt) : Statement (.tlRd f) :=
  long_of rfl rfl (long_encG 0x72 6 f) (majorOf_encG 0x72 6 f) rfl (by
    unfold decodeOp
    rw [majorOf_encG, encG_sub, decG_enc]
    rfl)

theorem cntRd (f : GFmt) : Statement (.cntRd f) :=
  long_of rfl rfl (long_encG 0x72 7 f) (majorOf_encG 0x72 7 f) rfl (by
    unfold decodeOp
    rw [majorOf_encG, encG_sub, decG_enc]
    rfl)

theorem vClaim (f : GFmt) : Statement (.vClaim f) :=
  long_of rfl rfl (long_encG 0x73 0 f) (majorOf_encG 0x73 0 f) rfl (by
    unfold decodeOp
    rw [majorOf_encG, encG_sub, decG_enc]
    rfl)

theorem vRel (f : GFmt) : Statement (.vRel f) :=
  long_of rfl rfl (long_encG 0x73 1 f) (majorOf_encG 0x73 1 f) rfl (by
    unfold decodeOp
    rw [majorOf_encG, encG_sub, decG_enc]
    rfl)

theorem winSet (f : GFmt) : Statement (.winSet f) :=
  long_of rfl rfl (long_encG 0x73 2 f) (majorOf_encG 0x73 2 f) rfl (by
    unfold decodeOp
    rw [majorOf_encG, encG_sub, decG_enc]
    rfl)

theorem winAdd (f : GFmt) : Statement (.winAdd f) :=
  long_of rfl rfl (long_encG 0x73 3 f) (majorOf_encG 0x73 3 f) rfl (by
    unfold decodeOp
    rw [majorOf_encG, encG_sub, decG_enc]
    rfl)

theorem wcsLd (f : GFmt) : Statement (.wcsLd f) :=
  long_of rfl rfl (long_encG 0x74 0 f) (majorOf_encG 0x74 0 f) rfl (by
    unfold decodeOp
    rw [majorOf_encG, encG_sub, decG_enc]
    rfl)

theorem wcsBind (f : GFmt) : Statement (.wcsBind f) :=
  long_of rfl rfl (long_encG 0x74 1 f) (majorOf_encG 0x74 1 f) rfl (by
    unfold decodeOp
    rw [majorOf_encG, encG_sub, decG_enc]
    rfl)

theorem wcsUnbind (f : GFmt) : Statement (.wcsUnbind f) :=
  long_of rfl rfl (long_encG 0x74 2 f) (majorOf_encG 0x74 2 f) rfl (by
    unfold decodeOp
    rw [majorOf_encG, encG_sub, decG_enc]
    rfl)

theorem wcsInv (f : GFmt) : Statement (.wcsInv f) :=
  long_of rfl rfl (long_encG 0x74 3 f) (majorOf_encG 0x74 3 f) rfl (by
    unfold decodeOp
    rw [majorOf_encG, encG_sub, decG_enc]
    rfl)

theorem xop (f : XOFmt) : Statement (.xop f) :=
  long_of rfl rfl (long_encXO 0x78 f) (majorOf_encXO 0x78 f) rfl (by
    unfold decodeOp
    rw [majorOf_encXO, decXO_enc]
    rfl)

theorem uadd (f : UopFmt) : Statement (.uadd f) := of_uop rfl rfl rfl

theorem usub (f : UopFmt) : Statement (.usub f) := of_uop rfl rfl rfl

theorem umul (f : UopFmt) : Statement (.umul f) := of_uop rfl rfl rfl

theorem umad (f : UopFmt) : Statement (.umad f) := of_uop rfl rfl rfl

theorem uand (f : UopFmt) : Statement (.uand f) := of_uop rfl rfl rfl

theorem uor (f : UopFmt) : Statement (.uor f) := of_uop rfl rfl rfl

theorem uxor (f : UopFmt) : Statement (.uxor f) := of_uop rfl rfl rfl

theorem uandn (f : UopFmt) : Statement (.uandn f) := of_uop rfl rfl rfl

theorem ushl (f : UopFmt) : Statement (.ushl f) := of_uop rfl rfl rfl

theorem ushr (f : UopFmt) : Statement (.ushr f) := of_uop rfl rfl rfl

theorem usra (f : UopFmt) : Statement (.usra f) := of_uop rfl rfl rfl

theorem umin (f : UopFmt) : Statement (.umin f) := of_uop rfl rfl rfl

theorem umax (f : UopFmt) : Statement (.umax f) := of_uop rfl rfl rfl

theorem uminn (f : UopFmt) : Statement (.uminn f) := of_uop rfl rfl rfl

theorem umaxn (f : UopFmt) : Statement (.umaxn f) := of_uop rfl rfl rfl

theorem useq (f : UopFmt) : Statement (.useq f) := of_uop rfl rfl rfl

theorem usne (f : UopFmt) : Statement (.usne f) := of_uop rfl rfl rfl

theorem uslt (f : UopFmt) : Statement (.uslt f) := of_uop rfl rfl rfl

theorem usle (f : UopFmt) : Statement (.usle f) := of_uop rfl rfl rfl

theorem usltn (f : UopFmt) : Statement (.usltn f) := of_uop rfl rfl rfl

theorem usel (f : UopFmt) : Statement (.usel f) := of_uop rfl rfl rfl

theorem ubfx (f : UopFmt) : Statement (.ubfx f) := of_uop rfl rfl rfl

theorem uzx32 (f : UopFmt) : Statement (.uzx32 f) := of_uop rfl rfl rfl

theorem usx32 (f : UopFmt) : Statement (.usx32 f) := of_uop rfl rfl rfl

theorem ufadd (f : UopFmt) : Statement (.ufadd f) := of_uop rfl rfl rfl

theorem ufsub (f : UopFmt) : Statement (.ufsub f) := of_uop rfl rfl rfl

theorem ufmul (f : UopFmt) : Statement (.ufmul f) := of_uop rfl rfl rfl

theorem uffma (f : UopFmt) : Statement (.uffma f) := of_uop rfl rfl rfl

theorem ufmin (f : UopFmt) : Statement (.ufmin f) := of_uop rfl rfl rfl

theorem ufmax (f : UopFmt) : Statement (.ufmax f) := of_uop rfl rfl rfl

theorem ufcvti (f : UopFmt) : Statement (.ufcvti f) := of_uop rfl rfl rfl

theorem uicvtf (f : UopFmt) : Statement (.uicvtf f) := of_uop rfl rfl rfl

theorem umov (f : UopFmt) : Statement (.umov f) := of_uop rfl rfl rfl

theorem upick (f : UopFmt) : Statement (.upick f) := of_uop rfl rfl rfl

theorem uld32 (f : UopFmt) : Statement (.uld32 f) := of_uop rfl rfl rfl

theorem uld64 (f : UopFmt) : Statement (.uld64 f) := of_uop rfl rfl rfl

theorem ust32 (f : UopFmt) : Statement (.ust32 f) := of_uop rfl rfl rfl

theorem ust64 (f : UopFmt) : Statement (.ust64 f) := of_uop rfl rfl rfl

theorem ujmp (f : UopFmt) : Statement (.ujmp f) := of_uop rfl rfl rfl

theorem ubnz (f : UopFmt) : Statement (.ubnz f) := of_uop rfl rfl rfl

theorem ubz (f : UopFmt) : Statement (.ubz f) := of_uop rfl rfl rfl

theorem uend (f : UopFmt) : Statement (.uend f) := of_uop rfl rfl rfl

theorem uout (f : UopFmt) : Statement (.uout f) := of_uop rfl rfl rfl

theorem status (h : MbHdr) : Statement (.status h) := of_none rfl rfl

theorem vfEnable (h : MbHdr) (n : Nat) : Statement (.vfEnable h n) := of_none rfl rfl

theorem vfQuota (h : MbHdr) (q : VfQuotaArgs) : Statement (.vfQuota h q) := of_none rfl rfl

theorem slotAssign (h : MbHdr) (q : SlotArgs) : Statement (.slotAssign h q) := of_none rfl rfl

theorem slotRestart (h : MbHdr) (slot : Nat) : Statement (.slotRestart h slot) := of_none rfl rfl

theorem slotFree (h : MbHdr) (slot : Nat) : Statement (.slotFree h slot) := of_none rfl rfl

theorem depcAssign (h : MbHdr) (ctr vf : Nat) : Statement (.depcAssign h ctr vf) := of_none rfl rfl

theorem depcReset (h : MbHdr) (ctr : Nat) : Statement (.depcReset h ctr) := of_none rfl rfl

theorem ctxCreate (h : MbHdr) (q : CtxArgs) : Statement (.ctxCreate h q) := of_none rfl rfl

theorem ctxDestroy (h : MbHdr) (ctx : Nat) : Statement (.ctxDestroy h ctx) := of_none rfl rfl

theorem ctxSwitch (h : MbHdr) (ctx phase : Nat) : Statement (.ctxSwitch h ctx phase) := of_none rfl rfl

theorem ctxStat (h : MbHdr) (ctx : Nat) : Statement (.ctxStat h ctx) := of_none rfl rfl

theorem ctxRoot (h : MbHdr) (ctx : Nat) (tbase : W64) : Statement (.ctxRoot h ctx tbase) := of_none rfl rfl

theorem ctxResume (h : MbHdr) (ctx : Nat) : Statement (.ctxResume h ctx) := of_none rfl rfl

theorem preempt (h : MbHdr) (tgt : Target) : Statement (.preempt h tgt) := of_none rfl rfl

theorem evqRead (h : MbHdr) (ctx : Nat) : Statement (.evqRead h ctx) := of_none rfl rfl

theorem tlbInv (h : MbHdr) (tgt : Target) (lo hi : Nat) : Statement (.tlbInv h tgt lo hi) := of_none rfl rfl

theorem frmAllot (h : MbHdr) (vf vpa size world : Nat) : Statement (.frmAllot h vf vpa size world) := of_none rfl rfl

theorem frmFree (h : MbHdr) (vf vpa size : Nat) : Statement (.frmFree h vf vpa size) := of_none rfl rfl

theorem frmQuota (h : MbHdr) (vf gf bf backBase backSize : Nat) : Statement (.frmQuota h vf gf bf backBase backSize) := of_none rfl rfl

theorem potSet (h : MbHdr) (pa size vf world state : Nat) : Statement (.potSet h pa size vf world state) := of_none rfl rfl

theorem dirtyBase (h : MbHdr) (vf a b : Nat) (en : Bool) : Statement (.dirtyBase h vf a b en) := of_none rfl rfl

theorem dirtySwap (h : MbHdr) (vf : Nat) : Statement (.dirtySwap h vf) := of_none rfl rfl

theorem dispCfg (h : MbHdr) (q : DispArgs) : Statement (.dispCfg h q) := of_none rfl rfl

theorem pomWrite (h : MbHdr) (q : PomCmd) (disp : Nat) : Statement (.pomWrite h q disp) := of_none rfl rfl

theorem surfReg (h : MbHdr) (q : SurfArgs) : Statement (.surfReg h q) := of_none rfl rfl

theorem surfFree (h : MbHdr) (sid : Nat) : Statement (.surfFree h sid) := of_none rfl rfl

theorem rvalSet (h : MbHdr) (oid : Nat) (v : Rgba) : Statement (.rvalSet h oid v) := of_none rfl rfl

theorem ctGrant (h : MbHdr) (q : GrantArgs) : Statement (.ctGrant h q) := of_none rfl rfl

theorem ctWithdraw (h : MbHdr) (idx : Nat) : Statement (.ctWithdraw h idx) := of_none rfl rfl

theorem pqCreate (h : MbHdr) (q : PqArgs) : Statement (.pqCreate h q) := of_none rfl rfl

theorem pqFree (h : MbHdr) (pq : Nat) : Statement (.pqFree h pq) := of_none rfl rfl

theorem wcsAssign (h : MbHdr) (vf : Nat) (set rel : Half) : Statement (.wcsAssign h vf set rel) := of_none rfl rfl

theorem xopLoad (h : MbHdr) (ctx : Nat) (q : XopLoadArgs) : Statement (.xopLoad h ctx q) := of_none rfl rfl

theorem xopQuery (h : MbHdr) (ctx : Nat) : Statement (.xopQuery h ctx) := of_none rfl rfl

theorem mashReset (h : MbHdr) (core : Nat) : Statement (.mashReset h core) := of_none rfl rfl

theorem clkSet (h : MbHdr) (cluster mhz : Nat) : Statement (.clkSet h cluster mhz) := of_none rfl rfl

theorem ldoSet (h : MbHdr) (cluster mv : Nat) : Statement (.ldoSet h cluster mv) := of_none rfl rfl

theorem kilnSet (h : MbHdr) (cluster cap : Nat) (ramp : List (Nat × Nat)) : Statement (.kilnSet h cluster cap ramp) := of_none rfl rfl

theorem thermQuery (h : MbHdr) (cluster : Nat) : Statement (.thermQuery h cluster) := of_none rfl rfl

theorem pwrStat (h : MbHdr) (cluster : Nat) : Statement (.pwrStat h cluster) := of_none rfl rfl

theorem errLog (h : MbHdr) (array index : Nat) : Statement (.errLog h array index) := of_none rfl rfl

theorem errInject (h : MbHdr) (array : Nat) (word : BitVec 128) : Statement (.errInject h array word) := of_none rfl rfl

theorem worldNew (h : MbHdr) : Statement (.worldNew h) := of_none rfl rfl

theorem sealKey (h : MbHdr) (world key : Nat) (k : BitVec 512) : Statement (.sealKey h world key k) := of_none rfl rfl

theorem worldUnseal (h : MbHdr) (world : Nat) (token : BitVec 128) : Statement (.worldUnseal h world token) := of_none rfl rfl

theorem worldFree (h : MbHdr) (world : Nat) : Statement (.worldFree h world) := of_none rfl rfl

theorem patchStage (h : MbHdr) (addr size : Nat) : Statement (.patchStage h addr size) := of_none rfl rfl

theorem patchActivate (h : MbHdr) : Statement (.patchActivate h) := of_none rfl rfl

theorem fabMap (h : MbHdr) (link peer : Nat) : Statement (.fabMap h link peer) := of_none rfl rfl

theorem collPost (h : MbHdr) (q : CollArgs) : Statement (.collPost h q) := of_none rfl rfl

theorem migOut (h : MbHdr) (vf peer : Nat) : Statement (.migOut h vf peer) := of_none rfl rfl

theorem migIn (h : MbHdr) (ticket : BitVec 128) : Statement (.migIn h ticket) := of_none rfl rfl

theorem migStat (h : MbHdr) (vf : Nat) : Statement (.migStat h vf) := of_none rfl rfl

theorem unknownCommand (h : MbHdr) (code : Byte) : Statement (.unknownCommand h code) := of_none rfl rfl

theorem mbsemRead (fn port : Nat) : Statement (.mbsemRead fn port) := of_none rfl rfl

theorem mbsemRel (fn port : Nat) : Statement (.mbsemRel fn port) := of_none rfl rfl

theorem mbstatViolClear (fn : Nat) : Statement (.mbstatViolClear fn) := of_none rfl rfl

theorem registerWrite (fn port off : Nat) (v : W64) : Statement (.registerWrite fn port off v) := of_none rfl rfl

theorem getVersion (fn : Nat) (req : SpdmReq) : Statement (.getVersion fn req) := of_none rfl rfl

theorem getCapabilities (fn : Nat) (req : SpdmReq) : Statement (.getCapabilities fn req) := of_none rfl rfl

theorem negotiateAlgorithms (fn : Nat) (req : SpdmReq) : Statement (.negotiateAlgorithms fn req) := of_none rfl rfl

theorem getDigests (fn : Nat) (req : SpdmReq) : Statement (.getDigests fn req) := of_none rfl rfl

theorem getCertificate (fn : Nat) (req : SpdmReq) : Statement (.getCertificate fn req) := of_none rfl rfl

theorem challenge (fn : Nat) (req : SpdmReq) : Statement (.challenge fn req) := of_none rfl rfl

theorem getMeasurements (fn : Nat) (req : SpdmReq) : Statement (.getMeasurements fn req) := of_none rfl rfl

theorem keyExchange (fn : Nat) (req : SpdmReq) : Statement (.keyExchange fn req) := of_none rfl rfl

theorem finish (fn : Nat) (req : SpdmReq) : Statement (.finish fn req) := of_none rfl rfl

theorem heartbeat (fn : Nat) (req : SpdmReq) : Statement (.heartbeat fn req) := of_none rfl rfl

theorem keyUpdate (fn : Nat) (req : SpdmReq) : Statement (.keyUpdate fn req) := of_none rfl rfl

theorem endSession (fn : Nat) (req : SpdmReq) : Statement (.endSession fn req) := of_none rfl rfl

theorem unsupportedRequest (fn : Nat) (req : SpdmReq) : Statement (.unsupportedRequest fn req) := of_none rfl rfl

theorem queueDoorbell (slot tail : Nat) : Statement (.queueDoorbell slot tail) := of_none rfl rfl

theorem recordTake (slot : Nat) : Statement (.recordTake slot) := of_none rfl rfl

theorem recordBegin (slot : Nat) : Statement (.recordBegin slot) := of_none rfl rfl

theorem pointFire (cluster : Nat) : Statement (.pointFire cluster) := of_none rfl rfl

theorem blockRestorePlace (bsn : Nat) : Statement (.blockRestorePlace bsn) := of_none rfl rfl

theorem activeSlotEntry (gid : Nat) : Statement (.activeSlotEntry gid) := of_none rfl rfl

theorem claimDeadlock (bsn : Nat) : Statement (.claimDeadlock bsn) := of_none rfl rfl

theorem pointRetire (bsn : Nat) : Statement (.pointRetire bsn) := of_none rfl rfl

theorem detCommit (launch : Nat) : Statement (.detCommit launch) := of_none rfl rfl

theorem launchRetire (launch : Nat) : Statement (.launchRetire launch) := of_none rfl rfl

theorem handlerEntry (ctx : Nat) : Statement (.handlerEntry ctx) := of_none rfl rfl

theorem signalDelivery (k : Nat) : Statement (.signalDelivery k) := of_none rfl rfl

theorem mgmtDoorbellRead (ctx : Nat) : Statement (.mgmtDoorbellRead ctx) := of_none rfl rfl

theorem eventRecordWrite (k : Nat) : Statement (.eventRecordWrite k) := of_none rfl rfl

theorem memoryAccessPerform (k : Nat) : Statement (.memoryAccessPerform k) := of_none rfl rfl

theorem loadDataReturn (gid : Nat) : Statement (.loadDataReturn gid) := of_none rfl rfl

theorem pageOut (vf : Nat) : Statement (.pageOut vf) := of_none rfl rfl

theorem pageIn (vf frame : Nat) : Statement (.pageIn vf frame) := of_none rfl rfl

theorem accumulatorOwnershipTrap (core ctx : Nat) : Statement (.accumulatorOwnershipTrap core ctx) := of_none rfl rfl

theorem mashOpStart (core : Nat) : Statement (.mashOpStart core) := of_none rfl rfl

theorem mashOpComplete (core : Nat) : Statement (.mashOpComplete core) := of_none rfl rfl

theorem accOpExecute (core : Nat) : Statement (.accOpExecute core) := of_none rfl rfl

theorem mashTimeoutReset (core : Nat) : Statement (.mashTimeoutReset core) := of_none rfl rfl

theorem copyByteArrival (core k n : Nat) : Statement (.copyByteArrival core k n) := of_none rfl rfl

theorem kilnStep (cluster : Nat) : Statement (.kilnStep cluster) := of_none rfl rfl

theorem kilnRequest (cluster : Nat) (who : KilnWho) : Statement (.kilnRequest cluster who) := of_none rfl rfl

theorem vectorBurstEnd (core part : Nat) : Statement (.vectorBurstEnd core part) := of_none rfl rfl

theorem thermalSample (cluster quarterDeg : Nat) : Statement (.thermalSample cluster quarterDeg) := of_none rfl rfl

theorem droopAlarm (cluster : Nat) : Statement (.droopAlarm cluster) := of_none rfl rfl

theorem denyEnd (cluster : Nat) : Statement (.denyEnd cluster) := of_none rfl rfl

theorem hotSpotMigration (cluster : Nat) : Statement (.hotSpotMigration cluster) := of_none rfl rfl

theorem retentionEntry (cluster : Nat) : Statement (.retentionEntry cluster) := of_none rfl rfl

theorem retentionExit (cluster : Nat) : Statement (.retentionExit cluster) := of_none rfl rfl

theorem sliceExpiry (vf : Nat) : Statement (.sliceExpiry vf) := of_none rfl rfl

theorem drainExpiry (tgt : Target) : Statement (.drainExpiry tgt) := of_none rfl rfl

theorem coopBudgetExpiry (tgt : Target) : Statement (.coopBudgetExpiry tgt) := of_none rfl rfl

theorem preemptTExpiry (slot : Nat) : Statement (.preemptTExpiry slot) := of_none rfl rfl

theorem forcedSave (tgt : Target) : Statement (.forcedSave tgt) := of_none rfl rfl

theorem displayBoundary (disp : Nat) : Statement (.displayBoundary disp) := of_none rfl rfl

theorem presentDoorbell (pq tail : Nat) : Statement (.presentDoorbell pq tail) := of_none rfl rfl

theorem passItemTake (pass : Nat) : Statement (.passItemTake pass) := of_none rfl rfl

theorem tileRaster (pass tile : Nat) : Statement (.tileRaster pass tile) := of_none rfl rfl

theorem binOverflowSpill (pass : Nat) : Statement (.binOverflowSpill pass) := of_none rfl rfl

theorem sampleCommit (pass k : Nat) : Statement (.sampleCommit pass k) := of_none rfl rfl

theorem tileStore (pass tile : Nat) : Statement (.tileStore pass tile) := of_none rfl rfl

theorem deviceReset : Statement (.deviceReset) := of_none rfl rfl

theorem configRecordVerify : Statement (.configRecordVerify) := of_none rfl rfl

theorem linkDown (port : Nat) : Statement (.linkDown port) := of_none rfl rfl

theorem hotReset (port : Nat) : Statement (.hotReset port) := of_none rfl rfl

theorem hostAccess (q : BusAccess) : Statement (.hostAccess q) := of_none rfl rfl

theorem fabricWriteAck (k : Nat) : Statement (.fabricWriteAck k) := of_none rfl rfl

theorem fabricReadResponse (k : Nat) (v : W64) : Statement (.fabricReadResponse k v) := of_none rfl rfl

theorem peerRequest (peer world : Nat) (q : BusAccess) : Statement (.peerRequest peer world q) := of_none rfl rfl

theorem fabricTimeout (k : Nat) : Statement (.fabricTimeout k) := of_none rfl rfl

theorem collRetire (k : Nat) : Statement (.collRetire k) := of_none rfl rfl

theorem migCompletion (vf : Nat) (ok : Bool) : Statement (.migCompletion vf ok) := of_none rfl rfl

theorem softErrorDetect (q : ErrArgs) : Statement (.softErrorDetect q) := of_none rfl rfl

theorem reservedMajor (sub len msk : Nat) : Statement (.reservedMajor sub len msk) := of_none rfl rfl

theorem refusedWord (w : W64) : Statement (.refusedWord w) := of_none rfl rfl

theorem linkUp (port : Nat) : Statement (.linkUp port) := of_none rfl rfl

end RoundTrip

end Sys2Proof.Laws
end

