-- ==== Sys2Proof/Safety.lean ====
section
/-! DEFINITION. What counts as a safe run, and the terms that claims use: an instruction may run, what it leaves unchanged, what it writes. -/

namespace Sys2Proof.Machine

/-- A run is safe where every step answers a next state. -/
def Out.safe (o : Out) : Bool := match o with | .next _ => true | _ => false

/-- Memory is in its canonical form, in both spaces the device holds. -/
def State.memWf (s : State) : Bool := Memory.wf s.mem.loc && Memory.wf s.mem.host

/-! The issuing fibre and what it names. -/

/-- No register of `n` waits for data in flight, is held by a commit, or is the destination of an xop inside which another fibre of the group
stands (R95, R296, R329). -/
abbrev RegsFree (s : State) (h : Here) (n : Named) : Prop :=
  inFlight s (holds h.gid n) = false ∧ commitHolds s h.gid n.vregs = false ∧ xopHolds h.g h.fid n = false

/-- The registers of `n` are in the window and its latches valid (R78, R92). -/
abbrev InReach (h : Here) (n : Named) : Prop := outOfWindow h n = false ∧ badLatch h n = false

/-- The issuing fibre of `s` is `h`, and an instruction with the static causes `causes` that needs full service where `svc` raises no
illegal-instruction fault (R19, R58). -/
abbrev Legal (s : State) (h : Here) (causes : List Nat) (svc : Bool) : Prop :=
  s.here = some h ∧ causes = [] ∧ (svc = true → s.full = true)

/-- A fragment of `unit` may be read at once: the context owns the units of its core and has that one, its state was not lost, and no
queued operation writes the unit or has condemned the group (R115, R201, R203). -/
abbrev FragReady (s : State) (h : Here) (unit : Nat) : Prop :=
  ownsUnits s h = true ∧ imageLost h = false ∧ unit < h.c.u ∧ (coreOf s h.core).fragDead.contains (h.gid, h.fid) = false
    ∧ (coreOf s h.core).mashq.any (fun o => o.kind.writes unit) = false
    ∧ (coreOf s h.core).fragWait.any (fun e => e.1 == (h.gid, h.fid)) = false

/-- A lane instruction may run at once (R94): it is legal, names only registers and latches that it may, nothing is due to one, and the
fragment it reads, where it reads one, is ready. -/
abbrev LaneReady (j : LaneJob) (dst : Bool) (s : State) (h : Here) : Prop :=
  Legal s h j.causes j.svc ∧ InReach h (j.named h dst) ∧ RegsFree s h (j.named h dst)
    ∧ (readsFragment j.pfx = true → FragReady s h (fragOf j.pfx).1)

/-! What an instruction writes. -/

/-- The issuing group takes the registers `r` and the issuing fibre goes on `len` bytes further; nothing else of the machine changes. -/
def State.goesOn (s : State) (h : Here) (r : Regs) (len : Nat) : State :=
  h.advance (modGroup s h.gid fun g => { g with regs := r }) len

/-- A lane's 32-bit element of a register. -/
def Regs.vec (r : Regs) (reg lane : Nat) : W32 := SMap.get r.vreg (reg * 64 + lane)

/-- A lane's element of a register, or of the pair from it up. -/
def Regs.elem (r : Regs) (wide : Bool) (reg lane : Nat) : Nat :=
  (r.vec reg lane).toNat + if wide then (r.vec (reg + 1) lane).toNat * 2 ^ 32 else 0

/-- Bits of an element. -/
def elemBits (wide : Bool) : Nat := if wide then 64 else 32

/-- Registers differ at most in the pair or register `d`, lanes 0 to w − 1, and in the latches. -/
def OnlyDest (wide : Bool) (d w : Nat) (old new : Regs) : Prop :=
  new.sreg = old.sreg ∧ new.kreg = old.kreg ∧ new.hv = old.hv
    ∧ ∀ reg lane, lane < 64 → (w ≤ lane ∨ (reg ≠ d ∧ (wide = true → reg ≠ d + 1))) → new.vec reg lane = old.vec reg lane

/-- What a lane instruction leaves of the registers of `h`'s group (R91, R94): each active lane of vd takes its result, each other lane
keeps its element or takes 0 under `.zro`, `.nw` writes none; the result is pushed as L0, 0 (or, under `.mrg` with write-back, the element of
vd) in the other lanes; no other register changes. -/
def LaneWrites (j : LaneJob) (h : Here) (res : Nat → Nat) (r : Regs) : Prop :=
  let d := h.f.wb * 8 + j.vd.toNat
  let act := h.act j.msk
  let old := fun l => h.g.regs.elem j.td.wide d l
  let new := fun l =>
    if j.nw then old l
    else if inSet act l then res l % 2 ^ elemBits j.td.wide
    else if zroOf j.pfx then 0 else old l
  OnlyDest j.td.wide d h.g.w h.g.regs r
    ∧ (∀ l, l < h.g.w → l < 64 → r.elem j.td.wide d l = new l)
    ∧ ∃ l0 : SMap 64, r.ring = (l0 :: h.g.regs.ring).take 4
        ∧ ∀ l, l < h.g.w → l < 64 →
            SMap.get l0 l = BitVec.ofNat 64 (if inSet act l then res l else if j.nw || zroOf j.pfx then 0 else new l)

/-- Element `k` of `n` bits of a packed value. -/
def packedAt (n k x : Nat) : Nat := x / 2 ^ (n * k) % 2 ^ n

/-- Every element of `n` bits of `z` is the operation of those of `a`, `b` and `c`, mod 2ⁿ (R20, R94). -/
def Packed (n : Nat) (op : Nat → Nat → Nat → Nat) (a b c z : Nat) : Prop :=
  ∀ k, k * n < max 32 n → packedAt n k z = op (packedAt n k a) (packedAt n k b) (packedAt n k c) % 2 ^ n

/-- Registers differ at most in scalar `n`, which takes `v`. -/
def ScalarWrites (n : Nat) (v : W64) (old new : Regs) : Prop :=
  new.vreg = old.vreg ∧ new.kreg = old.kreg ∧ new.ring = old.ring ∧ new.hv = old.hv
    ∧ ∀ m, SMap.get new.sreg m = if m = n then v else SMap.get old.sreg m

/-- Registers differ at most in mask `kd`, which takes `v` in its bits below `w` and 0 above (R104). -/
def MaskWrites (kd w : Nat) (v : W64) (old new : Regs) : Prop :=
  new.vreg = old.vreg ∧ new.sreg = old.sreg ∧ new.ring = old.ring ∧ new.hv = old.hv
    ∧ (∀ k, k ≠ kd → SMap.get new.kreg k = SMap.get old.kreg k)
    ∧ ∀ l, l < 64 → inSet (SMap.get new.kreg kd) l = (decide (l < w) && inSet v l)

/-- A number as a scalar type's result in 64 bits: a 32-bit type sign- or zero-extends it (R79). -/
def scalarImage (t : Ty) (x : Int) : W64 :=
  if t.wide then BitVec.ofInt 64 x
  else if t.signed then (BitVec.ofInt 32 x).signExtend 64 else (BitVec.ofInt 32 x).setWidth 64

/-- A scalar instruction that names `n` may run at once. -/
abbrev ScalarReady (s : State) (h : Here) (causes : List Nat) (n : Named) : Prop := Legal s h causes false ∧ RegsFree s h n

/-- An instruction that reads lanes once (moves between a lane and a scalar, masks) may run at once. -/
abbrev OnceReady (s : State) (h : Here) (causes : List Nat) (n : Named) : Prop := ScalarReady s h causes n ∧ InReach h n

/-! Memory instructions. -/

/-- Only what a core's TLB caches changes. -/
def State.withTlb (s : State) (tl : Tbl (List TlbEntry)) : State := { s with mem := { s.mem with tlb := tl } }

/-- Accesses go in flight and the issuing fibre goes on; beside the TLBs nothing else changes, no byte of memory above all. -/
def State.puts (s : State) (h : Here) (tl : Tbl (List TlbEntry)) (accs : List Pend) (len : Nat) : State :=
  h.advance (pushPend (s.withTlb tl) accs) len

/-- The bytes that the active lanes of a memory instruction touch. -/
def MemJob.touches (j : MemJob) (h : Here) : List Touch := (laneList (h.act j.msk)).map fun l => (j.sp, j.ea h l, j.ty.bytes)

/-- A memory instruction may issue at once, no active lane fails a check, no earlier write to bytes that it reads is due, and its writes to peer pages
have room in the acknowledgement counter (R160 to R166, R351). -/
abbrev MemReady (j : MemJob) (svc : Bool) (s : State) (h : Here) : Prop :=
  Legal s h j.causes svc ∧ InReach h (j.named h) ∧ RegsFree s h (j.named h)
    ∧ (j.scan s h).wait = false ∧ (j.scan s h).bads = [] ∧ rangeBusy s h (j.touches h) = false
    ∧ j.stalls (j.scan s h).s h (j.scan s h).oks = false

/-- The same, whether lanes fail their checks or not (R164). -/
abbrev MemIssues (j : MemJob) (svc : Bool) (s : State) (h : Here) : Prop :=
  Legal s h j.causes svc ∧ InReach h (j.named h) ∧ RegsFree s h (j.named h)
    ∧ (j.scan s h).wait = false ∧ rangeBusy s h (j.touches h) = false ∧ j.stalls (j.scan s h).s h (j.scan s h).oks = false

/-- What a lane's part of an access puts in flight. -/
def inFlightAt (s : State) (h : Here) (lane : Nat) (p : Part) (op : AccOp) (dst : Option Dst) : Pend :=
  .acc { gid := h.gid, pc := h.f.pc, ctx := h.cid, lane := lane, seq := s.steps, space := p.space, pa := p.pa, n := p.n, kind := p.kind,
         vpa := p.vpa, world := p.world, op := op, dst := dst, val := none, micro := h.f.micro, tied := p.tied }

/-- Failing lanes park at their instruction, for the cause of the first of them, and the others go on (R164). -/
def State.parksLanes (s : State) (h : Here) (l : List LaneBad) (b : LaneBad) (len : Nat) : State :=
  raise (l.foldl (fun s x => logBad s h x.code x.sub x.addr) s) h (l.foldl (fun m x => m ||| oneLane x.lane) 0) len b.code b.sub (BitVec.ofNat 64 b.addr)

/-- The records of a launch's log are written from record `n` on, each with its lane (R172): in local and host memory at once, in a peer's as a store;
none where a record's page cannot be written or a store to a peer has no room in the acknowledgement counter. -/
def logsTo (s : State) (h : Here) (logb n : Nat) (l : List (Nat × Contrib)) : Option State :=
  match l with
  | [] => some s
  | (lane, c) :: r =>
    let bytes := natLE 32 ((if c.f64 then 1 else 0) + c.world % 64 * 2 ^ 8 + c.pa % 2 ^ 64 * 2 ^ 64 + c.seq % 2 ^ 18 * 2 ^ 128
      + c.lrank % 2 ^ 14 * 2 ^ 146 + c.prank % 2 ^ 32 * 2 ^ 160 + c.value.toNat * 2 ^ 192)
    match translate s h.core h.cid h.c (logb + 32 * n) true false with
    | (.ok e, s) =>
      let p := partOf e (logb + 32 * n) 0 32
      (match p.space with
      | .peer _ => if ackRoom s h.cid 1 then logsTo (pushPend s [inFlightAt s h lane p (.store bytes) none]) h logb (n + 1) r else none
      | sp => logsTo (writeFor s h.cid sp p.pa p.vpa bytes) h logb (n + 1) r)
    | _ => none

/-! Control flow and traps. -/

/-- The issuing group becomes `g`, loses its latches, and a switch point follows (R92, R121). -/
def State.switches (s : State) (h : Here) (g : Group) (yielder : Option Nat) : State :=
  afterSwitch (loseLatches (modGroup s h.gid fun _ => g) h.gid) h.gid yielder

/-- The lanes of PRED whose condition holds: the lane's 32-bit element of a vector register, latch or `ln.idx` is not 0; of a scalar or
constant, every lane or none (R125). -/
def TakenLanes (h : Here) (p : Option Prefix) (c : Byte) : W64 :=
  if isVec c || isLatch c || isIdx c then laneSet h.g.w fun l => inSet h.f.pred l && selLane h p .n32 c l % 2 ^ 32 != 0
  else if uniVal h.g p c = 0 then 0 else h.f.pred

/-- The fibre table after a branch of the issuing fibre: `tk` goes to `target` and the rest on; where both are present, the fibre keeps the rest
and a new fibre of the lowest free slot takes `tk` (R125). -/
def Branched (h : Here) (tk target next : W64) : Tbl Fibre :=
  if h.f.pred &&& ~~~tk = 0 then Tbl.modify h.g.fibres h.fid fun f => { f with pc := target }
  else if tk = 0 then Tbl.modify h.g.fibres h.fid fun f => { f with pc := next }
  else
    let rest := Tbl.modify h.g.fibres h.fid fun f => { f with pred := h.f.pred &&& ~~~tk, pc := next }
    Tbl.set rest (Tbl.freshFrom rest 0 64)
      { pc := target, pred := tk, wb := h.f.wb, st := .runnable, sc := 0, micro := none, hs := [] }

/-- The address of the instruction after the issuing one. -/
def Here.next (h : Here) (len : Nat) : W64 := h.f.pc + BitVec.ofNat 64 len

/-- The issuing group has nothing in flight (R95, R165). -/
abbrev Quiet (s : State) (h : Here) : Prop :=
  inFlight s (fun a => a.gid == h.gid) = false ∧ releaseDue s h.gid = false

/-- It has nothing in flight, no arrival, signal or record held back, and no fence of its block or group orders an access that is still due
(R182, R365, R374). -/
abbrev Still (s : State) (h : Here) : Prop := Quiet s h ∧ entriesDue s h.gid = false ∧ blockMarked s h.gid = false

/-- The issuing fibre takes `v` in the destination scalar, where there is one, and goes on. -/
def State.answers (s : State) (h : Here) (d : Option Nat) (v : W64) (len : Nat) : State := h.advance (putDst s h.gid d v) len

/-- The issuing group waits at the instruction (R340). -/
def State.waits (s : State) (h : Here) (kind : WaitKind) (len : Nat) (d : Option Nat) : State :=
  beginWait s h.gid { kind := kind, fib := h.fid, len := len, dst := d }

/-- A queue or barrier instruction of format G that needs no more than its two operands may run at once. -/
abbrev PairReady (s : State) (h : Here) (causes : List Nat) (svc : Bool) (f : GFmt) : Prop :=
  Legal s h causes svc ∧ RegsFree s h { sregs := abRegs f }

/-- An instruction that names `n`, and needs full service where `svc` says so, may run at once (R19, R58, R78, R92, R95). -/
abbrev Able (s : State) (h : Here) (causes : List Nat) (svc : Bool) (n : Named) : Prop := Legal s h causes svc ∧ InReach h n ∧ RegsFree s h n

/-- With the pages of a list of a launch's rows resident, the machine is `t` and the launch `m`; a cut launch needs none (R252, R257). -/
abbrev PagesIn (s : State) (lid : Nat) (l : Launch) (pages : List Nat) (t : State) (m : Launch) : Prop :=
  if l.cut = true then t = s ∧ m = l else needPages s lid pages pages = some t ∧ Tbl.get? t.launches lid = some m

/-! The engine queue (R192, R195, R201). -/

/-- The issuing context owns the accumulators of its core, and they were not lost. -/
abbrev UnitsReady (s : State) (h : Here) : Prop := ownsUnits s h = true ∧ imageLost h = false

/-- The issuing group may queue an operation: fewer than 16 are pending, and the queue takes it. -/
abbrev SoloReady (s : State) (h : Here) (k : MashKind) : Prop := h.g.eng.pend < 16 ∧ queueRoom (coreOf s h.core) k = true

/-- An operation of the issuing group alone enters the queue, PEND rises, and the fibre goes on. -/
def State.queues (s : State) (h : Here) (k : MashKind) (x y : List Nat) (len : Nat) : State :=
  h.advance (addPend (acceptOp s h.core
    { kind := k, members := [h.gid], ctx := h.cid, slotsA := x, slotsB := y, after := [], out := none }) h.gid) len

/-! Micro-ops (R329 to R331). -/

/-- A fibre inside a sequence: its binding is the one it entered by, and no data is due to a temporary. -/
abbrev UopReady (s : State) (u : UHere) : Prop :=
  s.here = some u.h ∧ u.h.f.micro = some u.m ∧ u.e = bindOf u.h.c u.m.xi ∧ bindV u.e = true ∧ bindSer u.e = u.m.bser
    ∧ hiddenDue s u.h.gid = false

/-! Mailboxes (R386 to R390). -/

/-- The mailbox of the issuing function takes a command of the port: the function is there, the port up and holding the semaphore, no command under
way, and no patch being activated. -/
abbrev BoxReady (s : State) (h : MbHdr) : Prop :=
  fnOk s h.fn = true ∧ portUp s h.port = true ∧ (boxOf s h.fn).held = some h.port ∧ (boxOf s h.fn).busy = false ∧ s.sys.activating = none

/-- The mailbox is busy with the command. -/
def State.busyFor (s : State) (h : MbHdr) : State := modBox s h.fn fun b => { b with busy := true, tag := h.tag }

/-- The command ends with a result and an answer. -/
def ends (h : MbHdr) (res : Nat) (t : State) (answer : List W64) : Out := .next (finishBox t h.fn res answer)

/-! Memory (R163, R276). -/

/-- The bytes behind a frame that is paged out or retagged lie in one frame, in canonical form. -/
def Paged.wf (p : Paged) : Bool := Memory.wf p.plain && p.plain.all fun e => decide (e.1 < 32768)

/-- Every memory that the machine holds bytes in is in its canonical form. -/
def State.bytesWf (s : State) : Bool := s.memWf && s.tables.paged.all (fun e => e.2.wf) && s.tables.veiled.all fun e => e.2.wf

/-- The bytes that an access leaves: a store's own, or an atomic's new value of the old one (R170). -/
def Acc.leaves (a : Acc) (old : List Byte) : List Byte :=
  match a.op with
  | .load => old
  | .store bs => bs
  | .rmw op ty data cmp => natLE a.n (atmNew op ty (leNat old) (data.toNat % 2 ^ ty.width) (cmp.toNat % 2 ^ ty.width))

/-! Exact values and their rounding (R21 to R23, R27, R32). -/

/-- 2 to a power that may be negative. -/
def pow2 (e : Int) : Rat := if 0 ≤ e then mkRat (2 ^ e.toNat) 1 else mkRat 1 (2 ^ (-e).toNat)

/-- The exact value of a code that is finite (R21). -/
def FpFmt.num (f : FpFmt) (x : Nat) : Rat :=
  let e : Int := (if f.expo x = 0 then 1 else (f.expo x : Int)) + 1 - 2 ^ (f.eb - 1) - f.mb
  let m : Int := if f.expo x = 0 then f.mant x else 2 ^ f.mb + f.mant x
  ((if f.neg x then -m else m : Int) : Rat) * pow2 e

/-- A code is a finite number's. -/
def FpFmt.finite (f : FpFmt) (x : Nat) : Prop := f.expo x ≠ 2 ^ f.eb - 1

/-- A number as it is known from the rationals: `le` those at most it, `ge` those at least it. -/
structure Cut where
  le : Rat → Prop
  ge : Rat → Prop

/-- The magnitude of a rational. -/
def magOf (x : Rat) : Rat := if x < 0 then -x else x
/-- A rational's magnitude, as a cut. -/
def Cut.mag (x : Rat) : Cut := { le := fun r => r ≤ magOf x, ge := fun r => magOf x ≤ r }
/-- The square root of a rational that is not negative. -/
def Cut.sqrt (x : Rat) : Cut := { le := fun r => r ≤ 0 ∨ r * r ≤ x, ge := fun r => 0 ≤ r ∧ x ≤ r * r }

/-- A magnitude, the sign of its number given, rounds to `s` units of `u` (R32). -/
def RoundsTo (rm : Rnd) (neg : Bool) (y : Cut) (u : Rat) (s : Nat) : Prop :=
  let low := ((2 * s - 1 : Int) : Rat) * u / 2
  let high := ((2 * s + 1 : Int) : Rat) * u / 2
  let down := y.le (((s : Int) : Rat) * u) ∧ ¬y.le (((s + 1 : Int) : Rat) * u)
  let up := y.ge (((s : Int) : Rat) * u) ∧ ¬y.ge (((s - 1 : Int) : Rat) * u)
  match rm with
  | .rne => y.le low ∧ y.ge high ∧ (y.ge low ∨ y.le high → s % 2 = 0)
  | .rna => y.le low ∧ y.ge high ∧ ¬y.le high
  | .rtz => down
  | .rup => if neg then down else up
  | .rdn => if neg then up else down

/-- A code is that of a number, its sign and nonzero magnitude given, rounded once: to a multiple of the unit of its binade, that of the subnormals the
least; past the largest finite magnitude it is ±∞ or the largest finite value, by the mode (R23, R32). -/
def FpFmt.RoundedMag (f : FpFmt) (rm : Rnd) (neg : Bool) (y : Cut) (z : Nat) : Prop :=
  let least : Int := 2 - 2 ^ (f.eb - 1) - f.mb
  let inf := (if neg then 2 ^ (f.eb + f.mb) else 0) + (2 ^ f.eb - 1) * 2 ^ f.mb
  ∃ (q : Int) (s : Nat), least ≤ q ∧ (q = least ∨ y.le (pow2 (q + f.mb))) ∧ ¬y.le (pow2 (q + f.mb + 1)) ∧ RoundsTo rm neg y (pow2 q) s ∧
    if ((s : Int) : Rat) * pow2 q < pow2 (2 ^ (f.eb - 1)) then
      z < 2 ^ (f.eb + f.mb + 1) ∧ f.finite z ∧ f.neg z = neg ∧ f.num z = ((if neg then -(s : Int) else s : Int) : Rat) * pow2 q
    else z = if rm = .rtz ∨ (rm = .rup ∧ neg = true) ∨ (rm = .rdn ∧ neg = false) then inf - 1 else inf

/-- A code is that of a rational rounded once, an exact zero taking the sign `zneg`. -/
def FpFmt.Rounded (f : FpFmt) (rm : Rnd) (zneg : Bool) (x : Rat) (z : Nat) : Prop :=
  if x = 0 then z = (if zneg then 2 ^ (f.eb + f.mb) else 0) else f.RoundedMag rm (decide (x < 0)) (.mag x) z

/-- What a code that is no NaN stands for: an infinity, or a number with the sign of its zero. -/
inductive Val where
  | inf (neg : Bool)
  | fin (neg : Bool) (x : Rat)
  deriving DecidableEq

/-- The value of a code that is no NaN. -/
def FpFmt.val (f : FpFmt) (x : Nat) : Val := if f.expo x = 2 ^ f.eb - 1 then .inf (f.neg x) else .fin (f.neg x) (f.num x)

/-- A value with its sign changed. -/
def Val.opp (a : Val) : Val := match a with | .inf s => .inf !s | .fin s x => .fin (!s) (-x)

/-- The product of two values; none for 0 × ∞ (R22). -/
def Val.times (a b : Val) : Option Val :=
  match a, b with
  | .inf s, .inf t => some (.inf (s != t))
  | .inf s, .fin t x => if x = 0 then none else some (.inf (s != t))
  | .fin s x, .inf t => if x = 0 then none else some (.inf (s != t))
  | .fin s x, .fin t y => some (.fin (s != t) (x * y))

/-- The sign of a value, of its zero too. -/
def Val.sign (a : Val) : Bool := match a with | .inf s => s | .fin s _ => s
/-- The number of a finite value. -/
def Val.number (a : Val) : Rat := match a with | .inf _ => 0 | .fin _ x => x

/-- A code is the sum of values rounded once: ∞ − ∞ gives the default NaN, an exact zero the sign that all terms have, else + (− toward −∞) (R22, R23). -/
def FpFmt.SumOf (f : FpFmt) (rm : Rnd) (l : List Val) (z : Nat) : Prop :=
  let inf := (2 ^ f.eb - 1) * 2 ^ f.mb
  if .inf false ∈ l then z = (if .inf true ∈ l then inf + 2 ^ (f.mb - 1) else inf)
  else if .inf true ∈ l then z = 2 ^ (f.eb + f.mb) + inf
  else
    let zneg := if l.all (·.sign) then true else if l.all (!·.sign) then false else rm == .rdn
    f.Rounded rm zneg ((l.map (·.number)).foldl (· + ·) 0) z

/-- A code is the first NaN of the sources, its quiet bit set (R22); with none, it is as `p` says. -/
def FpFmt.NanOr (f : FpFmt) (l : List Nat) (z : Nat) (p : Prop) : Prop :=
  match l.find? f.isNan with
  | some x => z = x ||| 2 ^ (f.mb - 1)
  | none => p

/-- `a` orders below `b`, −0 below +0 (R22). -/
def Val.below (a b : Val) : Prop :=
  match a, b with
  | .inf s, .inf t => s = true ∧ t = false
  | .inf s, .fin _ _ => s = true
  | .fin _ _, .inf t => t = false
  | .fin s x, .fin t y => x < y ∨ (x = y ∧ s = true ∧ t = false)

/-- The exact value of a narrow code that is finite (R27): policies 0 to 2 by exponent and mantissa, policy 3 as an integer less the zero point. -/
def narrowNum (im : W32) (c : Nat) : Rat :=
  let neg := imgSgn im = 1 ∧ 2 ^ (imgW im - 1) ≤ c
  let e := c / 2 ^ imgMw im % 2 ^ imgEw im
  let m := c % 2 ^ imgMw im
  if imgPol im = 3 then (((if neg then (c : Int) - 2 ^ imgW im else c) - imgBias im : Int) : Rat)
  else
    let v : Int := if e = 0 then m else 2 ^ imgMw im + m
    ((if neg then -v else v : Int) : Rat) * pow2 ((if e = 0 then 1 else (e : Int)) - imgBias im - imgMw im)

/-- A narrow code is no infinity and no NaN (R27). -/
def narrowFinite (im : W32) (c : Nat) : Prop :=
  ¬(imgPol im = 0 ∧ c / 2 ^ imgMw im % 2 ^ imgEw im = 2 ^ imgEw im - 1) ∧
    ¬(imgPol im = 1 ∧ c = if imgSgn im = 1 then 2 ^ (imgW im - 1) else 2 ^ imgW im - 1)

end Sys2Proof.Machine
end

