-- ==== Sys2Proof/Certificates/Slice0/Obligations.lean ====
section
/-! DEFINITION. The statements for the provers. -/

open Sys2Proof Sys2Proof.Machine

/-! Lane instructions (R54, R94 to R114). -/

/-- R97, R98, R99. Each binary integer lane instruction that is ready answers a next state in which each element of each active lane of vd
holds the table's value of the elements of A, B and C, mod 2ⁿ, with sign by the type where the table says so; the latch ring takes the
result; nothing else changes but the pc. -/
def Obligations.IntegerLanes : Prop :=
  ∀ e ∈ ([ (Instr.vadd, intI, fun _ a b _ => (a : Int) + b),
    (Instr.vsub, intI, fun _ a b _ => (a : Int) - b),
    (Instr.vmul, intI, fun _ a b _ => (a : Int) * b),
    (Instr.vmulh, intI, fun t a b _ => valInt t a * valInt t b / 2 ^ t.width),
    (Instr.vmin, intI, fun t a b _ => min (valInt t a) (valInt t b)),
    (Instr.vmax, intI, fun t a b _ => max (valInt t a) (valInt t b)),
    (Instr.vabsd, intI, fun t a b _ => ((valInt t a - valInt t b).natAbs : Int)),
    (Instr.vand, intN, fun _ a b _ => ((a &&& b : Nat) : Int)),
    (Instr.vor, intN, fun _ a b _ => ((a ||| b : Nat) : Int)),
    (Instr.vxor, intN, fun _ a b _ => ((a ^^^ b : Nat) : Int)),
    (Instr.vandn, intN, fun t a b _ => ((a &&& (2 ^ t.width - 1 - b) : Nat) : Int)),
    (Instr.vshl, intN, fun t a b _ => (a : Int) * 2 ^ (b % t.width)),
    (Instr.vshr, intN, fun t a b _ => (a : Int) / 2 ^ (b % t.width)),
    (Instr.vsra, intI, fun t a b _ => sxInt t.width a / 2 ^ (b % t.width)),
    (Instr.vrot, intN, fun t a b _ => (a : Int) * 2 ^ (b % t.width) + (a : Int) / 2 ^ (t.width - b % t.width)),
    (Instr.vadds, intI, fun t a b _ => max (tyMin t) (min (tyMax t) (valInt t a + valInt t b))),
    (Instr.vsubs, intI, fun t a b _ => max (tyMin t) (min (tyMax t) (valInt t a - valInt t b))),
    (Instr.vmad, madSpec, fun _ a b c => (a : Int) * b + c),
    (Instr.vbfx, bfxSpec, fun t a b _ =>
      let pos := b % 256
      let len := if t.width ≤ pos then 0 else min (b / 256 % 256) (t.width - pos)
      if len = 0 then 0 else if t.signed then sxInt len (a / 2 ^ pos % 2 ^ len) else ((a / 2 ^ pos % 2 ^ len : Nat) : Int)),
    (Instr.vbfi, bfiSpec, fun t a b c =>
      let pos := b % 256
      let len := if t.width ≤ pos then 0 else min (b / 256 % 256) (t.width - pos)
      let m := (2 ^ len - 1) * 2 ^ pos
      (((c &&& (2 ^ t.width - 1 - m)) ||| (a * 2 ^ pos &&& m) : Nat) : Int)) ]
      : List ((VFmt → Instr) × LaneSpec × (Ty → Nat → Nat → Nat → Int))),
  ∀ (f : VFmt) (s : State) (h : Here), let j := jobV e.2.1 f
    LaneReady j true s h →
    ∃ (r : Regs) (z : Nat → Nat), exec (e.1 f) s = .next (s.goesOn h r (lenOf f.pfx)) ∧ LaneWrites j h z r ∧
      ∀ l, Packed j.td.width (fun a b c => (e.2.2 j.td a b c % 2 ^ j.td.width).toNat)
        ((j.src s h).a l) ((j.src s h).b l) ((j.src s h).c l) (z l)

/-- R100, R101, R102. `vsel` gives every lane of PRED A where the prefix mask's bit is 1 and B elsewhere; `vaddr` adds a 32-bit value,
zero- or sign-extended by the type, to a 64-bit base; `vrq` requantises A × B by the control word C. -/
def Obligations.SelectAddressRequantise : Prop :=
  (∀ (f : VFmt) (s : State) (h : Here), let j := { jobV selSpec f with sel := true }
    LaneReady j true s h →
    ∃ r, exec (.vsel f) s = .next (s.goesOn h r (lenOf f.pfx)) ∧
      LaneWrites j h (fun l => if inSet (h.g.maskOf (mskOf f.pfx)) l then (j.src s h).a l else (j.src s h).b l) r) ∧
  (∀ (f : VFmt) (s : State) (h : Here), let j := { jobV addrSpec f with tb := .i32 }
    LaneReady j true s h →
    ∃ r z, exec (.vaddr f) s = .next (s.goesOn h r (lenOf f.pfx)) ∧ LaneWrites j h z r ∧
      ∀ l, (z l : Int) = ((j.src s h).a l + if (j.td == .i64) = true then sxInt 32 ((j.src s h).b l) else ((j.src s h).b l : Int)) % 2 ^ 64) ∧
  ∀ (f : VFmt) (s : State) (h : Here),
    let j := { jobV rqSpec f with ta := .i32, tb := .i32, tc := .i32, nb := .i32, td := .i32 }
    let i8 := tyOf rqSpec.dflt f.pfx == .i8
    LaneReady j true s h →
    ∃ r z, exec (.vrq f) s = .next (s.goesOn h r (lenOf f.pfx)) ∧ LaneWrites j h z r ∧
      ∀ l, let p := sxInt 32 ((j.src s h).a l) * sxInt 32 ((j.src s h).b l)
        let c := (j.src s h).c l
        let sh := 31 + c % 32
        let q := p.sign * (((p.natAbs + 2 ^ (sh - 1)) / 2 ^ sh : Nat) : Int)
        let n4 := c / 128 % 2 = 1
        let lo : Int := if i8 then (if n4 then -8 else -128) else 0
        let hi : Int := if i8 then (if n4 then 7 else 127) else if n4 then 15 else 255
        (z l : Int) = max lo (min hi (q + sxInt 8 (c / 256 % 256))) % 2 ^ 32

/-- R108, the integer rows. Each unary integer lane instruction that is ready completes; its result elements are what the table says. -/
def Obligations.IntegerUnary : Prop :=
  ∀ e ∈ ([ (Instr.vmov, movSpec, fun _ a z => z = a),
    (Instr.vnot, intN, fun t a z => z = 2 ^ t.width - 1 - a),
    (Instr.vneg, negSpec, fun t a z => (z : Int) = -(a : Int) % 2 ^ t.width),
    (Instr.vabs, negSpec, fun t a z => (z : Int) = ((sxInt t.width a).natAbs : Int) % 2 ^ t.width),
    (Instr.vpopc, intN, fun t a z => z = ((List.range t.width).filter a.testBit).length),
    (Instr.vclz, intN, fun t a z => if a = 0 then z = t.width else 2 ^ (t.width - 1 - z) ≤ a ∧ a < 2 ^ (t.width - z) ∧ z < t.width),
    (Instr.vctz, intN, fun t a z => if a = 0 then z = t.width else 2 ^ z ∣ a ∧ ¬2 ^ (z + 1) ∣ a),
    (Instr.vbrev, intN, fun t a z => ∀ i, i < t.width → z.testBit i = a.testBit (t.width - 1 - i)) ]
      : List ((UFmt → Instr) × LaneSpec × (Ty → Nat → Nat → Prop))),
  ∀ (f : UFmt) (s : State) (h : Here), let j := jobU e.2.1 f
    LaneReady j true s h →
    ∃ (r : Regs) (z : Nat → Nat), exec (e.1 f) s = .next (s.goesOn h r (lenOf f.pfx)) ∧ LaneWrites j h z r ∧
      ∀ l k, k * j.td.width < max 32 j.td.width → e.2.2 j.td (packedAt j.td.width k ((j.src s h).a l)) (packedAt j.td.width k (z l))

/-- R105, R106, R107, R108, R111. Each floating-point lane instruction that is ready completes with the operation's value, in each element of each
active lane, under the prefix's rounding or RNE; `vfdp2` takes FP16 or BF16 pairs into FP32. R22, R23, R32. The operations of the four IEEE
formats give the exact result rounded once in the mode, subnormals kept, an overflow ±∞ or the largest finite value by the mode; the first NaN
source, in order, is the result with its quiet bit set, and an invalid operation gives the default NaN; minimum, maximum and comparison order −0
and +0 as IEEE 754-2019 does. The sign of an exact zero sum is that of its terms, else + (− toward −∞) (deduced, log 10). -/
def Obligations.FloatLanes : Prop :=
  ((∀ e ∈ ([ (Instr.vfadd, fpR, fun m r a b _ => m.add r a b),
     (Instr.vfsub, fpR, fun m r a b _ => m.sub r a b),
     (Instr.vfmul, fpR, fun m r a b _ => m.mul r a b),
     (Instr.vfdiv, fpR, fun m r a b _ => m.div r a b),
     (Instr.vfmin, fpX, fun m _ a b _ => m.min a b),
     (Instr.vfmax, fpX, fun m _ a b _ => m.max a b),
     (Instr.vfsgn, fpX, fun m _ a b _ => m.sgn a b),
     (Instr.vfma, fmaSpec, fun m r a b c => m.fma r false a b c),
     (Instr.vfms, fmaSpec, fun m r a b c => m.fma r true a b c) ]
       : List ((VFmt → Instr) × LaneSpec × (FpFmt → Rnd → Nat → Nat → Nat → Nat))),
     ∀ (f : VFmt) (s : State) (h : Here), let j := jobV e.2.1 f
       LaneReady j true s h →
       ∃ (r : Regs) (z : Nat → Nat), exec (e.1 f) s = .next (s.goesOn h r (lenOf f.pfx)) ∧ LaneWrites j h z r ∧
         ∀ l, Packed j.td.width (e.2.2 (fmtOf j.td) (rndFor .rne f.pfx)) ((j.src s h).a l) ((j.src s h).b l) ((j.src s h).c l) (z l)) ∧
   (∀ e ∈ ([ (Instr.vfneg, fpX, fun m _ a => m.negate a),
     (Instr.vfabs, fpX, fun m _ a => m.abs a),
     (Instr.vfsqrt, fpR, fun m r a => m.sqrt r a),
     (Instr.vfrnd, fpR, fun m r a => m.rint r a),
     (Instr.vsfuSin, sfuSpec, fun _ _ a => sfuSin a),
     (Instr.vsfuCos, sfuSpec, fun _ _ a => sfuCos a),
     (Instr.vsfuExp2, sfuSpec, fun _ _ a => sfuExp2 a),
     (Instr.vsfuLog2, sfuSpec, fun _ _ a => sfuLog2 a),
     (Instr.vsfuRcp, sfuSpec, fun _ _ a => fmt32.div .rne 0x3F800000 a),
     (Instr.vsfuRsqrt, sfuSpec, fun _ _ a => sfuRsqrt a) ]
       : List ((UFmt → Instr) × LaneSpec × (FpFmt → Rnd → Nat → Nat))),
     ∀ (f : UFmt) (s : State) (h : Here), let j := jobU e.2.1 f
       LaneReady j true s h →
       ∃ (r : Regs) (z : Nat → Nat), exec (e.1 f) s = .next (s.goesOn h r (lenOf f.pfx)) ∧ LaneWrites j h z r ∧
         ∀ l, Packed j.td.width (fun a _ _ => e.2.2 (fmtOf j.td) (rndFor .rne f.pfx) a) ((j.src s h).a l) 0 0 (z l)) ∧
   ∀ (f : VFmt) (s : State) (h : Here),
     let p : Ty := if tyOf dp2Spec.dflt f.pfx == .f16 then .f16 else .bf16
     let j := { jobV dp2Spec f with ta := p, tb := p, nb := p, tc := .f32, td := .f32 }
     LaneReady j true s h →
     ∃ r, exec (.vfdp2 f) s = .next (s.goesOn h r (lenOf f.pfx)) ∧
       LaneWrites j h (fun l => fpDp2 (fmtOf p) ((j.src s h).a l) ((j.src s h).b l) ((j.src s h).c l)) r) ∧
  ((∀ m ∈ [fmt64, fmt32, fmt16, fmtB16], ∀ (rm : Rnd) (a b c : Nat), a < 2 ^ (m.eb + m.mb + 1) → b < 2 ^ (m.eb + m.mb + 1) →
     c < 2 ^ (m.eb + m.mb + 1) →
     let inf := (2 ^ m.eb - 1) * 2 ^ m.mb
     let nan := inf + 2 ^ (m.mb - 1)
     let top := 2 ^ (m.eb + m.mb)
     let signed := fun (n : Bool) (x : Nat) => (if n then top else 0) + x
     let va := m.val a
     let vb := m.val b
     m.NanOr [a, b] (m.add rm a b) (m.SumOf rm [va, vb] (m.add rm a b)) ∧
     m.NanOr [a, b] (m.sub rm a b) (m.SumOf rm [va, vb.opp] (m.sub rm a b)) ∧
     m.NanOr [a, b] (m.mul rm a b)
       (match va.times vb with | none => m.mul rm a b = nan | some p => m.SumOf rm [p] (m.mul rm a b)) ∧
     (∀ sub, m.NanOr [a, b, c] (m.fma rm sub a b c)
       (match va.times vb with
         | none => m.fma rm sub a b c = nan
         | some p => m.SumOf rm [p, if sub then (m.val c).opp else m.val c] (m.fma rm sub a b c))) ∧
     m.NanOr [a, b] (m.div rm a b)
       (let n := va.sign != vb.sign
        match va, vb with
         | .inf _, .inf _ => m.div rm a b = nan
         | .inf _, .fin _ _ => m.div rm a b = signed n inf
         | .fin _ _, .inf _ => m.div rm a b = signed n 0
         | .fin _ x, .fin _ y => if y = 0 then m.div rm a b = (if x = 0 then nan else signed n inf) else m.Rounded rm n (x / y) (m.div rm a b)) ∧
     m.NanOr [a] (m.sqrt rm a)
       (match va with
         | .inf n => m.sqrt rm a = if n then nan else a
         | .fin n x => if x = 0 then m.sqrt rm a = a else if n then m.sqrt rm a = nan else m.RoundedMag rm false (.sqrt x) (m.sqrt rm a)) ∧
     m.NanOr [a] (m.rint rm a)
       (match va with
         | .inf _ => m.rint rm a = a
         | .fin n x => if x = 0 then m.rint rm a = a
           else ∃ k, RoundsTo rm n (.mag x) 1 k ∧ m.rint rm a < 2 * top ∧ m.val (m.rint rm a) = .fin n (if n then -(k : Int) else k : Int)) ∧
     m.NanOr [a, b] (m.min a b) ((vb.below va → m.min a b = b) ∧ (¬vb.below va → m.min a b = a)) ∧
     m.NanOr [a, b] (m.max a b) ((va.below vb → m.max a b = b) ∧ (¬va.below vb → m.max a b = a)) ∧
     m.sgn a b = a % top + b / top * top ∧ m.negate a = (a + top) % (2 * top) ∧ m.abs a = a % top ∧
     m.cmp a b = (if (m.isNan a || m.isNan b) = true then .uno else
       match va, vb with
         | .fin _ x, .fin _ y => if x < y then .lt else if y < x then .gt else .eq
         | .inf s, .fin _ _ => if s then .lt else .gt
         | .fin _ _, .inf t => if t then .gt else .lt
         | .inf s, .inf t => if s = t then .eq else if s then .lt else .gt)) ∧
   ∀ m ∈ [fmt16, fmtB16], ∀ (a b c : Nat), a < 2 ^ 32 → b < 2 ^ 32 → c < 2 ^ 32 →
     let x := fun (k : Nat) => packedAt 16 k a
     let y := fun (k : Nat) => packedAt 16 k b
     let z := fpDp2 m a b c
     match [x 0, y 0, x 1, y 1].find? m.isNan with
     | some n => z = m.convert fmt32 .rne n
     | none => fmt32.NanOr [c] z
       (match (m.val (x 0)).times (m.val (y 0)), (m.val (x 1)).times (m.val (y 1)) with
         | some p, some q => fmt32.SumOf .rne [p, q, fmt32.val c] z
         | _, _ => z = 0x7FC00000))

/-- R54. Each 16-bit form that is ready has exactly the effect on the registers of the 32-bit form it stands for, with A = vd, no prefix and
every default, and goes on 2 bytes where that form goes on 4; `c.mov` has that of `vmov`, whose A is the form's B. -/
def Obligations.ShortForms : Prop :=
  (∀ e ∈ ([ (0, Instr.cAdd, Instr.vadd, intI), (1, Instr.cSub, Instr.vsub, intI), (2, Instr.cMul, Instr.vmul, intI),
    (3, Instr.cAnd, Instr.vand, intN), (4, Instr.cOr, Instr.vor, intN), (5, Instr.cXor, Instr.vxor, intN),
    (6, Instr.cShl, Instr.vshl, intN), (7, Instr.cShr, Instr.vshr, intN), (9, Instr.cFadd, Instr.vfadd, fpR),
    (10, Instr.cFsub, Instr.vfsub, fpR), (11, Instr.cFmul, Instr.vfmul, fpR), (12, Instr.cFmin, Instr.vfmin, fpX),
    (13, Instr.cFmax, Instr.vfmax, fpX), (14, Instr.cMin, Instr.vmin, intI), (15, Instr.cMax, Instr.vmax, intI) ]
      : List (Nat × (CFmt → Instr) × (VFmt → Instr) × LaneSpec)),
    ∀ (f : CFmt) (s : State) (h : Here), LaneReady { jobV e.2.2.2 (cAsV f) with causes := cCauses e.1 f, len := 2 } true s h →
      ∃ r, exec (e.2.1 f) s = .next (s.goesOn h r 2) ∧ exec (e.2.2.1 (cAsV f)) s = .next (s.goesOn h r 4)) ∧
  ∀ (f : CFmt) (s : State) (h : Here), LaneReady { jobU movSpec (cAsU f) with causes := cCauses 8 f, len := 2 } true s h →
    ∃ r, exec (.cMov f) s = .next (s.goesOn h r 2) ∧ exec (.vmov (cAsU f)) s = .next (s.goesOn h r 4)

/-- R112, R113, R35, R114. `vperm` gathers A of the lane that B names mod W; `vshf` moves by o = W / 2ᵏ in its four modes; `vred` gives every
active lane the tree's value over the W lanes, each node one operation of a lane and the lane 2ˡ above it, the identity standing for an inactive lane. An
offset below 1 at the group's W makes `vshf` illegal, cause 4. -/
def Obligations.CrossLanes : Prop :=
  (∀ (f : VFmt) (s : State) (h : Here), let j := jobV permSpec f
    LaneReady j true s h →
    ∃ r, exec (.vperm f) s = .next (s.goesOn h r (lenOf f.pfx)) ∧ LaneWrites j h (fun l => (j.src s h).a ((j.src s h).b l % h.g.w)) r) ∧
  (∀ (f : UNFmt) (s : State) (h : Here), let j := jobShf f
    LaneReady j true s h → h.g.w / 2 ^ (f.fn.toNat % 8) ≠ 0 →
    ∃ r, exec (.vshf f) s = .next (s.goesOn h r (lenOf f.pfx)) ∧
      LaneWrites j h (fun l =>
        let o := h.g.w / 2 ^ (f.fn.toNat % 8)
        (j.src s h).a (match f.fn.toNat / 64 with
          | 0 => (l + o) % h.g.w
          | 1 => l ^^^ o
          | 2 => if o ≤ l then l - o else l
          | _ => if l + o < h.g.w then l + o else l)) r) ∧
  (∀ (f : UNFmt) (s : State) (h : Here), s.here = some h → h.g.w / 2 ^ (f.fn.toNat % 8) = 0 → shfCauses f = [] →
    exec (.vshf f) s = .next (raise s h (h.act (mskOf f.pfx)) (lenOf f.pfx) 0x001 4 0)) ∧
  ∀ e ∈ ([ (Instr.vredSum, (fun _ => 0), (fun m => 2 ^ (m.eb + m.mb)), (fun _ a b => (a : Int) + b), (fun m r a b => m.add r a b)),
    (Instr.vredMax, (fun t => if t.signed then -(2 : Int) ^ (t.width - 1) else 0), (fun m => 2 ^ (m.eb + m.mb) + (2 ^ m.eb - 1) * 2 ^ m.mb),
      (fun t a b => max (valInt t a) (valInt t b)), (fun m _ a b => m.max a b)),
    (Instr.vredMin, (fun t => if t.signed then (2 : Int) ^ (t.width - 1) - 1 else 2 ^ t.width - 1), (fun m => (2 ^ m.eb - 1) * 2 ^ m.mb),
      (fun t a b => min (valInt t a) (valInt t b)), (fun m _ a b => m.min a b)) ]
      : List ((UFmt → Instr) × (Ty → Int) × (FpFmt → Nat) × (Ty → Nat → Nat → Int) × (FpFmt → Rnd → Nat → Nat → Nat))),
    ∀ (f : UFmt) (s : State) (h : Here) (n : Nat), let j := jobU redSpec f
      let t := j.td
      let identity := if t.isFp then e.2.2.1 (fmtOf t) else (e.2.1 t % 2 ^ t.width).toNat
      let node := fun (a b _ : Nat) =>
        if t.isFp then e.2.2.2.2 (fmtOf t) (rndFor .rne f.pfx) a b else (e.2.2.2.1 t a b % 2 ^ t.width).toNat
      LaneReady j true s h → h.g.w = 2 ^ n → n ≤ 6 →
      ∃ (r : Regs) (x : Nat → Nat → Nat), exec (e.1 f) s = .next (s.goesOn h r (lenOf f.pfx)) ∧ LaneWrites j h (fun _ => x n 0) r ∧
        (∀ l < h.g.w, Packed t.width (fun a _ _ => if inSet (h.act (mskOf f.pfx)) l then a else identity) ((j.src s h).a l) 0 0 (x 0 l)) ∧
        ∀ k < n, ∀ l < h.g.w, l % 2 ^ (k + 1) = 0 → Packed t.width node (x k l) (x k (l + 2 ^ k)) 0 (x (k + 1) l)

/-- R109, R110. `vcvt` between types that are not `.q` completes with the source's low element converted under the table's rounding; from and to `.q`
it takes the image of tensor record 0 and, in scale mode 1, the FP32 scale that a load at the scale base gives; an image that is not legal, scale
modes 2 to 7 and a scale base that is not aligned raise format-invalid on every active lane. R22, R25, R27, R28, R31, R32, R109. What a conversion
gives: between integers the value saturated to the destination's range; from an integer or between IEEE formats the exact value rounded once, a
NaN keeping its sign and the top of its payload, its quiet bit set; from an IEEE format to an integer the value rounded and saturated, a NaN 0;
the image of R25; a narrow code's exact value in FP32, times the scale, rounded to nearest even; and the code whose value is nearest the exact
quotient by the scale, ties away from zero, with the policies' infinities, NaNs, zeros and ends. -/
def Obligations.Conversions : Prop :=
  (∀ (f : UNFmt) (s : State) (h : Here), let j := jobCvt f
     let src := cvtTy (f.fn.toNat / 16)
     let dst := cvtTy (f.fn.toNat % 16)
     LaneReady j true s h →
     ((src == .q || dst == .q) = false →
       ∃ r, exec (.vcvt f) s = .next (s.goesOn h r (lenOf f.pfx)) ∧ LaneWrites j h (fun l => cvtPlain src dst f.pfx ((j.src s h).a l)) r) ∧
     ((src == .q || dst == .q) = true → cvtImage h = none →
       (tdSmode (td0 h) = 0 ∨ h.act (mskOf f.pfx) = 0 →
         ∃ r, exec (.vcvt f) s = .next (s.goesOn h r (lenOf f.pfx)) ∧
           LaneWrites j h (fun l => cvtNarrow (tdFmt (td0 h)) none (src == .q) ((j.src s h).a l)) r) ∧
       ∀ bs t, tdSmode (td0 h) ≠ 0 → h.act (mskOf f.pfx) ≠ 0 → readNow s h (tdSbase (td0 h)) 4 = (.ok bs, t) →
         t.here = some h →
         ∃ r, exec (.vcvt f) s = .next (t.goesOn h r (lenOf f.pfx)) ∧
           LaneWrites j h (fun l => cvtNarrow (tdFmt (td0 h)) (some (leNat bs)) (src == .q) ((j.src t h).a l)) r) ∧
     ((src == .q || dst == .q) = true → imgLegal (tdFmt (td0 h)) = false ∨ 2 ≤ tdSmode (td0 h) ∨ (tdSmode (td0 h) = 1 ∧ tdSbase (td0 h) % 4 ≠ 0) →
       exec (.vcvt f) s = .next (raise s h (h.act (mskOf f.pfx)) (lenOf f.pfx) 0x004 0 0))) ∧
  ((∀ (src dst : Ty) (p : Option Prefix) (a : Nat), src ≠ .q → dst ≠ .q → let x := a % 2 ^ src.width
     let fill := fun (v : Int) => (v % 2 ^ max 32 dst.width).toNat
     let lo : Int := if dst.signed then -(2 : Int) ^ (dst.width - 1) else 0
     let hi : Int := if dst.signed then (2 : Int) ^ (dst.width - 1) - 1 else 2 ^ dst.width - 1
     let z := cvtPlain src dst p a
     (src.isInt = true → dst.isInt = true → z = fill (max lo (min hi (valInt src x)))) ∧
     (src.isInt = true → dst.isInt = false → (fmtOf dst).Rounded (rndFor .rne p) false (valInt src x) z) ∧
     (src.isInt = false → dst.isInt = true → let rm := if dst.width = 8 then Rnd.rna else rndFor .rtz p
       if (fmtOf src).isNan x then z = 0
       else match (fmtOf src).val x with
         | .inf n => z = fill (if n then lo else hi)
         | .fin n v => ∃ k, RoundsTo rm n (.mag v) 1 k ∧ z = fill (max lo (min hi (if n then -(k : Int) else k)))) ∧
     (src.isInt = false → dst.isInt = false → let f := fmtOf src
       let g := fmtOf dst
       if f.isNan x then
         let m := f.mant x ||| 2 ^ (f.mb - 1)
         z = (if f.neg x then 2 ^ (g.eb + g.mb) else 0) + (2 ^ g.eb - 1) * 2 ^ g.mb + m * 2 ^ (g.mb - f.mb) / 2 ^ (f.mb - g.mb)
       else match f.val x with
         | .inf n => z = (if n then 2 ^ (g.eb + g.mb) else 0) + (2 ^ g.eb - 1) * 2 ^ g.mb
         | .fin n v => g.Rounded (rndFor .rne p) n v z)) ∧
   ∀ (im : W32), let w := imgW im
     let mw := imgMw im
     let pol := imgPol im
     let sgn : Bool := imgSgn im = 1
     (imgLegal im = true ↔ 1 ≤ w ∧ w ≤ 8 ∧ mw ≤ 8 ∧
       (if pol = 0 then 2 ≤ imgEw im ∧ 1 ≤ mw ∧ (2 : Int) ^ imgEw im - 2 - imgBias im ≤ 127
        else if pol = 3 then imgEw im = 0 ∧ 1 ≤ mw else (2 : Int) ^ imgEw im - 1 - imgBias im ≤ 127)) ∧
     (imgLegal im = true →
       (∀ a, let c := a % 2 ^ w
         let n : Bool := sgn && decide (2 ^ (w - 1) ≤ c)
         let z := cvtNarrow im none true a
         (narrowFinite im c → fmt32.val z = .fin (if pol = 3 then decide (narrowNum im c < 0) else n) (narrowNum im c) ∧ z < 2 ^ 32) ∧
         (pol = 0 → c / 2 ^ mw % 2 ^ imgEw im = 2 ^ imgEw im - 1 → let m := c % 2 ^ mw
           z = (if n then 2 ^ 31 else 0) + 255 * 2 ^ 23 + if m = 0 then 0 else 2 ^ 22 + m * 2 ^ (22 - mw)) ∧
         (pol = 1 → ¬narrowFinite im c → z = 0x7FC00000) ∧
         ∀ k, cvtNarrow im (some k) true a = fmt32.mul .rne z k) ∧
       ∀ (a : Nat) (k : Option Nat), a < 2 ^ 32 → (∀ v ∈ k, v < 2 ^ 32) → let z := cvtNarrow im k false a
         let ones := (2 ^ imgEw im - 1) * 2 ^ mw
         let signed := fun (n : Bool) (m : Nat) => (if n && sgn then 2 ^ (w - 1) else 0) + m
         let nan := fun (n : Bool) (payload : Nat) =>
           if pol = 0 then let m := payload % 2 ^ 22 / 2 ^ (22 - mw); z = signed n (ones + if m = 0 then 1 else m)
           else if pol = 1 then z = if sgn then 2 ^ (w - 1) else 2 ^ w - 1
           else narrowFinite im z ∧ z < 2 ^ w ∧ (∀ c < 2 ^ w, magOf (narrowNum im z) ≤ magOf (narrowNum im c)) ∧ (pol = 2 → z = 0)
         let end_ := fun (n : Bool) => z < 2 ^ w ∧ narrowFinite im z ∧
           ∀ c < 2 ^ w, narrowFinite im c → if n then narrowNum im z ≤ narrowNum im c else narrowNum im c ≤ narrowNum im z
         let infinite := fun (n : Bool) =>
           if pol ≠ 3 ∧ n = true ∧ sgn = false then z = 0
           else if pol = 0 then z = signed n ones
           else if pol = 1 then z = if sgn then 2 ^ (w - 1) else 2 ^ w - 1
           else end_ n
         let finite := fun (n : Bool) (y : Cut) =>
           if pol ≠ 3 ∧ n = true ∧ sgn = false then z = 0
           else if pol = 3 then
             ∃ m, RoundsTo .rna n y 1 m ∧ z < 2 ^ w ∧ let v : Rat := ((if n then -(m : Int) else m : Int) : Rat)
               (narrowNum im z = v ∨ (end_ false ∧ narrowNum im z < v) ∨ (end_ true ∧ v < narrowNum im z))
           else
             let least : Int := 1 - imgBias im - mw
             ∃ (q : Int) (m : Nat), least ≤ q ∧ (q = least ∨ y.le (pow2 (q + mw))) ∧ ¬y.le (pow2 (q + mw + 1)) ∧ RoundsTo .rna n y (pow2 q) m ∧
               let v := ((m : Int) : Rat) * pow2 q
               let beyond := ∀ c < 2 ^ w, narrowFinite im c → narrowNum im c < v
               (beyond → if pol = 0 then z = signed n ones else end_ n) ∧
               (¬beyond → z < 2 ^ w ∧ narrowFinite im z ∧ narrowNum im z = (if n then -v else v) ∧ (m = 0 → z = signed (n && decide (pol ≠ 1)) 0))
         if fmt32.isNan a then nan (fmt32.neg a) (fmt32.mant a)
         else match k with
           | none => (match fmt32.val a with | .inf n => infinite n | .fin n x => finite n (.mag x))
           | some v =>
             if fmt32.isNan v then nan (fmt32.neg v) (fmt32.mant v)
             else
               let n := (fmt32.val a).sign != (fmt32.val v).sign
               match fmt32.val a, fmt32.val v with
                 | .inf _, .inf _ => nan false (2 ^ 22)
                 | .inf _, .fin _ _ => infinite n
                 | .fin _ _, .inf _ => finite n (.mag 0)
                 | .fin _ x, .fin _ y => if y = 0 then (if x = 0 then nan false (2 ^ 22) else infinite n) else finite n (.mag (x / y))))

/-- R103. A compare that is ready writes mask kd: an active lane takes the condition, another keeps its bit or takes 0 under `.zro`, bits 63:W
are 0; the latch takes all ones in a true active lane and 0 in any other; `vcmp` reads its operands by the type's signedness, `vfcmp` quietly. -/
def Obligations.Compares : Prop :=
  ∀ e ∈ ([ (Instr.vcmp, cmpSpec, 5, fun t cc a b => condInt cc (valInt t a) (valInt t b)),
    (Instr.vfcmp, fcmpSpec, 7, fun t cc a b => condFp cc ((fmtOf t).cmp a b)) ]
      : List ((VCFmt → Instr) × LaneSpec × Nat × (Ty → Nat → Nat → Nat → Bool))),
  ∀ (f : VCFmt) (s : State) (h : Here), let j := jobVC e.2.1 e.2.2.1 f
    let c := fun l => e.2.2.2 j.ta f.cc.toNat ((j.src s h).a l) ((j.src s h).b l)
    LaneReady j false s h →
    ∃ r l0, exec (e.1 f) s = .next (s.goesOn h r (lenOf f.pfx)) ∧
      r.vreg = h.g.regs.vreg ∧ r.sreg = h.g.regs.sreg ∧ r.hv = h.g.regs.hv ∧
      (∀ k, k ≠ f.kd.toNat → SMap.get r.kreg k = SMap.get h.g.regs.kreg k) ∧
      (∀ l, l < 64 → inSet (SMap.get r.kreg f.kd.toNat) l =
        (decide (l < h.g.w) && if inSet (h.act (mskOf f.pfx)) l then c l else !zroOf f.pfx && inSet (h.g.maskOf f.kd.toNat) l)) ∧
      r.ring = (l0 :: h.g.regs.ring).take 4 ∧
      ∀ l, l < h.g.w → l < 64 → SMap.get l0 l = if inSet (h.act (mskOf f.pfx)) l && c l then 0xFFFFFFFF else 0

/-! Scalar and mask instructions (R79, R80, R104, R116 to R119). -/

/-- R116, R79. Each binary scalar instruction that is ready writes to sd the table's value of the type's low bits of A and B, with sign by
the type, all 64 bits of sd being written; nothing else changes but the pc. -/
def Obligations.ScalarArithmetic : Prop :=
  ∀ e ∈ ([ (Instr.sadd, scI, fun _ a b => (a : Int) + b),
    (Instr.ssub, scI, fun _ a b => (a : Int) - b),
    (Instr.smul, scI, fun _ a b => (a : Int) * b),
    (Instr.smulh, scI, fun t a b => valInt t a * valInt t b / 2 ^ t.width),
    (Instr.sand, scN, fun _ a b => ((a &&& b : Nat) : Int)),
    (Instr.sor, scN, fun _ a b => ((a ||| b : Nat) : Int)),
    (Instr.sxor, scN, fun _ a b => ((a ^^^ b : Nat) : Int)),
    (Instr.sshl, scN, fun t a b => (a : Int) * 2 ^ (b % t.width)),
    (Instr.sshr, scN, fun t a b => (a : Int) / 2 ^ (b % t.width)),
    (Instr.ssra, scI, fun t a b => sxInt t.width a / 2 ^ (b % t.width)),
    (Instr.smin, scI, fun t a b => min (valInt t a) (valInt t b)),
    (Instr.smax, scI, fun t a b => max (valInt t a) (valInt t b)),
    (Instr.sseq, scN, fun _ a b => if a = b then 1 else 0),
    (Instr.ssne, scN, fun _ a b => if a = b then 0 else 1),
    (Instr.sslt, scI, fun t a b => if valInt t a < valInt t b then 1 else 0),
    (Instr.ssle, scI, fun t a b => if valInt t a ≤ valInt t b then 1 else 0) ]
      : List ((SFmt → Instr) × ScalarSpec × (Ty → Nat → Nat → Int))),
  ∀ (f : SFmt) (s : State) (h : Here), let t := tyOf e.2.1.dflt f.pfx
    ScalarReady s h (sCauses e.2.1 f) { sregs := f.sd.toNat :: (scalarNos f.pfx f.a ++ scalarNos f.pfx f.b) } →
    ∃ r, exec (e.1 f) s = .next (s.goesOn h r (lenOf f.pfx)) ∧
      ScalarWrites f.sd.toNat (scalarImage t (e.2.2 t ((uniVal h.g f.pfx f.a).toNat % 2 ^ t.width)
        ((uniVal h.g f.pfx f.b).toNat % 2 ^ t.width))) h.g.regs r

/-- R117. Each unary scalar instruction that is ready writes the value of the `vun` operation of its name to sd. R118, R119. `sli` sets sd to the
sign-extended field and `slih` shifts 16 bits in; `srdl` reads lane B mod W of a register or latch into sd, active or not; `swrl` writes lane B
mod W of vd where that lane is active, and touches no latch; where B is the lane index, its lane comes from the lowest active lane, as R119 has it
for a register or a latch (the model's choice, log 138). -/
def Obligations.ScalarUnaryAndMoves : Prop :=
  (∀ e ∈ ([ (Instr.smov, scN, fun _ a => a),
     (Instr.snot, scN, fun t a => 2 ^ t.width - 1 - a),
     (Instr.sneg, scI, fun t a => wrapN t.width (-(a : Int))),
     (Instr.spopc, scN, fun t a => popN t.width a),
     (Instr.sclz, scN, fun t a => clzN t.width a),
     (Instr.sctz, scN, fun t a => ctzN t.width a) ]
       : List ((SUFmt → Instr) × ScalarSpec × (Ty → Nat → Nat))),
   ∀ (f : SUFmt) (s : State) (h : Here), let t := tyOf e.2.1.dflt f.pfx
     ScalarReady s h (suCauses e.2.1 f) { sregs := f.sd.toNat :: scalarNos f.pfx f.a } →
     ∃ r, exec (e.1 f) s = .next (s.goesOn h r (lenOf f.pfx)) ∧
       ScalarWrites f.sd.toNat (scalarImage t (e.2.2 t ((uniVal h.g f.pfx f.a).toNat % 2 ^ t.width))) h.g.regs r) ∧
  ((∀ (f : SIFmt) (s : State) (h : Here), ScalarReady s h (siCauses f) { sregs := [f.sd.toNat] } →
     (∃ r, exec (.sli f) s = .next (s.goesOn h r 4) ∧ ScalarWrites f.sd.toNat (f.imm.signExtend 64) h.g.regs r) ∧
     ∃ r, exec (.slih f) s = .next (s.goesOn h r 4) ∧
       ScalarWrites f.sd.toNat ((SMap.get h.g.regs.sreg f.sd.toNat <<< 16) ||| f.imm.setWidth 64) h.g.regs r) ∧
   (∀ (f : SFmt) (s : State) (h : Here), let t := tyOf rdlSpec.dflt f.pfx
     OnceReady s h (srdlCauses rdlSpec f) ((nameSel h f.pfx t.wide f.a).and { sregs := f.sd.toNat :: scalarNos f.pfx f.b }) →
     ∃ r, exec (.srdl f) s = .next (s.goesOn h r (lenOf f.pfx)) ∧
       ScalarWrites f.sd.toNat
         (scalarImage t (selLane h f.pfx t f.a ((uniVal h.g f.pfx f.b).toNat % 2 ^ t.width % h.g.w) : Nat)) h.g.regs r) ∧
   ∀ (f : VFmt) (s : State) (h : Here), let j := jobV swrlSpec f
     let act := h.act (mskOf f.pfx)
     let l := (j.src s h).b (lowest act) % h.g.w
     LaneReady j true s h →
     ∃ r, exec (.swrl f) s = .next (s.goesOn h r (lenOf f.pfx)) ∧ r.ring = h.g.regs.ring ∧
       OnlyDest j.td.wide (h.f.wb * 8 + f.vd.toNat) 64 h.g.regs r ∧
       ∀ k, k < 64 → r.elem j.td.wide (h.f.wb * 8 + f.vd.toNat) k =
         if k = l ∧ inSet act l = true then (j.src s h).a l % 2 ^ elemBits j.td.wide
         else h.g.regs.elem j.td.wide (h.f.wb * 8 + f.vd.toNat) k)

/-- R104, R80. Each mask instruction that is ready writes kd, bits 63:W then being 0; k0 reads as W ones; `kfromv` takes bit 0 of each lane
of PRED and keeps the other bits; `ktos` writes a scalar. -/
def Obligations.Masks : Prop :=
  (∀ e ∈ ([ (0, Instr.kand, fun a b => a && b), (1, Instr.kor, fun a b => a || b), (2, Instr.kxor, fun a b => a ^^ b),
    (3, Instr.kandn, fun a b => a && !b) ] : List (Nat × (KFmt → Instr) × (Bool → Bool → Bool))),
    ∀ (f : KFmt) (s : State) (h : Here), OnceReady s h (kCauses e.1 f) {} →
      ∃ r v, exec (e.2.1 f) s = .next (s.goesOn h r (lenOf f.pfx)) ∧ MaskWrites f.kd.toNat h.g.w v h.g.regs r ∧
        ∀ l, l < 64 → inSet v l = e.2.2 (inSet (h.g.maskOf f.ka.toNat) l) (inSet (h.g.maskOf (f.s.toNat % 8)) l)) ∧
  (∀ (f : KFmt) (s : State) (h : Here), OnceReady s h (kCauses 4 f) {} →
    ∃ r v, exec (.knot f) s = .next (s.goesOn h r (lenOf f.pfx)) ∧ MaskWrites f.kd.toNat h.g.w v h.g.regs r ∧
      ∀ l, l < 64 → inSet v l = !inSet (h.g.maskOf f.ka.toNat) l) ∧
  (∀ (f : KFmt) (s : State) (h : Here), OnceReady s h (kCauses 5 f) (nameSel h f.pfx false f.s) →
    ∃ r v, exec (.kfromv f) s = .next (s.goesOn h r (lenOf f.pfx)) ∧ MaskWrites f.kd.toNat h.g.w v h.g.regs r ∧
      ∀ l, l < 64 → inSet v l = (decide (l < h.g.w) &&
        if inSet h.f.pred l then selLane h f.pfx .n32 f.s l % 2 == 1 else inSet (h.g.maskOf f.kd.toNat) l)) ∧
  (∀ (f : KFmt) (s : State) (h : Here), OnceReady s h (kCauses 6 f) { sregs := scalarNos f.pfx f.s } →
    ∃ r, exec (.kfroms f) s = .next (s.goesOn h r (lenOf f.pfx)) ∧
      MaskWrites f.kd.toNat h.g.w (uniVal h.g f.pfx f.s) h.g.regs r) ∧
  ∀ (f : KFmt) (s : State) (h : Here), ScalarReady s h (kCauses 7 f) { sregs := [scalarNo f.pfx f.s] } →
    ∃ r, exec (.ktos f) s = .next (s.goesOn h r (lenOf f.pfx)) ∧ ScalarWrites (scalarNo f.pfx f.s) (h.g.maskOf f.ka.toNat) h.g.regs r

/-! Memory instructions (R157 to R182). -/

/-- R161. Where no lane of a format M instruction waits for a copy and none fails a check, exactly its active lanes go on, in ascending order,
each at (base + offset + D × e) mod 2⁶⁴: under A = 0x85 the base is 0 and the offset B's 64 bits, else the base is the scalar A and the offset
bits 31:0 of B, sign-extended. Where lanes fail, they are active ones, and so are those that go on: a lane disabled by its mask has no part. With
A = 0x85 an odd vector register B is a cause of illegal-instruction, subcode 4. -/
def Obligations.EffectiveAddresses : Prop :=
  (∀ (j : MemJob) (s : State) (h : Here), (j.scan s h).wait = false → (j.scan s h).bads = [] →
    ((j.scan s h).oks.map fun l => (l.lane, l.ea)) =
      (laneList (h.act j.msk)).map fun l => (l,
        (((if isZero j.a then 0 else ((uniVal h.g j.pfx j.a).toNat : Int))
          + (if isZero j.a then ((selLane h j.pfx .n64 j.b l : Nat) : Int) else sxInt 32 (selLane h j.pfx .n32 j.b l % 2 ^ 32))
          + j.disp * j.ty.bytes) % 2 ^ 64).toNat)) ∧
  (∀ (j : MemJob) (s : State) (h : Here),
    (∀ x ∈ (j.scan s h).oks, inSet (h.act j.msk) x.lane = true) ∧ ∀ x ∈ (j.scan s h).bads, inSet (h.act j.msk) x.lane = true) ∧
  ∀ (p : MemSpec) (f : MFmt), isZero f.a = true → isVec f.b = true → f.b.toNat % 2 = 1 → 4 ∈ mCauses p f

/-- R166. A load from virtual memory that is ready, no earlier write of its lanes to its bytes being in flight, puts one access in flight for
each part of each active lane, whose data is due to vd, extended by the type; disabled lanes take 0 under `.zro`; from the scratchpad each
active lane has its e bytes at once; nothing else changes but the pc and the TLBs. -/
def Obligations.Loads : Prop :=
  ∀ (f : MFmt) (s : State) (h : Here), let j := jobM ldSpec f false true false true
    let d := h.f.wb * 8 + f.vd.toNat
    let dst := fun (lane off : Nat) => ({ reg := .vec d lane, off := off, size := j.ty.bytes, sext := j.ty == .i8 || j.ty == .i16 } : Dst)
    MemReady j j.ty.needsFull s h →
    (f.sp = false →
      ∃ (r : Regs) (tl : Tbl (List TlbEntry)),
        exec (.ld f) s = .next (h.advance (pushPend (modGroup (s.withTlb tl) h.gid fun g => { g with regs := r })
          ((j.scan s h).oks.flatMap fun l => l.parts.map fun p => inFlightAt s h l.lane p .load (some (dst l.lane p.off)))) (lenOf f.pfx)) ∧
        OnlyDest j.ty.wide d h.g.w h.g.regs r ∧ r.ring = h.g.regs.ring ∧
        ∀ l, l < h.g.w → l < 64 → r.elem j.ty.wide d l =
          if zroOf f.pfx && !inSet (h.act (mskOf f.pfx)) l then 0 else h.g.regs.elem j.ty.wide d l) ∧
    (f.sp = true →
      ∃ (r : Regs), exec (.ld f) s = .next (s.goesOn h r (lenOf f.pfx)) ∧
        r.sreg = h.g.regs.sreg ∧ r.kreg = h.g.regs.kreg ∧ r.hv = h.g.regs.hv ∧ r.ring = h.g.regs.ring ∧
        ∀ ok, ok ∈ (j.scan s h).oks →
          r.elem j.ty.wide d ok.lane =
            extendElem j.ty.bytes (j.ty == .i8 || j.ty == .i16) (leNat (readScratch s h.gid ok.ea j.ty.bytes)) % 2 ^ elemBits j.ty.wide)

/-- R167. A store to virtual memory that is ready puts one access in flight for each part of each active lane, with the bytes of vd's element
that fall to the part: no byte of memory and no register changes at issue; a store to the scratchpad writes the lanes' low e bytes there, in
ascending order of lanes, so that the highest lane's remain. -/
def Obligations.Stores : Prop :=
  ∀ (f : MFmt) (s : State) (h : Here), let j := jobM stSpec f false false true true
    let v := fun lane => h.g.regs.elem j.ty.wide (h.f.wb * 8 + f.vd.toNat) lane
    MemReady j j.ty.needsFull s h →
    (f.sp = false → ∃ tl, exec (.st f) s = .next (s.puts h tl
      ((j.scan s h).oks.flatMap fun l => l.parts.map fun p => inFlightAt s h l.lane p (.store (natLE p.n (v l.lane / 256 ^ p.off))) none)
      (lenOf f.pfx))) ∧
    (f.sp = true → exec (.st f) s = .next (h.advance
      ((j.scan s h).oks.foldl (fun s l => writeScratch s h.gid l.ea (natLE j.ty.bytes (v l.lane))) s) (lenOf f.pfx)))

/-- R170. An atomic on virtual memory that is ready puts one indivisible access in flight for each active lane: the operation, its data from vd
and the compare value of `atm.cas`, with the old value due to vd; on the scratchpad each active lane in ascending order reads, writes and takes
the old value. -/
def Obligations.Atomics : Prop :=
  ∀ e ∈ ([(Instr.atmAdd, AtmOp.add, atmSpec), (Instr.atmMin, AtmOp.min, atmSpec), (Instr.atmMax, AtmOp.max, atmSpec),
    (Instr.atmAnd, AtmOp.and, atmSpec), (Instr.atmOr, AtmOp.or, atmSpec), (Instr.atmXor, AtmOp.xor, atmSpec),
    (Instr.atmXchg, AtmOp.xchg, xchgSpec), (Instr.atmCas, AtmOp.cas, casSpec), (Instr.atmFadd, AtmOp.fadd, faddSpec)]
      : List ((MFmt → Instr) × AtmOp × MemSpec)),
  ∀ (f : MFmt) (s : State) (h : Here), let j := jobM e.2.2 f true true true true
    MemReady j j.ty.needsFull s h →
    (f.sp = false → ∃ tl, exec (e.1 f) s = .next (s.puts h tl
      ((j.scan s h).oks.flatMap fun l => l.parts.map fun p => inFlightAt s h l.lane p
        (.rmw e.2.1 j.ty (BitVec.ofNat 64 (j.data h l.lane)) (BitVec.ofNat 64 (j.cmp h l.lane)))
        (some { reg := .vec (h.f.wb * 8 + f.vd.toNat) l.lane, off := 0, size := j.ty.bytes, sext := false })) (lenOf f.pfx))) ∧
    (f.sp = true → exec (e.1 f) s = .next (h.advance
      ((j.scan s h).oks.foldl (fun s l => scratchAtomic j e.2.1 s h l) s) (lenOf f.pfx)))

/-- R170, the table. The new value of each atomic on an n-bit integer type, from the old value, the data and the compare value, and of `atm.fadd`: the
sum rounded once to nearest even, the first NaN of old and data quieted. -/
def Obligations.AtomicValues : Prop :=
  (∀ t ∈ [Ty.f32, .f64], ∀ (old data cmp : Nat), old < 2 ^ t.width → data < 2 ^ t.width → let m := fmtOf t
    m.NanOr [old, data] (atmNew .fadd t old data cmp) (m.SumOf .rne [m.val old, m.val data] (atmNew .fadd t old data cmp)) ∧
    atmNew .xchg t old data cmp = data) ∧
  ∀ (t : Ty) (old data cmp : Nat), t ∈ wordTys → old < 2 ^ t.width → data < 2 ^ t.width → cmp < 2 ^ t.width →
    atmNew .add t old data cmp = (old + data) % 2 ^ t.width ∧
    valInt t (atmNew .min t old data cmp) = min (valInt t old) (valInt t data) ∧
    valInt t (atmNew .max t old data cmp) = max (valInt t old) (valInt t data) ∧
    atmNew .and t old data cmp = old &&& data ∧ atmNew .or t old data cmp = old ||| data ∧
    atmNew .xor t old data cmp = old ^^^ data ∧ atmNew .xchg t old data cmp = data ∧
    (atmNew .cas t old data cmp = if old = cmp then data else old)

/-- R36, R165, R171, R172, R175, R176, R177. `atm.fadd.det` of a ready group of a point, whose records fit the launch's log, appends one record for each
active lane, ascending, with the point's rank, the lane rank, the lane's count, the address, the world, the type and the value, writes them to the log's
memory, and adds 1 to each lane's count; no register changes; where no record fits, det-log-full parks the lanes. `st.mc` and `st.red` with a legal
multicast word put one access in flight for each part of each destination ea + i × STRIDE that passes its checks, ascending; lanes with a failing
destination park after the instruction, with the bitmap and first failed address of the lowest; an illegal word raises system-value and writes nothing. -/
def Obligations.DeterministicAndMulticast : Prop :=
  (∀ (f : MFmt) (s : State) (h : Here) (lid rank : Nat) (la : Launch), let j := jobM detSpec f true false true true
    let oks := (j.scan s h).oks
    let n := la.log.length
    Legal s h j.causes j.ty.needsFull → InReach h (j.named h) → RegsFree s h (j.named h) → f.sp = false →
    (j.scan s h).wait = false → (j.scan s h).bads = [] → rangeBusy s h (j.touches h) = false →
    h.b.of = .point lid rank → Tbl.get? s.launches lid = some la →
    (let recs := oks.flatMap fun x => (x.parts.take 1).map fun p => (x.lane, ({
        prank := rank, lrank := h.gid % 256 * h.g.w + x.lane, seq := (SMap.get h.g.contrib x.lane).toNat, pa := p.pa,
        peer := (match p.space with | .peer k => some k | _ => none), host := p.space == .host, world := p.world, f64 := j.ty.wide,
        value := BitVec.ofNat 64 (h.g.regs.elem j.ty.wide (h.f.wb * 8 + f.vd.toNat) x.lane), vpa := p.vpa } : Contrib))
      ∀ u, 32 * (n + oks.length) ≤ la.desc.logsz → (∀ x ∈ oks, SMap.get h.g.contrib x.lane < 262143) →
        logsTo (j.scan s h).s h la.desc.logb.toNat n recs = some u →
        exec (.atmFaddDet f) s = .next (h.advance (modGroup
          { u with launches := Tbl.modify s.launches lid fun la => { la with log := la.log ++ recs.map (·.2) } } h.gid fun g =>
            { g with contrib := oks.foldl (fun m x => SMap.set m x.lane (SMap.get h.g.contrib x.lane + 1)) g.contrib }) (lenOf f.pfx))) ∧
    ∀ b l, la.desc.logsz < 32 * (n + 1) → (oks.map fun x => (⟨x.lane, 0x026, 0, x.ea⟩ : LaneBad)) = b :: l →
      exec (.atmFaddDet f) s = .next ((j.scan s h).s.parksLanes h (b :: l) b (lenOf f.pfx))) ∧
  ∀ e ∈ ([(Instr.stMc, false, stMcSpec), (Instr.stRed, true, stRedSpec)] : List ((MFmt → Instr) × Bool × MemSpec)),
    ∀ (f : MFmt) (s : State) (h : Here), let red := e.2.1
      let j := jobM e.2.2 f red red true true
      let n := (j.named h).and { sregs := [scalarNo f.pfx f.a + 1] }
      let w := (SMap.get h.g.regs.sreg (scalarNo f.pfx f.a + 1)).toNat
      let op := w / 64 % 4
      let stride : Int := if w / 2 ^ 63 % 2 = 1 then ((w / 2 ^ 24 % 2 ^ 40 : Nat) : Int) - 2 ^ 40 else ((w / 2 ^ 24 % 2 ^ 40 : Nat) : Int)
      let dest := fun (k : Nat) => (((j.ea h (k / 8) : Int) + ((k % 8 : Nat) : Int) * stride) % 2 ^ 64).toNat
      let dests := (laneList (h.act j.msk)).flatMap fun l => (List.range (w % 8 + 1)).map fun i => 8 * l + i
      let x := scanLanes h false red red true j.ty.bytes dest dests { s := s, oks := [], bads := [], wait := false }
      let what := fun (lane : Nat) (p : Part) => if red then AccOp.rmw (nth [.add, .min, .max] op .fadd) j.ty (BitVec.ofNat 64 (j.data h lane)) 0
        else .store (natLE p.n (h.g.regs.elem j.ty.wide (h.f.wb * 8 + f.vd.toNat) lane / 256 ^ p.off))
      let accs := x.oks.flatMap fun k => k.parts.map fun p => inFlightAt s h (k.lane / 8) p (what (k.lane / 8) p) none
      let peers := ((x.oks.flatMap fun k => k.parts).filter fun p => p.space.isPeer).length
      let legal := w / 2 ^ 8 % 2 ^ 16 = 0 ∧ w / 8 % 8 = 0 ∧ (red = false → op = 0) ∧ (red = true → (op = 3 ↔ j.ty.isFp = true))
      Legal s h j.causes j.ty.needsFull → InReach h n → RegsFree s h n →
      (¬legal → exec (e.1 f) s = .next (raise s h (h.act (mskOf f.pfx)) (lenOf f.pfx) 0x006 0 0)) ∧
      (legal → x.wait = false → rangeBusy s h (dests.map fun k => (false, dest k, j.ty.bytes)) = false → (peers = 0 ∨ ackRoom s h.cid peers = true) →
        (x.bads = [] → ∃ tl, exec (e.1 f) s = .next (s.puts h tl accs (lenOf f.pfx))) ∧
        ∀ b l, x.bads = b :: l → ∃ tl, exec (e.1 f) s = .next (takeTrap (s.puts h tl accs (lenOf f.pfx)) h
          (x.bads.foldl (fun m y => m ||| oneLane (y.lane / 8)) 0) (h.next (lenOf f.pfx)) h.f.pc 1 b.code
          ((x.bads.filter fun y => y.lane / 8 == b.lane / 8).foldl (fun m y => m + 2 ^ (y.lane % 8)) 0) (BitVec.ofNat 64 b.addr) h.f.micro))

/-- R168, R169, R182. `sld` and `sst` that are ready and need not stall make one access, as that of the lowest lane of PRED, at (A + B) mod 2⁶⁴; `pf` only touches
the shared cache and the TLBs: every byte of memory reads as before; a fence of a group with nothing in flight and nothing outstanding goes on at
once. -/
def Obligations.ScalarAccessPrefetchFence : Prop :=
  (∀ (f : SFmt) (s : State) (h : Here) (ps : List Part) (s' : State), let t := tyOf scMem.dflt f.pfx
    let ea := (uniVal h.g f.pfx f.a + uniVal h.g f.pfx f.b).toNat
    ScalarReady s h (sCauses scMem f) { sregs := f.sd.toNat :: (scalarNos f.pfx f.a ++ scalarNos f.pfx f.b) } →
    rangeBusy s h [(false, ea, t.bytes)] = false →
    (checkVirtual s h.core h.cid h.c ea t.bytes true false = (.ok ps, s') →
      loadsWait s' h [⟨lowest h.f.pred, ea, ps⟩] = false →
      exec (.sld f) s = .next (h.advance (pushPend s' (ps.map fun p => inFlightAt s' h (lowest h.f.pred) p .load
        (some { reg := .scalar f.sd.toNat, off := p.off, size := t.bytes, sext := t.signed }))) (lenOf f.pfx))) ∧
    (checkVirtual s h.core h.cid h.c ea t.bytes false true = (.ok ps, s') → writesWait s' h [⟨lowest h.f.pred, ea, ps⟩] = false →
      exec (.sst f) s = .next (h.advance (pushPend s' (ps.map fun p => inFlightAt s' h (lowest h.f.pred) p
        (.store (natLE p.n ((SMap.get h.g.regs.sreg f.sd.toNat).toNat / 256 ^ p.off))) none)) (lenOf f.pfx)))) ∧
  (∀ (f : MFmt) (s : State) (h : Here), let j := jobM pfSpec f false false false false
    Legal s h j.causes j.ty.needsFull → InReach h (j.named h) → RegsFree s h (j.named h) →
    rangeBusy s h ((laneList (h.act j.msk)).map fun l => (false, j.ea h l, j.ty.bytes)) = false →
    ∃ t, exec (.pf f) s = .next (h.advance t (lenOf f.pfx)) ∧ t.mem.loc = s.mem.loc ∧ t.mem.host = s.mem.host ∧ t.groups = s.groups ∧
      t = { s with mem := t.mem, tables := { s.tables with age := t.tables.age } } ∧ t.mem.pend = s.mem.pend) ∧
  ∀ (f : YFmt) (s : State) (h : Here), Legal s h (fenceCauses f) false →
    inFlight s (fun a => a.gid == h.gid) = false → accStoresDue s h.gid = false → entriesDue s h.gid = false →
    (fenceScope f = 3 → fenceKind f ≠ 1 → h.c.counts.ack = 0) →
    exec (.fence f) s = .next (s.goesOn h h.g.regs (lenOf f.pfx))

/-- R178 to R180. `sp.look` on a block with a tag table writes the slot that holds the key and 0, touching it, or the victim with bit 63, bit 62
where it is valid, and its key; `sp.set` of a slot of the key's set puts the key there, or names the slot that holds it with bit 63; `sp.inv`
clears one slot, named by bits 11:0 of A (the model's reading, log 40), or all; a slot at or past the number of lines raises scratch-range (the
model's choice, log 146). -/
def Obligations.TagTable : Prop :=
  (∀ (f : SFmt) (s : State) (h : Here), let d := f.sd.toNat
    let key := (uniVal h.g f.pfx f.a).toNat / 256 * 256
    let two := fun (s : State) (v0 v1 : W64) => modGroup s h.gid fun g => setSreg (setSreg g d v0) (d + 1) v1
    ScalarReady s h (spLookCauses f) { sregs := [d, d + 1] ++ scalarNos f.pfx f.a } → h.b.foot.tlines ≠ 0 →
    (∀ sl, tagHit h.b h.idx key = some sl →
      exec (.spLook f) s = .next (h.advance (two (modBlock s h.bsn fun b => touchTag b h.idx sl) (BitVec.ofNat 64 sl) 0) (lenOf f.pfx))) ∧
    (tagHit h.b h.idx key = none → let v := tagVictim h.b h.idx key
      let e := tagOf h.b h.idx v
      exec (.spLook f) s = .next (h.advance (two s (BitVec.ofNat 64 (2 ^ 63 + (if e.v then 2 ^ 62 else 0) + v)) (if e.v then e.key else 0))
        (lenOf f.pfx)))) ∧
  (∀ (f : GFmt) (s : State) (h : Here), let slot := (uniVal h.g f.pfx f.a).toNat % 4096
    let key := (uniVal h.g f.pfx f.b).toNat / 256 * 256
    let put := fun (s : State) (v : Nat) => modGroup s h.gid fun g => setSreg g (scalarNo f.pfx f.a) (BitVec.ofNat 64 v)
    ScalarReady s h (spSetCauses f) { sregs := scalarNos f.pfx f.a ++ scalarNos f.pfx f.b } →
    slot < h.b.foot.tlines → slot / h.b.foot.tways = tagSet h.b key →
    (∀ w, tagHit h.b h.idx key = some w → exec (.spSet f) s = .next (h.advance (put s (2 ^ 63 + w)) (lenOf f.pfx))) ∧
    (tagHit h.b h.idx key = none → exec (.spSet f) s = .next (h.advance (put (modBlock s h.bsn fun b =>
      touchTag (setTag b h.idx slot { tagOf b h.idx slot with key := BitVec.ofNat 64 key, v := true }) h.idx slot) slot) (lenOf f.pfx)))) ∧
  ∀ (f : GFmt) (s : State) (h : Here),
    ScalarReady s h (spInvCauses f) { sregs := scalarNos f.pfx f.a } → h.b.foot.tlines ≠ 0 →
    (isOnes f.a = true → exec (.spInv f) s =
      .next (h.advance (modBlock s h.bsn fun b => clearTags b h.idx (List.range h.b.foot.tlines)) (lenOf f.pfx))) ∧
    (isOnes f.a = false → (uniVal h.g f.pfx f.a).toNat % 4096 < h.b.foot.tlines → exec (.spInv f) s =
      .next (h.advance (modBlock s h.bsn fun b => clearTag b h.idx ((uniVal h.g f.pfx f.a).toNat % 4096)) (lenOf f.pfx)))

/-! Control flow and fibres (R120 to R131). -/

/-- R125, R126. `br`, `brn` and `fib.fork` of a ready fibre send the lanes of PRED whose condition holds (for `brn`: does not hold) to the
instruction's address plus twice OFF, and the others on, splitting the fibre where both are present; `fib.fork` first opens a join frame over
PRED in the lowest free index, its JPC and JWB 0 until its first arrival (the model's reading, log 31); 16 open frames raise frame-overflow; the
latches are lost and a switch point follows. -/
def Obligations.Branches : Prop :=
  ∀ (f : JFmt) (s : State) (h : Here), let n := nameSel h f.pfx false f.c
    let target := h.f.pc + BitVec.ofInt 64 (2 * f.off.toInt)
    let tk := TakenLanes h f.pfx f.c
    let next := h.next (lenOf f.pfx)
    OnceReady s h (jCauses f) n →
    exec (.br f) s = .next (s.switches h { h.g with fibres := Branched h tk target next } none) ∧
    exec (.brn f) s = .next (s.switches h { h.g with fibres := Branched h (h.f.pred &&& ~~~tk) target next } none) ∧
    (h.g.frames.length < 16 → exec (.fibFork f) s = .next (s.switches h
      { h.g with fibres := Branched h tk target next,
                 frames := Tbl.set h.g.frames (Tbl.freshFrom h.g.frames 0 16)
                   { mem := h.f.pred, arr := 0, js := false, jpc := 0, jwb := 0, seq := h.g.frames.length } } none)) ∧
    (16 ≤ h.g.frames.length → exec (.fibFork f) s = .next (raise s h h.f.pred (lenOf f.pfx) 0x018 0 0))

/-- R57, R127, R128. `call` moves the window by the signed byte C and writes the next address into the pair at the new base in the lanes of
PRED; `br.ind`, `ret` and `call.ind` send each lane to its own target with bit 0 cleared, the lowest target keeping the fibre and each further one,
rising, taking a new fibre; `ret` lowers and `call.ind` raises the window by B, and `call.ind` writes the link; a window base below 0 or past T − 8
raises window-range; `nop` only goes on, by 4 bytes, under a prefix too (R57's words as they stand, log 24). -/
def Obligations.CallsAndIndirect : Prop :=
  (∀ (f : JFmt) (s : State) (h : Here), let wb := (h.f.wb : Int) + f.c.toInt
    let n : Named := { vregs := [8 * wb.toNat, 8 * wb.toNat + 1] }
    (OnceReady s h (jCauses f) n → 0 ≤ wb → 8 * wb ≤ (h.g.total : Int) - 8 →
    exec (.call f) s = .next (s.switches h (writeLanes
      { h.g with fibres := Tbl.modify h.g.fibres h.fid fun x => { x with wb := wb.toNat, pc := h.f.pc + BitVec.ofInt 64 (2 * f.off.toInt) } }
      true (8 * wb.toNat) h.f.pred false (fun _ => (h.next (lenOf f.pfx)).toNat) (laneNos h.g.w)) none)) ∧
    (OnceReady s h (jCauses f) {} → wb < 0 ∨ (h.g.total : Int) - 8 < 8 * wb →
      exec (.call f) s = .next (raise s h h.f.pred (lenOf f.pfx) 0x002 0 0))) ∧
  (∀ e ∈ ([(Instr.brInd, brIndCauses, fun _ => 0, false), (Instr.ret, retCauses, fun v => -v.toInt, false),
      (Instr.callInd, callIndCauses, fun v => v.toInt, true)]
      : List ((GFmt → Instr) × (GFmt → List Nat) × (W64 → Int) × Bool)),
    ∀ (f : GFmt) (s : State) (h : Here), let wb := (h.f.wb : Int) + e.2.2.1 (uniVal h.g f.pfx f.b)
      let named := (nameSel h f.pfx true f.a).and { sregs := scalarNos f.pfx f.b }
      let n := if e.2.2.2 then named.and { vregs := [8 * wb.toNat, 8 * wb.toNat + 1] } else named
      let tgt := indTarget h f.pfx f.a
      (OnceReady s h (e.2.1 f) named → wb < 0 ∨ (h.g.total : Int) - 8 < 8 * wb →
        exec (e.1 f) s = .next (raise s h h.f.pred (lenOf f.pfx) 0x002 0 0)) ∧
      (OnceReady s h (e.2.1 f) n → 0 ≤ wb → 8 * wb ≤ (h.g.total : Int) - 8 →
      ∀ t r, indTargets h f.pfx f.a = t :: r →
        let lanes := fun (x : Nat) => laneSet 64 fun l => inSet h.f.pred l && tgt l == x
        let g := { h.g with fibres := Tbl.modify h.g.fibres h.fid fun x =>
          { x with wb := wb.toNat, pc := BitVec.ofNat 64 t, pred := lanes t } }
        let g := if e.2.2.2 then
            writeLanes g true (8 * wb.toNat) h.f.pred false (fun _ => (h.next (lenOf f.pfx)).toNat) (laneNos g.w) else g
        exec (e.1 f) s = .next (s.switches h
          (r.foldl (fun g x => addFibre g { pc := BitVec.ofNat 64 x, pred := lanes x, wb := wb.toNat, st := .runnable, sc := 0,
                                            micro := none, hs := [] }) g) none))) ∧
  ∀ (f : GFmt) (s : State) (h : Here), Legal s h (nopCauses f) false → exec (.nop f) s = .next (s.goesOn h h.g.regs 4)

/-- R129 to R131. `fib.join` of a ready fibre, with no frame refusing its address or window, has each lane arrive at its innermost frame and
leaves the fibre the lanes with none, 4 bytes on, under a prefix too (log 24: the words of R129 and R131 as they stand), or ends it; complete frames then
close; `fib.exit` ends the fibre, whose slot is free before frames close (the model's reading, log 43), and its lanes exit; `fib.yield` goes on 4 bytes,
yielding at the switch point. -/
def Obligations.FibreInstructions : Prop :=
  (∀ (f : GFmt) (s : State) (h : Here), ScalarReady s h (fibJoinCauses f) {} → joinRefused h.g h.f = false →
    let rest := laneSet 64 fun l => inSet h.f.pred l && (innermost h.g.frames l).isNone
    let g := { h.g with frames := arrive h.g h.f }
    exec (.fibJoin f) s = .next (s.switches h (completeFrames
      (if rest = 0 then endFibre g h.fid
       else { g with fibres := Tbl.modify g.fibres h.fid fun x => { x with pred := rest, pc := x.pc + 4 } })) none)) ∧
  (∀ (f : GFmt) (s : State) (h : Here), ScalarReady s h (fibJoinCauses f) {} → joinRefused h.g h.f = true →
    exec (.fibJoin f) s = .next (raise s h h.f.pred (lenOf f.pfx) 0x019 0 0)) ∧
  (∀ (f : GFmt) (s : State) (h : Here), ScalarReady s h (fibExitCauses f) {} →
    exec (.fibExit f) s = .next (s.switches h (exitLanes (endFibre h.g h.fid) h.f.pred) none)) ∧
  ∀ (f : GFmt) (s : State) (h : Here), ScalarReady s h (fibYieldCauses f) {} →
    exec (.fibYield f) s = .next (s.switches h
      { h.g with fibres := Tbl.modify h.g.fibres h.fid fun x => { x with pc := h.f.pc + 4 } } (some h.fid))

/-! Traps, handlers and system registers (R132 to R153). -/

/-- R132, R133, R147. Taking an exception for all the lanes of a fibre of a context with a handler kernel and room in its trap queue, the
group having nothing in flight: the record with the fibre's handle, the CAUSE image, the two addresses (bit 0 of TRAPPC reading 0) and TIME joins the queue, and in the group the
fibre keeps its number and lanes and is parked at the given pc, every other fibre being as before, until the switch point. -/
def Obligations.TrapEntry : Prop :=
  ∀ (s : State) (h : Here) (pc tpc : W64) (cls code sub : Nat) (addr : W64),
    s.here = some h → inFlight s (fun a => a.gid == h.gid) = false → (h.isHandler && cls == 1) = false →
    h.c.handler.isSome = true → h.c.queues.trapq.length + inService s h.cid < 256 →
    let r : TrapRec := { handle := BitVec.ofNat 64 (bsnOf h.gid % 2 ^ 32 * 65536 + h.gid % 256 * 256 + h.fid),
                         cause := BitVec.ofNat 64 (cls * 2 ^ 32 + code * 2 ^ 20 + sub), pc := tpc &&& ~~~1, addr := addr,
                         time := s.time, pt := h.b.pt, slot := h.b.slot, since := some (h.gid, s.steps) }
    let g := { h.g with fibres := Tbl.set h.g.fibres h.fid { h.f with pc := pc, st := .parked, micro := none },
                        starved := h.g.starved.filter (· != h.fid), regs := { h.g.regs with ring := [] } }
    takeTrap s h h.f.pred pc tpc cls code sub addr none =
      afterSwitch { s with groups := Tbl.modify s.groups h.gid fun _ => g,
                           ctxs := Tbl.modify s.ctxs h.cid fun c =>
                             { c with queues := { c.queues with trapq := c.queues.trapq ++ [r] } } } h.gid none

/-- R58, R132, R19. An instruction with a static cause, or one that needs full service in reduced service, takes the illegal-instruction fault with
the smallest subcode on its active lanes, at its own address: shown for `vadd`, `sadd` and `ld`. R78, R92. A lane instruction with no static cause
that names a register outside its window takes window-range, and one that reads an invalid latch takes illegal-latch, on its active lanes and at
its own address: no register is written. R157, R162, R164, R170, R271, R272, R289. The check of a lane's address: scratch-range outside every
region; misaligned for an atomic; then, where no translation is cached, page-absent, page-permission or world-refusal as the walk answers. A load,
store or atomic with failing lanes parks them at the instruction for the cause and address of the lowest of them, and the other lanes have the
whole effect. -/
def Obligations.InstructionFaults : Prop :=
  (((∀ (f : VFmt) (s : State) (h : Here) (sub : Nat), s.here = some h →
      minCause (vCauses intI f ++ cause ((tyOf intI.dflt f.pfx).needsFull && !s.full) 8) = some sub →
      exec (.vadd f) s = .next (raise s h (h.act (mskOf f.pfx)) (lenOf f.pfx) 0x001 sub 0)) ∧
    (∀ (f : SFmt) (s : State) (h : Here) (sub : Nat), s.here = some h → minCause (sCauses scI f) = some sub →
      exec (.sadd f) s = .next (raise s h (h.act 0) (lenOf f.pfx) 0x001 sub 0)) ∧
    ∀ (f : MFmt) (s : State) (h : Here) (sub : Nat), s.here = some h →
      minCause (mCauses ldSpec f ++ cause ((tyOf ldSpec.dflt f.pfx).needsFull && !s.full) 8) = some sub →
      exec (.ld f) s = .next (raise s h (h.act (mskOf f.pfx)) (lenOf f.pfx) 0x001 sub 0)) ∧
   (∀ (f : VFmt) (s : State) (h : Here), let j := jobV intI f
      Legal s h j.causes j.svc →
      (outOfWindow h (j.named h true) = true → exec (.vadd f) s = .next (raise s h (h.act (mskOf f.pfx)) (lenOf f.pfx) 0x002 0 0)) ∧
      (outOfWindow h (j.named h true) = false → badLatch h (j.named h true) = true →
        exec (.vadd f) s = .next (raise s h (h.act (mskOf f.pfx)) (lenOf f.pfx) 0x003 0 0)))) ∧
  ((∀ (s : State) (h : Here) (al rd wr : Bool) (n ea : Nat), let scr := fun (b : Nat) (size : Nat) => b ≤ ea ∧ ea + n ≤ b + size
     let inside := scr 0 h.b.foot.scratch ∨ scr 0x40000000 h.b.foot.shared ∨ scr 0xC0000000 (256 * h.b.foot.tlines)
     let at_ := fun (sp : Bool) => (checkOne s h sp al rd wr n ea).1
     (¬inside → at_ true = .fault 0x020 0 ea) ∧ (inside → al = true → ea % n ≠ 0 → at_ true = .fault 0x021 0 ea) ∧
     (inside → (al = true → ea % n = 0) → rd = true → badHere h.b h.gid ea n = true → at_ true = .fault 0x025 2 ea) ∧
     (inside → (al = true → ea % n = 0) → (rd = true → badHere h.b h.gid ea n = false) → at_ true = .ok []) ∧
     (al = true → ea % n ≠ 0 → at_ false = .fault 0x021 0 ea) ∧
     ((al = true → ea % n = 0) → tlbFind (tlbOf s h.core) h.cid ea = none →
       (2 ^ 48 ≤ ea → at_ false = .fault 0x022 4 ea) ∧
       (ea < 2 ^ 48 →
         (∀ code sub, walkFrom s h.c ea h.c.tbase.toNat 3 = .fault code sub → at_ false = .fault code sub ea) ∧
         ∀ e level, walkFrom s h.c ea h.c.tbase.toNat 3 = .leaf e level → let vpa := pteAddr e + ea % 2 ^ levelBits level
           let m := frameEntry s h.c.vf (vpa / 32768)
           let pot := potEntry s m.2
           (wr = true → e / 8 % 2 = 0 → at_ false = .fault 0x023 1 ea) ∧
           ((wr = true → e / 8 % 2 = 1) → e / 32 % 4 = 0 →
             (m.1 = 0 → at_ false = .fault 0x022 6 ea) ∧
             (m.1 = 1 → pot.state ≠ 1 ∨ pot.vf ≠ h.c.vf ∨ worldOk h.c.world pot.world = false → at_ false = .fault 0x024 0 ea) ∧
             ∀ k sf i, m.1 = 1 → pot.state = 1 → pot.vf = h.c.vf → worldOk h.c.world pot.world = true → saveFrame s h.c.vf (vpa / 32768) = false →
               surfOf s m.2 = some (k, sf, i) → sf.a.kind = 3 ∨ sf.a.oid ≠ h.c.oid → at_ false = .fault 0x024 8 ea)))) ∧
   (∀ (s : State) (c : Ctx) (va t level : Nat), let m := frameEntry s c.vf (t / 32768)
     let pot := potEntry s m.2
     let e := rdNat s.mem.loc (m.2 * 32768 + t % 32768 + 8 * levelIndex va level) 8
     (m.1 = 0 ∨ (m.1 = 1 ∧ (pot.state ≠ 1 ∨ pot.vf ≠ c.vf ∨ worldOk c.world pot.world = false)) → walkFrom s c va t level = .fault 0x024 7) ∧
     (m.1 = 1 → pot.state = 1 → pot.vf = c.vf → worldOk c.world pot.world = true →
       (e % 2 = 0 → walkFrom s c va t level = .fault 0x022 level) ∧ (e % 2 = 1 → malformed e level = true → walkFrom s c va t level = .fault 0x022 5))) ∧
   (∀ (f : MFmt) (s : State) (h : Here) (b : LaneBad) (l : List LaneBad), let j := jobM ldSpec f false true false true
     let d := h.f.wb * 8 + f.vd.toNat
     MemIssues j j.ty.needsFull s h → f.sp = false → (j.scan s h).bads = b :: l →
     ∃ (r : Regs) (tl : Tbl (List TlbEntry)), exec (.ld f) s = .next ((pushPend (modGroup (s.withTlb tl) h.gid fun g => { g with regs := r })
         ((j.scan s h).oks.flatMap fun x => x.parts.map fun p => inFlightAt s h x.lane p .load
           (some { reg := .vec d x.lane, off := p.off, size := j.ty.bytes, sext := j.ty == .i8 || j.ty == .i16 }))).parksLanes h (b :: l) b (lenOf f.pfx)) ∧
       OnlyDest j.ty.wide d h.g.w h.g.regs r ∧ ∀ x, x < h.g.w → x < 64 → r.elem j.ty.wide d x =
         if zroOf f.pfx && !inSet (h.act (mskOf f.pfx)) x then 0 else h.g.regs.elem j.ty.wide d x) ∧
   (∀ (f : MFmt) (s : State) (h : Here) (b : LaneBad) (l : List LaneBad), let j := jobM stSpec f false false true true
     let v := fun lane => h.g.regs.elem j.ty.wide (h.f.wb * 8 + f.vd.toNat) lane
     MemIssues j j.ty.needsFull s h → (j.scan s h).bads = b :: l →
     (f.sp = false → ∃ tl, exec (.st f) s = .next ((pushPend (s.withTlb tl)
       ((j.scan s h).oks.flatMap fun x => x.parts.map fun p => inFlightAt s h x.lane p (.store (natLE p.n (v x.lane / 256 ^ p.off))) none)).parksLanes h
         (b :: l) b (lenOf f.pfx))) ∧
     (f.sp = true → exec (.st f) s = .next (State.parksLanes
       ((j.scan s h).oks.foldl (fun s x => writeScratch s h.gid x.ea (natLE j.ty.bytes (v x.lane))) s) h (b :: l) b (lenOf f.pfx)))) ∧
   ∀ e ∈ ([(Instr.atmAdd, AtmOp.add, atmSpec), (Instr.atmMin, AtmOp.min, atmSpec), (Instr.atmMax, AtmOp.max, atmSpec),
     (Instr.atmAnd, AtmOp.and, atmSpec), (Instr.atmOr, AtmOp.or, atmSpec), (Instr.atmXor, AtmOp.xor, atmSpec),
     (Instr.atmXchg, AtmOp.xchg, xchgSpec), (Instr.atmCas, AtmOp.cas, casSpec), (Instr.atmFadd, AtmOp.fadd, faddSpec)]
       : List ((MFmt → Instr) × AtmOp × MemSpec)),
     ∀ (f : MFmt) (s : State) (h : Here) (b : LaneBad) (l : List LaneBad), let j := jobM e.2.2 f true true true true
       MemIssues j j.ty.needsFull s h → (j.scan s h).bads = b :: l → f.sp = false →
       ∃ tl, exec (e.1 f) s = .next ((pushPend (s.withTlb tl)
         ((j.scan s h).oks.flatMap fun x => x.parts.map fun p => inFlightAt s h x.lane p
           (.rmw e.2.1 j.ty (BitVec.ofNat 64 (j.data h x.lane)) (BitVec.ofNat 64 (j.cmp h x.lane)))
           (some { reg := .vec (h.f.wb * 8 + f.vd.toNat) x.lane, off := 0, size := j.ty.bytes, sext := false }))).parksLanes h (b :: l) b (lenOf f.pfx)))

/-- R141 to R143, R145. `sys.rd` of a register that the group may read writes its value to a scalar; TRAPCAUSE, TRAPPC and TRAPADDR are
readable in a handler only, and an unreadable register raises privilege on PRED. -/
def Obligations.SystemRegisterReads : Prop :=
  (∀ (f : YFmt) (s : State) (h : Here) (v : W64), readSys s h f.sys.toNat = some v →
    ScalarReady s h (sysRdCauses f) { sregs := [scalarNo f.pfx f.a] } →
    ∃ r, exec (.sysRd f) s = .next (s.goesOn h r (lenOf f.pfx)) ∧ ScalarWrites (scalarNo f.pfx f.a) v h.g.regs r) ∧
  (∀ (f : YFmt) (s : State) (h : Here), Legal s h (sysRdCauses f) false → readSys s h f.sys.toNat = none →
    exec (.sysRd f) s = .next (raise s h h.f.pred (lenOf f.pfx) 0x005 0 0)) ∧
  ∀ (s : State) (h : Here), readSys s h 0x000 = some (BitVec.ofNat 64 h.g.w) ∧ readSys s h 0x001 = some h.g.gang ∧
    readSys s h 0x033 = some (BitVec.ofNat 64 (h.gid % 256)) ∧ readSys s h 0x034 = some (BitVec.ofNat 64 h.g.place.core) ∧
    readSys s h 0x035 = some (BitVec.ofNat 64 (h.g.place.core / 4)) ∧ readSys s h 0x036 = some (BitVec.ofNat 64 h.c.oid) ∧
    (h.g.handler = none → readSys s h 0x010 = none ∧ readSys s h 0x011 = none ∧ readSys s h 0x012 = none) ∧
    ∀ r, h.g.handler = some r → readSys s h 0x010 = some r.cause ∧ readSys s h 0x011 = some (r.pc &&& ~~~1) ∧ readSys s h 0x012 = some r.addr

/-- R141, R143, R144, R146, R152, R153. `sys.wr` clears the 1 bits of its value from WAKE, or sets GANG to a value with bits 63:51 zero and a
length of at most 6; any other register raises privilege; `sig` to a slot of the VF, or to the management core, puts one signal in flight. -/
def Obligations.SystemWritesAndSignals : Prop :=
  (∀ (f : YFmt) (s : State) (h : Here), ScalarReady s h (sysWrCauses f) { sregs := scalarNos f.pfx f.a } →
    let v := uniVal h.g f.pfx f.a
    (f.sys.toNat = 0x004 → ∀ q, h.wakeSlot = some q →
      exec (.sysWr f) s = .next (h.advance (modSlot s q fun x => { x with wake := x.wake &&& ~~~v }) (lenOf f.pfx))) ∧
    (f.sys.toNat = 0x004 → h.wakeSlot = none → exec (.sysWr f) s = .next (h.advance s (lenOf f.pfx))) ∧
    (f.sys.toNat = 0x001 → v.toNat / 2 ^ 51 = 0 → v.toNat / 2 ^ 48 ≤ 6 →
      exec (.sysWr f) s = .next (h.advance (modGroup s h.gid fun g => { g with gang := v }) (lenOf f.pfx))) ∧
    (f.sys.toNat ≠ 0x001 → f.sys.toNat ≠ 0x004 → exec (.sysWr f) s = .next (raise s h h.f.pred (lenOf f.pfx) 0x005 0 0))) ∧
  ∀ (f : YFmt) (s : State) (h : Here), ScalarReady s h (sigCauses f) { sregs := scalarNos f.pfx f.a } →
    let v := uniVal h.g f.pfx f.a
    (f.sys.toNat = 0xFFF → exec (.sig f) s = .next (h.advance (pushPend s [.signal h.gid h.cid none v]) (lenOf f.pfx))) ∧
    (f.sys.toNat ≠ 0xFFF → slotOfVf s f.sys.toNat h.c.vf = true →
      exec (.sig f) s = .next (h.advance (pushPend s [.signal h.gid h.cid (some f.sys.toNat) v]) (lenOf f.pfx))) ∧
    (f.sys.toNat ≠ 0xFFF → slotOfVf s f.sys.toNat h.c.vf = false →
      exec (.sig f) s = .next (raise s h h.f.pred (lenOf f.pfx) 0x005 0 0))

/-- R151. `trap` parks PRED at the next instruction with a record of class 2, code N, whose TRAPPC is the trap's own address and whose
TRAPADDR is A's value. -/
def Obligations.SoftwareTrap : Prop :=
  ∀ (f : YFmt) (s : State) (h : Here), ScalarReady s h (trapCauses f) { sregs := scalarNos f.pfx f.a } →
    exec (.trap f) s = .next
      (takeTrap s h h.f.pred (h.next (lenOf f.pfx)) h.f.pc 2 f.sys.toNat 0 (uniVal h.g f.pfx f.a) none)

/-- R135 to R137. In a handler and with a live handle of fibre `k` of group `g`, a fibre `x`: `pk.rd` writes its PC, PRED and state word to three
scalars; `pk.mask` keeps the lanes of B, a subset of PRED, and the others exit; `pk.pc` sets its PC, bit 0 cleared, and leaves an xop sequence;
`pk.resume` makes it runnable; `pk.kill` lets its lanes exit; `hdl.ret` ends the whole invocation's group (the model's reading, log 17). A `pk`
instruction or `hdl.ret` outside a handler raises privilege on PRED (R134, R145); one of the five `pk` with a handle that names no live parked
fibre of the context, as one with a reserved bit set names none (the model's reading, log 127), raises park-handle (R134). -/
def Obligations.HandlerInstructions : Prop :=
  ((∀ (f : GFmt) (s : State) (h : Here) (k : Nat) (x : Fibre), let d := scalarNo f.pfx f.a
     ScalarReady s h (pkRdCauses f) { sregs := [d, d + 1, d + 2] ++ scalarNos f.pfx f.b } → h.isHandler = true →
     ∀ gid, liveHandle s h.cid (uniVal h.g f.pfx f.b) = some (gid, k) → fibreAt s gid k = some x →
       exec (.pkRd f) s = .next (h.advance (modGroup s h.gid fun g =>
         setSreg (setSreg (setSreg g d x.pc) (d + 1) x.pred) (d + 2) (fibreWord k x)) (lenOf f.pfx))) ∧
   (∀ (f : GFmt) (s : State) (h : Here) (gid k : Nat) (x : Fibre), h.isHandler = true →
     liveHandle s h.cid (uniVal h.g f.pfx f.a) = some (gid, k) → fibreAt s gid k = some x →
     let v := uniVal h.g f.pfx f.b
     let go := h.advance s (lenOf f.pfx)
     (ScalarReady s h (pkMaskCauses f) { sregs := scalarNos f.pfx f.a ++ scalarNos f.pfx f.b } →
       (v = x.pred → exec (.pkMask f) s = .next go) ∧
       (v &&& ~~~x.pred = 0 → v ≠ x.pred → exec (.pkMask f) s =
         .next (exitAt go gid k (x.pred &&& ~~~v) v)) ∧
       (v &&& ~~~x.pred ≠ 0 → exec (.pkMask f) s = .next (raise s h (h.act 0) (lenOf f.pfx) 0x01A 0 0))) ∧
     (ScalarReady s h (pkPcCauses f) { sregs := scalarNos f.pfx f.a ++ scalarNos f.pfx f.b } →
       exec (.pkPc f) s = .next (modGroup (abortAt go h gid x) gid fun g =>
         modFibre g k fun x => { x with pc := v &&& ~~~1, micro := none })) ∧
     (ScalarReady s h (pkResumeCauses f) { sregs := scalarNos f.pfx f.a } →
       exec (.pkResume f) s = .next (settleGroup (modGroup go gid fun g => modFibre g k fun x => { x with st := .runnable }) gid true (issuable s gid))) ∧
     (ScalarReady s h (pkKillCauses f) { sregs := scalarNos f.pfx f.a } →
       exec (.pkKill f) s = .next (exitAt (abortAt go h gid x) gid k x.pred 0))) ∧
   ∀ (f : GFmt) (s : State) (h : Here), Legal s h (hdlRetCauses f) false → h.isHandler = true →
     exec (.hdlRet f) s = .next (endGroup s h.gid)) ∧
  ((∀ e ∈ ([(Instr.pkRd, pkRdCauses, fun f => f.b, fun f => let d := scalarNo f.pfx f.a; [d, d + 1, d + 2] ++ scalarNos f.pfx f.b),
       (Instr.pkMask, pkMaskCauses, fun f => f.a, fun f => scalarNos f.pfx f.a ++ scalarNos f.pfx f.b),
       (Instr.pkPc, pkPcCauses, fun f => f.a, fun f => scalarNos f.pfx f.a ++ scalarNos f.pfx f.b),
       (Instr.pkResume, pkResumeCauses, fun f => f.a, fun f => scalarNos f.pfx f.a),
       (Instr.pkKill, pkKillCauses, fun f => f.a, fun f => scalarNos f.pfx f.a)]
       : List ((GFmt → Instr) × (GFmt → List Nat) × (GFmt → Byte) × (GFmt → List Nat))),
     ∀ (f : GFmt) (s : State) (h : Here), Legal s h (e.2.1 f) false →
       (h.isHandler = false → exec (e.1 f) s = .next (raise s h h.f.pred (lenOf f.pfx) 0x005 0 0)) ∧
       (h.isHandler = true → RegsFree s h { sregs := e.2.2.2 f } → liveHandle s h.cid (uniVal h.g f.pfx (e.2.2.1 f)) = none →
         exec (e.1 f) s = .next (raise s h (h.act 0) (lenOf f.pfx) 0x01A 0 0))) ∧
   ∀ (f : GFmt) (s : State) (h : Here), Legal s h (hdlRetCauses f) false → h.isHandler = false →
     exec (.hdlRet f) s = .next (raise s h h.f.pred (lenOf f.pfx) 0x005 0 0))

/-! Registers, barriers, timelines and queues (R82 to R90, R228 to R232, R339 to R351). -/

/-- R82 to R88. `v.claim` at the head of its core's queue: where FREE holds its registers, the group gains them, each 0, keeps the others, writes
the allotment word and goes on; where it does not, the group waits in the queue; a count out of its range, or registers past 256 or the pool, raise
claim-range. `v.rel` drops the top registers and gives them back, and `win.set`
and `win.add` write the window base and the old base in registers; a base outside the group's registers raises window-range. -/
def Obligations.RegisterAllocation : Prop :=
  (∀ (f : GFmt) (s : State) (h : Here) (n : Nat), PairReady s h (vClaimCauses f) false f → (uniVal h.g f.pfx f.b).toNat = n → 1 ≤ n → n ≤ 31 →
    h.g.total + 8 * n ≤ 256 → 8 * n ≤ h.b.foot.pool → claimsOf s h.core = [] →
    (freeOf h.b h.gid < 8 * n → exec (.vClaim f) s = .next
      { s.waits h (.claim (8 * n)) (lenOf f.pfx) (dstOf f.pfx f.a) with claimq := Tbl.set s.claimq h.core [h.gid] }) ∧
    (8 * n ≤ freeOf h.b h.gid → h.f.st = .runnable → ∃ t g b, exec (.vClaim f) s = .next t ∧
      Tbl.get? t.groups h.gid = some g ∧ g.total = h.g.total + 8 * n ∧ g.wait = none ∧
      Tbl.get? t.blocks h.bsn = some b ∧ freeOf b h.gid = freeOf h.b h.gid - 8 * n ∧
      (∀ reg lane, lane < 64 → reg < h.g.total → g.regs.vec reg lane = h.g.regs.vec reg lane) ∧
      (∀ reg lane, lane < 64 → h.g.total ≤ reg → reg < h.g.total + 8 * n → g.regs.vec reg lane = 0) ∧
      (∀ d, dstOf f.pfx f.a = some d →
        SMap.get g.regs.sreg d = allotWord (freeOf h.b h.gid - 8 * n) (h.g.total + 8 * n) h.g.base) ∧
      Tbl.get? g.fibres h.fid = some { h.f with pc := h.next (lenOf f.pfx) })) ∧
  (∀ (f : GFmt) (s : State) (h : Here), let n := (uniVal h.g f.pfx f.b).toNat
    (PairReady s h (vClaimCauses f) false f → n < 1 ∨ 31 < n ∨ 256 < h.g.total + 8 * n ∨ h.b.foot.pool < 8 * n →
      exec (.vClaim f) s = .next (raise s h h.f.pred (lenOf f.pfx) 0x010 0 0)) ∧
    (PairReady s h (vRelCauses f) false f →
      n < 1 ∨ h.g.total - h.g.base < 8 * n ∨ h.g.fibres.any (fun e => decide (h.g.total < 8 * e.2.wb + 8 * n + 8)) = true →
      exec (.vRel f) s = .next (raise s h h.f.pred (lenOf f.pfx) 0x010 0 0))) ∧
  (∀ (f : GFmt) (s : State) (h : Here) (n : Nat), PairReady s h (vRelCauses f) false f → (uniVal h.g f.pfx f.b).toNat = n → 1 ≤ n →
    8 * n ≤ h.g.total - h.g.base → h.g.fibres.any (fun e => decide (h.g.total < 8 * e.2.wb + 8 * n + 8)) = false →
    RegsFree s h { vregs := (List.range (8 * n)).map fun k => h.g.total - 8 * n + k } →
    claimsOf s h.core = [] → freeOf h.b h.gid + 8 * n ≤ 4096 →
    let t := h.g.total - 8 * n
    exec (.vRel f) s = .next ((setFree (modGroup s h.gid fun g =>
        { g with total := t, ext := g.ext.take ((t - g.base) / 8), regs := { g.regs with vreg := SMap.keep g.regs.vreg fun k => k < t * 64 } }) h.gid (freeOf h.b h.gid + 8 * n)).answers h
      (dstOf f.pfx f.a) (allotWord (freeOf h.b h.gid + 8 * n) t h.g.base) (lenOf f.pfx))) ∧
  ∀ (f : GFmt) (s : State) (h : Here) (i : Instr) (causes : List Nat) (wb : Int),
    (i = .winSet f ∧ causes = winSetCauses f ∧ wb = (uniVal h.g f.pfx f.b).toNat) ∨
      (i = .winAdd f ∧ causes = winAddCauses f ∧ wb = h.f.wb + (uniVal h.g f.pfx f.b).toInt) →
    PairReady s h causes false f →
    (0 ≤ wb → 8 * wb ≤ (h.g.total : Int) - 8 → exec i s = .next
      ((h.setFib s fun x => { x with wb := wb.toNat }).answers h (dstOf f.pfx f.a) (BitVec.ofNat 64 (8 * h.f.wb)) (lenOf f.pfx))) ∧
    (wb < 0 ∨ (h.g.total : Int) - 8 < 8 * wb → exec i s = .next (raise s h h.f.pred (lenOf f.pfx) 0x002 0 0))

/-- R341. `bar.sync` and `bar.team` of a group with nothing due: the last live group's arrival completes the barrier (its generation rises, no
arrival is left, and every group that waits at it goes on) and the group goes on; an earlier arrival counts and waits. -/
def Obligations.Barriers : Prop :=
  ∀ e ∈ ([(Instr.barSync, barSyncCauses, fun _ => none, WaitKind.barSync), (Instr.barTeam, barTeamCauses, fun h => some h.idx, WaitKind.barTeam)]
      : List ((GFmt → Instr) × (GFmt → List Nat) × (Here → Option Nat) × (Nat → WaitKind))),
    ∀ (f : GFmt) (s : State) (h : Here), let n := (immOf f.b).toNat
      let x := barOf h.b (e.2.2.1 h) n
      let came := loseLatches (setBar s h.bsn (e.2.2.1 h) n ⟨x.gen, x.arr + 1⟩) h.gid
      ScalarReady s h (e.2.1 f) {} → Quiet s h →
      (x.arr + 1 ≠ liveOf s h.bsn h.b (e.2.2.1 h) → exec (e.1 f) s = .next (came.waits h (e.2.2.2 n) (lenOf f.pfx) none)) ∧
      (x.arr + 1 = liveOf s h.bsn h.b (e.2.2.1 h) → h.g.wait = none → ∃ t b, exec (e.1 f) s = .next t ∧
        Tbl.get? t.blocks h.bsn = some b ∧ barOf b (e.2.2.1 h) n = ⟨x.gen + 1, 0⟩ ∧
        fibreAt t h.gid h.fid = some { h.f with pc := h.next (lenOf f.pfx) } ∧
        ∀ gid g, Tbl.get? s.groups gid = some g → bsnOf gid = h.bsn → waitsAt h.b (e.2.2.1 h) n gid g = true →
          ∃ g', Tbl.get? t.groups gid = some g' ∧ g'.wait = none)

/-- R343 to R345, R158. `bar.arrive` takes its count from PEND, and `bar.post` adds its count and posts, at once where nothing of the group is due, else
when it is performed; a posted PEND that falls to 0 or below flips the phase, with OVF where it fell below 0. `bar.wait` on the phase not yet come waits,
and goes on where it has come; OVF then raises barrier-overflow and is cleared; an address outside the private and shared regions, or misaligned, faults,
and so does an object in a word with a double-bit error. -/
def Obligations.BarrierObjects : Prop :=
  (∀ e ∈ ([(Instr.barArrive, barArriveCauses, false, 1), (Instr.barPost, barPostCauses, true, 0)]
      : List ((GFmt → Instr) × (GFmt → List Nat) × Bool × Nat)),
    ∀ (f : GFmt) (s : State) (h : Here), let a := (uniVal h.g f.pfx f.a).toNat
      let n := (uniVal h.g f.pfx f.b).toNat
      PairReady s h (e.2.1 f) false f →
      (barAddrFault h.b a = none → e.2.2.2 ≤ n → n < 2 ^ 39 → badHere h.b h.gid a 8 = true →
        exec (e.1 f) s = .next (raise s h h.f.pred (lenOf f.pfx) 0x025 2 (BitVec.ofNat 64 a))) ∧
      (barAddrFault h.b a = none → e.2.2.2 ≤ n → n < 2 ^ 39 → badHere h.b h.gid a 8 = false → Quiet s h → exec (e.1 f) s = .next
        (h.advance (writeScratch s h.gid a (natLE 8 (barUpdate (barObject s h.gid a) e.2.2.1 n))) (lenOf f.pfx))) ∧
      (barAddrFault h.b a = none → e.2.2.2 ≤ n → n < 2 ^ 39 → badHere h.b h.gid a 8 = false → releaseDue (drainGroup s h.gid) h.gid = true → exec (e.1 f) s = .next
        (h.advance (pushPend (drainGroup s h.gid) [.barrier h.gid a e.2.2.1 n]) (lenOf f.pfx))) ∧
      (∀ code, barAddrFault h.b a = some code → exec (e.1 f) s = .next (raise s h h.f.pred (lenOf f.pfx) code 0 (BitVec.ofNat 64 a)))) ∧
  (∀ (x n : Nat), n < 2 ^ 39 → barOvf x = false →
    (let y := barUpdate x false n
     (barPosted x = false → 0 ≤ barPend x → barPend y = barPend x - n ∧ barPosted y = false ∧ barPhase y = barPhase x) ∧
     (barPosted x = true → n < barPend x → barPend y = barPend x - n ∧ barPosted y = true ∧ barPhase y = barPhase x) ∧
     (barPosted x = true → barPend x = n → barPend y = 0 ∧ barPosted y = false ∧ barPhase y = !barPhase x ∧ barOvf y = false) ∧
     (barPosted x = true → barPend x < n → barPend y = 0 ∧ barPosted y = false ∧ barPhase y = !barPhase x ∧ barOvf y = true)) ∧
    (let y := barUpdate x true n
     (0 < barPend x + n → barPend x + n < 2 ^ 39 →
       barPend y = barPend x + n ∧ barPosted y = true ∧ barPhase y = barPhase x ∧ barOvf y = false) ∧
     (barPend x + n ≤ 0 →
       barPend y = 0 ∧ barPosted y = false ∧ barPhase y = !barPhase x ∧ barOvf y = decide (barPend x + n < 0)))) ∧
  ∀ (f : GFmt) (s : State) (h : Here), let a := (uniVal h.g f.pfx f.a).toNat
    let v := (uniVal h.g f.pfx f.b).toNat
    let x := barObject s h.gid a
    let lost := loseLatches s h.gid
    PairReady s h (barWaitCauses f) false f → barAddrFault h.b a = none → v ≤ 1 →
    (badHere h.b h.gid a 8 = true → exec (.barWait f) s = .next (raise s h h.f.pred (lenOf f.pfx) 0x025 2 (BitVec.ofNat 64 a))) ∧
    (badHere h.b h.gid a 8 = false →
    (barPhase x ≠ (v == 1) → barOvf x = false → exec (.barWait f) s = .next (h.advance lost (lenOf f.pfx))) ∧
    (barPhase x = (v == 1) → exec (.barWait f) s = .next (lost.waits h (.barWait a (v == 1)) (lenOf f.pfx) none)) ∧
    (barPhase x ≠ (v == 1) → barOvf x = true → exec (.barWait f) s = .next
      (raise (writeScratch lost h.gid a (natLE 8 (barClearOvf x))) h h.f.pred (lenOf f.pfx) 0x058 0 0)))

/-- R346, R347, R350, R351. `tl.rd` writes the timeline that its selector names, and so does `tl.wait` once it has reached B; before, the group
waits; a selector that names none raises its fault; `cnt.rd` writes the context's job counter or its count of outstanding acknowledgements. -/
def Obligations.TimelinesAndCounters : Prop :=
  (∀ (f : GFmt) (s : State) (h : Here), let sel := (uniVal h.g f.pfx f.a).toNat
    (∀ k i, timelineOf s h sel = .ok k i → let t := timelineVal s h.cid k i
      (PairReady s h (tlRdCauses f) false f → exec (.tlRd f) s = .next (s.answers h (dstOf f.pfx f.a) t (lenOf f.pfx))) ∧
      (PairReady s h (tlWaitCauses f) false f → (uniVal h.g f.pfx f.b).toNat ≤ t.toNat →
        exec (.tlWait f) s = .next ((loseLatches s h.gid).answers h (dstOf f.pfx f.a) t (lenOf f.pfx))) ∧
      (PairReady s h (tlWaitCauses f) false f → t.toNat < (uniVal h.g f.pfx f.b).toNat →
        exec (.tlWait f) s = .next
          ((loseLatches s h.gid).waits h (.tlWait k i (uniVal h.g f.pfx f.b)) (lenOf f.pfx) (dstOf f.pfx f.a)))) ∧
    ∀ code, timelineOf s h sel = .bad code →
      (PairReady s h (tlRdCauses f) false f → exec (.tlRd f) s = .next (raise s h h.f.pred (lenOf f.pfx) code 0 0)) ∧
      (PairReady s h (tlWaitCauses f) false f → exec (.tlWait f) s = .next (raise s h h.f.pred (lenOf f.pfx) code 0 0))) ∧
  (∀ (s : State) (h : Here), timelineOf s h 0 = .ok 1 h.lcore ∧ timelineOf s h 0x2000 = .ok 2 0 ∧ timelineOf s h 0x4000 = .bad 0x006 ∧
    ∀ i, i < 4096 → timelineOf s h (0x1000 + i) = if i < h.c.cores.length then .ok 1 i else .bad 0x006) ∧
  ∀ (f : GFmt) (s : State) (h : Here), PairReady s h (cntRdCauses f) false f →
    exec (.cntRd f) s = .next
      (s.answers h (dstOf f.pfx f.a) (if isImm 0 0 f.b then h.c.counts.job else h.c.counts.ack.zeroExtend 64) (lenOf f.pfx))

/-- R228 to R232. `q.tail` of a launched group reads 128 bytes of the context's memory and appends their launch to its own launch's tails, the
group's tail count rising; `q.cancel` cancels its own launch, or the oldest launch or graph of a slot, or every record of the context, and writes
what it met, that of every record always 0 (the model's choice, log 121); `q.evt` sends an event record, with its VF's TIME, after the group's stores. -/
def Obligations.QueueInstructions : Prop :=
  (∀ (f : GFmt) (s t : State) (h : Here) (bs : List Byte) (o : Option ObjRef) (lid rank : Nat) (l : Launch),
    let a := (uniVal h.g f.pfx f.a).toNat
    PairReady s h (qTailCauses f) true f → h.isHandler = false → a % 64 = 0 → Quiet s h → readRun s h a 16 = (.ok bs, t) →
    fld bs 0 1 = 1 → descErr t h.c bs .launch = none → objRefOf t h.cid h.c (fld bs 80 8) = .ok o → pointOf h.b = some (lid, rank) →
    Tbl.get? t.launches lid = some l → l.tails.length < 16 → tailsOf t h.cid < 4096 →
    let tail : Tail := { rank := rank, lane := h.gid % 256 * h.g.w + lowest h.f.pred, tc := h.g.tc, desc := parseDesc bs,
                         addr := BitVec.ofNat 64 a, obj := o }
    exec (.qTail f) s = .next (h.advance
      { t with launches := Tbl.modify t.launches lid fun l => { l with tails := l.tails ++ [tail] },
               groups := Tbl.modify t.groups h.gid fun g => { g with tc := g.tc + 1 } } (lenOf f.pfx))) ∧
  (∀ (f : GFmt) (s : State) (h : Here), PairReady s h (qCancelCauses f) false f →
    (isZero f.a = true → immOf f.b = 0 → h.isHandler = false → ∀ lid rank, pointOf h.b = some (lid, rank) →
      exec (.qCancel f) s = .next (h.advance (cancelLaunch s lid false) (lenOf f.pfx))) ∧
    (isZero f.a = false → ∀ v, (uniVal h.g f.pfx f.a).toNat = v → v < 1024 → (slotOf s v).st ≠ 0 → (slotOf s v).ctx = h.cid →
      ∃ t r, cancelTarget s h.cid v (immOf f.b).toNat = (t, r) ∧
        exec (.qCancel f) s = .next (t.answers h (dstOf f.pfx f.a) r (lenOf f.pfx))) ∧
    (isZero f.a = false → ∀ v, (uniVal h.g f.pfx f.a).toNat = v → (1024 ≤ v ∨ (slotOf s v).st = 0 ∨ (slotOf s v).ctx ≠ h.cid) →
      exec (.qCancel f) s = .next (raise s h h.f.pred (lenOf f.pfx) 0x005 0 0))) ∧
  (∀ (s : State) (cid v : Nat), (∀ k, k < 2 → recsOf s v = [] → cancelTarget s cid v k = (s, 2)) ∧
    cancelTarget s cid v 2 = (cancelJob s cid, 0)) ∧
  ∀ (f : GFmt) (s : State) (h : Here), PairReady s h (qEvtCauses f) false f →
    exec (.qEvt f) s = .next (h.advance (pushPend s [.event h.gid h.cid
      { pay := uniVal h.g f.pfx f.a, time := timeFor s h.c.vf, src := handleOf h.gid h.fid, code := (immOf f.b).toNat, cls := 1 }]) (lenOf f.pfx))

/-! The frontier, tensor records, copies (R257 to R262, R306 to R315). -/

/-- R257 to R262. `frt.retire` of a point outside the space, no longer open, or past the window writes 3, 1 or 2; else, its group's writes acknowledged,
the point retires and 0 is written. `frt.yield` writes 3, 2 (a rank not below its own), 0 (retired) or 1 (not in flight), and waits on one in
flight. `frt.query` writes a row's prefix or window, or a point's state. `frt.cancel` retires every point neither retired nor in flight and writes
how many. The pages of rows that one reads are made resident first. A coordinate word with a reserved bit raises system-value, and else a group with
no frontier frontier-absent. -/
def Obligations.FrontierInstructions : Prop :=
  (∀ (f : GFmt) (s : State) (h : Here) (lid rank : Nat) (l : Launch), h.frontier s = some (lid, rank, l) →
    let put := fun (t : State) (v : W64) => t.answers h (dstOf f.pfx f.a) v (lenOf f.pfx)
    let v := uniVal h.g f.pfx f.a
    let lost := loseLatches s h.gid
    (PairReady s h (frtRetireCauses f) true f → ∀ p, coordOf v = some p →
      (rankIn l.desc p = none → exec (.frtRetire f) s = .next (put s 3)) ∧
      ∀ r, rankIn l.desc p = some r →
        ∀ (t : State) (m : Launch), PagesIn s lid l [pageOf (r / l.desc.ni)] t m →
        (isRetired m r = true ∨ m.flying.contains r = true ∨ m.cut = true → exec (.frtRetire f) s = .next (put t 1)) ∧
        (isRetired m r = false → m.flying.contains r = false → m.cut = false → (rowAt m (r / m.desc.ni)).pfx + 64 < r % m.desc.ni →
          exec (.frtRetire f) s = .next (put t 2)) ∧
        (isRetired m r = false → m.flying.contains r = false → m.cut = false → r % m.desc.ni ≤ (rowAt m (r / m.desc.ni)).pfx + 64 →
          Quiet t h → groupOnFabric t h.gid = false → t.here = some h →
          exec (.frtRetire f) s = .next (put (retirePointOf t lid r) 0))) ∧
    (PairReady s h (frtYieldCauses f) true f → ∀ p, coordOf v = some p →
      (rankIn l.desc p = none → exec (.frtYield f) s = .next (put lost 3)) ∧
      ∀ r, rankIn l.desc p = some r →
        (rank ≤ r → exec (.frtYield f) s = .next (put lost 2)) ∧
        ∀ (t : State) (m : Launch), PagesIn lost lid l [pageOf (r / l.desc.ni)] t m → r < rank →
        (isRetired m r = true → exec (.frtYield f) s = .next (put t 0)) ∧
        (isRetired m r = false → m.flying.contains r = false → exec (.frtYield f) s = .next (put t 1)) ∧
        (isRetired m r = false → m.flying.contains r = true →
          exec (.frtYield f) s = .next (t.waits h (.frtYield r) (lenOf f.pfx) (dstOf f.pfx f.a)))) ∧
    (PairReady s h (frtQueryCauses f) true f →
      (isImm 0 0 f.b = true ∨ isImm 1 1 f.b = true → l.desc.nrow ≤ v.toNat → isImm 2 2 f.b = false →
        exec (.frtQuery f) s = .next (put s (BitVec.allOnes 64))) ∧
      (v.toNat < l.desc.nrow → isImm 2 2 f.b = false → ∀ (t : State) (m : Launch), PagesIn s lid l [pageOf v.toNat] t m →
        (isImm 0 0 f.b = true → exec (.frtQuery f) s = .next (put t (BitVec.ofNat 64 (rowAt m v.toNat).pfx))) ∧
        (isImm 0 0 f.b = false → isImm 1 1 f.b = true → exec (.frtQuery f) s = .next (put t (rowAt m v.toNat).win))) ∧
      (isImm 0 0 f.b = false → isImm 1 1 f.b = false → ∀ p, coordOf v = some p →
        (rankIn l.desc p = none → exec (.frtQuery f) s = .next (put s 4)) ∧
        ∀ r, rankIn l.desc p = some r → ∀ (t : State) (m : Launch), PagesIn s lid l (pointPages l.desc r) t m →
          exec (.frtQuery f) s =
            .next (put t (if isRetired m r then 3 else if m.flying.contains r then 2 else if fireable m r then 1 else 0)))) ∧
    (PairReady s h (frtCancelCauses f) true f →
      (l.cut = true → exec (.frtCancel f) s = .next (put s 0)) ∧
      (l.cut = false → Quiet s h → groupOnFabric s h.gid = false → let n := l.desc.points - l.retn - l.flying.length
        let t := { s with launches := Tbl.modify s.launches lid fun l => { l with cut := true, retn := l.retn + n } }
        exec (.frtCancel f) s = .next (put (recheckYields t lid (t.groups.map (·.1))) (BitVec.ofNat 64 n))))) ∧
  (∀ e ∈ ([(Instr.frtRetire, frtRetireCauses, fun _ => true), (Instr.frtYield, frtYieldCauses, fun _ => true),
      (Instr.frtQuery, frtQueryCauses, fun f => isImm 2 2 f.b), (Instr.frtCancel, frtCancelCauses, fun _ => false)]
      : List ((GFmt → Instr) × (GFmt → List Nat) × (GFmt → Bool))),
    ∀ (f : GFmt) (s : State) (h : Here), PairReady s h (e.2.1 f) true f → let bad := e.2.2 f && (coordOf (uniVal h.g f.pfx f.a)).isNone
      (bad = true → exec (e.1 f) s = .next (raise s h h.f.pred (lenOf f.pfx) 0x006 0 0)) ∧
      (bad = false → h.frontier s = none → exec (e.1 f) s = .next (raise s h h.f.pred (lenOf f.pfx) 0x048 0 0))) ∧
  ∀ (l : Launch) (r : Nat), l.desc.vectors = true → l.cut = false → isRetired l r = false →
    r % l.desc.ni ≤ (rowAt l (r / l.desc.ni)).pfx + 64 → isRetired (launchRetirePoint l r) r = true

/-- R306 to R311. `td.set` of a group with nothing due reads 64 bytes and writes them as record B of the context, with a legal world and every
reserved field 0, the read-only bits of its format image kept 0 (the model's reading, log 115); `td.get` writes 64 bits of a record; `td.inv`
clears a record, or all; a record number above 63 raises system-value. R314, R315. `cp.kick` accepts 1 to 64 requests of 64 bytes from the group's
scratchpad in list order, and `cp.gather` one with its index list, where the core's queue has room; each writes the context's request count of its
logical core; an unaligned list raises misaligned, one outside the private and shared regions, or that crosses from one to the other, scratch-
range (the model's reading, log 46), one in a word with a double-bit error uncorrectable-error (held in the block, the model's choice, log 129). -/
def Obligations.TensorRecordsAndCopies : Prop :=
  ((∀ (f : GFmt) (s t : State) (h : Here) (bs : List Byte), let a := (uniVal h.g f.pfx f.a).toNat
     let n := (uniVal h.g f.pfx f.b).toNat
     let r := BitVec.ofNat 512 (leNat bs)
     PairReady s h (tdSetCauses f) false f → n ≤ 63 → a % 64 = 0 → Still s h → readRun s h a 8 = (.ok bs, t) → tdReserved r = false →
     tdWorld r = 0 ∨ tdWorld r = h.c.world →
     exec (.tdSet f) s = .next (h.advance (modCtx t h.cid fun c => { c with tabs := { c.tabs with td := SMap.set c.tabs.td n (tdKept r) } })
       (lenOf f.pfx))) ∧
   (∀ (f : GFmt) (s : State) (h : Here) (n k : Nat), PairReady s h (tdGetCauses f) false f → (uniVal h.g f.pfx f.b).toNat = 64 * k + n →
     n < 64 → k < 8 →
     exec (.tdGet f) s = .next (s.answers h (dstOf f.pfx f.a) (BitVec.extractLsb' (64 * k) 64 (SMap.get h.c.tabs.td n)) (lenOf f.pfx))) ∧
   (∀ (f : GFmt) (s : State) (h : Here), let n := (uniVal h.g f.pfx f.b).toNat
     ScalarReady s h (tdInvCauses f) { sregs := scalarNos f.pfx f.b } →
     (isOnes f.b = true → exec (.tdInv f) s = .next
       (h.advance (modCtx s h.cid fun c => { c with tabs := { c.tabs with td := [] } }) (lenOf f.pfx))) ∧
     (isOnes f.b = false → n ≤ 63 → exec (.tdInv f) s = .next
       (h.advance (modCtx s h.cid fun c => { c with tabs := { c.tabs with td := SMap.set c.tabs.td n 0 } }) (lenOf f.pfx))) ∧
     (isOnes f.b = false → 63 < n → exec (.tdInv f) s = .next (raise s h h.f.pred (lenOf f.pfx) 0x006 0 0))) ∧
   ∀ (f : GFmt) (s : State) (h : Here), PairReady s h (tdSetCauses f) false f → 63 < (uniVal h.g f.pfx f.b).toNat →
     exec (.tdSet f) s = .next (raise s h h.f.pred (lenOf f.pfx) 0x006 0 0)) ∧
  ((∀ (f : GFmt) (s : State) (h : Here), let a := (uniVal h.g f.pfx f.a).toNat
     let n := (uniVal h.g f.pfx f.b).toNat
     PairReady s h (cpKickCauses f) true f → 1 ≤ n → n ≤ 64 →
     (inPrivShared h.b a (64 * n) = true → a % 64 = 0 → Still s h → (coreOf s h.core).kicks.length + n ≤ 64 →
       (badHere h.b h.gid a (64 * n) = true → exec (.cpKick f) s = .next (raise s h h.f.pred (lenOf f.pfx) 0x025 2 (BitVec.ofNat 64 a))) ∧
       (badHere h.b h.gid a (64 * n) = false → let t := acceptAll s h (cut64 n (readScratch s h.gid a (64 * n)))
       exec (.cpKick f) s = .next (t.answers h (dstOf f.pfx f.a) (ctrNow t h) (lenOf f.pfx)))) ∧
     (inPrivShared h.b a (64 * n) = false → exec (.cpKick f) s = .next (raise s h h.f.pred (lenOf f.pfx) 0x020 0 (BitVec.ofNat 64 a))) ∧
     (inPrivShared h.b a (64 * n) = true → a % 64 ≠ 0 →
       exec (.cpKick f) s = .next (raise s h h.f.pred (lenOf f.pfx) 0x021 0 (BitVec.ofNat 64 a)))) ∧
   ∀ (f : GFmt) (s : State) (h : Here), let a := (uniVal h.g f.pfx f.a).toNat
     let x := (uniVal h.g f.pfx f.b).toNat
     let raw := rec512 (readScratch s h.gid a 64)
     let n := (raw.extractLsb' 352 16).toNat
     PairReady s h (cpGatherCauses f) true f → inPrivShared h.b a 64 = true → a % 64 = 0 → inPrivShared h.b x 4 = true → x % 4 = 0 →
     Still s h → (coreOf s h.core).kicks.length < 64 → badHere h.b h.gid a 64 = false →
     (n ≤ 256 → badHere h.b h.gid x (4 * n) = false →
       (inPrivShared h.b x (4 * n) = true →
         let t := acceptReq s h raw (some (cutIdx n (readScratch s h.gid x (4 * n))))
         exec (.cpGather f) s = .next (t.answers h (dstOf f.pfx f.a) (ctrNow t h) (lenOf f.pfx))) ∧
       (inPrivShared h.b x (4 * n) = false →
         exec (.cpGather f) s = .next (raise s h h.f.pred (lenOf f.pfx) 0x020 0 (BitVec.ofNat 64 x)))) ∧
     (n ≤ 256 → badHere h.b h.gid x (4 * n) = true →
       exec (.cpGather f) s = .next (raise s h h.f.pred (lenOf f.pfx) 0x025 2 (BitVec.ofNat 64 x))))

/-! The Mash engine (R186 to R203). -/

/-- R195, R197. `acc.clr`, `acc.mov`, `acc.ld`, `acc.st` and `acc.put` of a context that owns its core's units, on units that it has and with room in
the queue, enter the engine queue in order; `acc.ld` and `acc.st` have their 4 KiB placed at issue; a unit that the context does not have raises
matrix-range in each of the five. -/
def Obligations.AccumulatorInstructions : Prop :=
  (∀ (f : GFmt) (s : State) (h : Here), UnitsReady s h →
    (∀ u n, PairReady s h (accClrCauses f) true f → mopVal h f.pfx f.a 64 = some u → mopVal h f.pfx f.b 65 = some n → 1 ≤ n → u + n ≤ h.c.u →
      SoloReady s h (.clr u n) → exec (.accClr f) s = .next (s.queues h (.clr u n) [] [] (lenOf f.pfx))) ∧
    (∀ u n, PairReady s h (accClrCauses f) true f → mopVal h f.pfx f.a 64 = some u → mopVal h f.pfx f.b 65 = some n → h.c.u < u + n →
      exec (.accClr f) s = .next (raise s h h.f.pred (lenOf f.pfx) 0x037 0 0)) ∧
    (∀ d u, PairReady s h (accMovCauses f) true f → mopVal h f.pfx f.a 64 = some d → mopVal h f.pfx f.b 64 = some u → d < h.c.u → u < h.c.u →
      SoloReady s h (.mov d u) → exec (.accMov f) s = .next (s.queues h (.mov d u) [] [] (lenOf f.pfx))) ∧
    (∀ d u, PairReady s h (accMovCauses f) true f → mopVal h f.pfx f.a 64 = some d → mopVal h f.pfx f.b 64 = some u → h.c.u ≤ d ∨ h.c.u ≤ u →
      exec (.accMov f) s = .next (raise s h h.f.pred (lenOf f.pfx) 0x037 0 0)) ∧
    ∀ e ∈ ([(Instr.accLd, accLdCauses, false, MashKind.ld), (Instr.accSt, accStCauses, true, MashKind.st)]
        : List ((GFmt → Instr) × (GFmt → List Nat) × Bool × (Nat → List Part → MashKind))),
      ∀ (u : Nat) (ps : List Part) (t : State), let va := (uniVal h.g f.pfx f.b).toNat
        PairReady s h (e.2.1 f) true f → mopVal h f.pfx f.a 64 = some u →
        (h.c.u ≤ u → exec (e.1 f) s = .next (raise s h h.f.pred (lenOf f.pfx) 0x037 0 0)) ∧
        (u < h.c.u →
        (va % 64 = 0 → unitPlaces h va 64 e.2.2.1 s = (.ok ps, t) → SoloReady t h (e.2.2.2 u ps) →
          exec (e.1 f) s = .next (t.queues h (e.2.2.2 u ps) [] [] (lenOf f.pfx))) ∧
        (va % 64 ≠ 0 → exec (e.1 f) s = .next (raise s h h.f.pred (lenOf f.pfx) 0x021 0 (BitVec.ofNat 64 va))))) ∧
  ∀ (f : GFmt) (s : State) (h : Here) (u : Nat), let r := h.f.wb * 8 + f.b.toNat
    Able s h (accPutCauses f) true { vregs := (List.range 16).map fun i => r + i, sregs := scalarNos f.pfx f.a } → UnitsReady s h →
    mopVal h f.pfx f.a 64 = some u →
    (u < h.c.u → SoloReady s h (.put u h.f.pred (putVals h.g h.f.pred r)) →
      exec (.accPut f) s = .next (s.queues h (.put u h.f.pred (putVals h.g h.f.pred r)) [] [] (lenOf f.pfx))) ∧
    (h.c.u ≤ u → exec (.accPut f) s = .next (raise s h h.f.pred (lenOf f.pfx) 0x037 0 0))

/-- R189 to R195. `mm` with a legal word, mapped slots, units that the context has and, for a narrow class, images that fit and legal scales, its
scales placed: with no gang list the operation enters the engine queue; the first member of a gang of at least two opens an entry of the rendezvous
latch for the rising list of its members. -/
def Obligations.MatrixMultiply : Prop :=
  ∀ (f : XFmt) (s : State) (h : Here), let n := scalarNo f.pfx f.a
    let w := (getSreg h.g n).toNat
    let p := (getSreg h.g (n + 1)).toNat
    let cls := f.fn.toNat / 64
    let tda := w / 2 ^ 52 % 64
    let tdb := w / 2 ^ 58
    let acc := w / 2 ^ 46 % 64
    let side := fun (os : Nat) => ({ os := os, fmt := 0, smode := 0, scales := [], groups := 1, koff := 0 } : MmSide)
    let op : MmOp := { m := mmM f, n := mmN f, cls := cls, za := f.fn.getLsbD 0, acc := acc, a := side (w / 2 ^ 32 % 128), b := side (w / 2 ^ 39 % 128) }
    ∀ (x y : List Nat) (sa sb : MmSide) (t u : State), ScalarReady s h (xCauses f) { sregs := [n, n + 1] } → s.full = true → UnitsReady s h →
    w % 2 ^ 32 = 0 → (cls = 0 → tda = 0 ∧ tdb = 0) → mmSlots h.b h.idx op = some (x, y) → acc + mmUnits (mmM f) (mmN f) ≤ h.c.u →
    (cls ≠ 0 → imageFits cls (tdFmt (tdRec h.c tda)) = true ∧ imageFits cls (tdFmt (tdRec h.c tdb)) = true ∧
      scaleLegal (tdRec h.c tda) = true ∧ scaleLegal (tdRec h.c tdb) = true) →
    mmSide h cls (w / 2 ^ 32 % 128) tda (p / 2 ^ 24 % 2 ^ 20) (mmM f) (p % 2 ^ 24) s = (.ok sa, t) →
    mmSide h cls (w / 2 ^ 39 % 128) tdb (p / 2 ^ 44) (mmN f) (p % 2 ^ 24) t = (.ok sb, u) →
    let op := { op with a := sa, b := sb }
    let l := gangList h.g.gang
    (l = [] → SoloReady u h (.mm op) → exec (.mm f) s = .next (u.queues h (.mm op) x y (lenOf f.pfx))) ∧
    (2 ≤ l.length → gangValid u h l = true → ((coreOf u h.core).latch.filter fun e => !e.closed).length < 8 →
      (coreOf u h.core).latch.find? (fun e => !e.closed && e.bsn == h.bsn && e.set == sortNat l && !e.joined.contains (h.gid % 256)) = none →
      exec (.mm f) s = .next (h.advance (addPend (modCore u h.core fun c => { c with latch := c.latch ++
        [{ bsn := h.bsn, ctx := h.cid, set := sortNat l, joined := [h.gid % 256], op := op, word := { f with pfx := none },
           ow := getSreg h.g n, pw := getSreg h.g (n + 1), closed := false }] }) h.gid) (lenOf f.pfx)))

/-- R187, R188, R198. `os.claim` maps the lowest run of free names to the lowest free physical slots of its core and writes the first name, or, with
too few of either, all ones; `os.rel` unmaps names whose slots no engine uses; `mm.wait` with no more pending than its count reports: to a scalar the
status word, the flags cleared, else nothing with no flag set, or the fault of an engine reset; with more it waits. Where it need not wait, the latches
stay (the model's reading, log 29), and its fault is raised as it goes on (log 16); abort and seal flags without a register are not stated here. -/
def Obligations.OperandSlots : Prop :=
  (∀ (f : GFmt) (s : State) (h : Here) (n : Nat), PairReady s h (osClaimCauses f) true f → mopVal h f.pfx f.b 65 = some n → 1 ≤ n →
    let free := freeSlots (coreOf s h.core)
    (∀ first, freeNames h.b h.idx n 0 128 = some first → n ≤ free.length → exec (.osClaim f) s = .next
      ((mapNames s h (((List.range n).map fun i => first + i).zip free)).answers h (dstOf f.pfx f.a) (BitVec.ofNat 64 first) (lenOf f.pfx))) ∧
    (freeNames h.b h.idx n 0 128 = none ∨ free.length < n → exec (.osClaim f) s = .next
      (s.answers h (dstOf f.pfx f.a) (BitVec.allOnes 64) (lenOf f.pfx)))) ∧
  (∀ (f : GFmt) (s : State) (h : Here) (first n : Nat) (ps : List Nat), PairReady s h (osRelCauses f) true f →
    mopVal h f.pfx f.a 128 = some first → mopVal h f.pfx f.b 65 = some n → 1 ≤ n →
    slotsNamed h.b h.idx ((List.range n).map fun i => first + i) = some ps → ps.any (fun p => slotBusy (coreOf s h.core) p) = false →
    exec (.osRel f) s = .next (h.advance (dropNames s h ((List.range n).map fun i => first + i) ps) (lenOf f.pfx))) ∧
  ∀ (f : GFmt) (s : State) (h : Here) (n : Nat), PairReady s h (mmWaitCauses f) true f → mopVal h f.pfx f.b 17 = some n →
    (n < h.g.eng.pend → exec (.mmWait f) s = .next (s.waits h (.mmWait n) (lenOf f.pfx) (dstOf f.pfx f.a))) ∧
    (h.g.eng.pend ≤ n → ∀ d, dstOf f.pfx f.a = some d → exec (.mmWait f) s = .next
      ((modGroup s h.gid fun g => { g with eng := { g.eng with reset := false, abort := false, sealed := false } }).answers h (some d)
        (statusWord h.g.eng) (lenOf f.pfx))) ∧
    (h.g.eng.pend ≤ n → dstOf f.pfx f.a = none → h.g.eng.flagged = false → exec (.mmWait f) s = .next (h.advance s (lenOf f.pfx))) ∧
    (h.g.eng.pend ≤ n → dstOf f.pfx f.a = none → h.g.eng.reset = true → exec (.mmWait f) s = .next
      (raise (modGroup s h.gid fun g => { g with eng := { g.eng with reset := false } }) h h.f.pred (lenOf f.pfx) 0x032 0 0))

/-! Textures, tile buffers, pixels (R210 to R216, R296 to R299). -/

/-- R210 to R216, R296 to R299. With their registers free: `tex` and `tex.fetch` with a legal sampler of an image in world 0, every lane's texels
read, write four components to vd to vd+3 in the active lanes, and until they complete all their texels may be read and checked again, at one
instant (one that then fails keeps the results of its issue: the model's choice, log 157); `tb.ld` and `tb.st` read and write the word of each
lane's tile address; `tb.fence` goes on with nothing earlier due, else waits; `pix.own` and `ct.look` write a word about each lane's pixel;
`pix.exp` stages the components of its plane in the lanes that are not helpers, and with LAST makes each one's commits due. A `tb.fence` that need
not wait keeps the latches (the model's reading, log 29); outside a pass it raises scratch-range on its active lanes (log 28). R212, R297, R298,
R299. What those instructions leave: `tex` leaves component c of each lane that passed in that lane of vd+c, 0 under `.zro` in the disabled lanes,
and the others as they were; the words of `pix.own` and `ct.look` are bit 31 alone outside the surface or its display, else CLS by the owner, with
o where CLS is 1, or with the rights that the context holds there; a LAST export makes a commit due for each covered sample that SMSK names, with
the staged depth (the interpolated one if none, or if EARLY tested it) and each staged plane, clears the lane's staging, and with no such sample
writes 0 to vd. -/
def Obligations.PixelInstructions : Prop :=
  ((∀ e ∈ ([(Instr.tex, false), (Instr.texFetch, true)] : List ((VFmt → Instr) × Bool)),
     ∀ (f : VFmt) (s : State) (h : Here), let ra := h.f.wb * 8 + f.a.toNat
       let rd := h.f.wb * 8 + f.vd.toNat
       let w := (uniVal h.g f.pfx f.b).toNat
       let t := samplerOf h.c w e.2
       let r := texScan t h ra (laneList (h.act (mskOf f.pfx))) { s := drainGroup s h.gid, oks := [], bads := [], wait := false }
       Able s h (texCauses texSpec f) true { vregs := [ra, ra + 1, rd, rd + 1, rd + 2, rd + 3], sregs := scalarNos f.pfx f.b } →
       (samplerBad w e.2 = false → t.levels ≠ 0 → tdWorld t.td = 0 → texHeld (drainGroup s h.gid) h.gid = false → r.wait = false → r.bads = [] → exec (e.1 f) s = .next
         (h.advance (pushPend (texWrite r.s h rd (h.act (mskOf f.pfx)) (zroOf f.pfx) r.oks)
           [texDue (drainGroup s h.gid) h e.2 w ra rd (r.oks.map (·.1))]) (lenOf f.pfx))) ∧
       (samplerBad w e.2 = true ∨ t.levels = 0 → exec (e.1 f) s = .next (raise s h (h.act (mskOf f.pfx)) (lenOf f.pfx) 0x006 0 0)) ∧
       (samplerBad w e.2 = false → t.levels ≠ 0 → tdWorld t.td ≠ 0 →
         exec (e.1 f) s = .next (raise s h (h.act (mskOf f.pfx)) (lenOf f.pfx) 0x034 0 0))) ∧
   (∀ (s : State) (k : Nat) (x : TexDue) (h : Here), s.mem.pend[k]? = some (.tex x) → texHere (dropPend s k) x = some h →
     let r := texScan { samplerOf h.c x.word x.fetch with td := x.td } h 0 x.lanes { s := dropPend s k, oks := [], bads := [], wait := false }
     exec (.memoryAccessPerform k) s = .next (if r.wait = false ∧ r.bads = [] then
       modGroup r.s x.gid fun g => (List.range 4).foldl (fun g c => texPut g (x.rd + c) c r.oks) g else dropPend s k)) ∧
   (∀ (f : UFmt) (s : State) (h : Here), let n := (if readsFragment f.pfx then {} else nameSel h f.pfx false f.a).and (nameVd h false f.vd)
     let addr := tbAddr s h f
     let lanes := laneList (h.act (mskOf f.pfx))
     let reg := h.f.wb * 8 + f.vd.toNat
     ∀ home p hd, tileHome s h = some home → Tbl.get? s.passes home.1 = some p → passHdr s home.1 = some hd →
       lanes.all (fun l => tileAddrOk hd (addr l)) = true → (readsFragment f.pfx = true → FragReady s h (fragOf f.pfx).1) →
       (Able s h (uCauses tbLdSpec f) true n → tbLdDue s h addr lanes = false →
         lanes.any (fun l => tileBad p home.2.2 (addr l)) = false → exec (.tbLd f) s = .next
         (h.advance (modGroup s h.gid fun g => zeroDisabled
           (lanes.foldl (fun g l => setVreg g reg l (BitVec.ofNat 32 (tileWord p home.2.2 (addr l)))) g) false reg
           (h.act (mskOf f.pfx)) (zroOf f.pfx)) (lenOf f.pfx))) ∧
       (Able s h (uCauses tbStSpec f) true n → exec (.tbSt f) s = .next
         (h.advance (modPass s home.1 fun p => lanes.foldl (fun p l =>
           touchPix (putTile p home.2.2 (addr l) (getVreg h.g reg l).toNat) home.2.2 (addr l % 4096)) p) (lenOf f.pfx)))) ∧
   (∀ (f : UFmt) (s : State) (h : Here), Legal s h (tbFenceCauses f) true →
     ((tileHome s h).isSome = true → fenceDue s h.gid h.g = false → exec (.tbFence f) s = .next (h.advance s (lenOf f.pfx))) ∧
     ((tileHome s h).isSome = true → fenceDue s h.gid h.g = true → exec (.tbFence f) s = .next (s.waits h .tbFence (lenOf f.pfx) none)) ∧
     (tileHome s h = none → exec (.tbFence f) s = .next (raise s h (h.act (mskOf f.pfx)) (lenOf f.pfx) 0x020 0 0))) ∧
   (∀ e ∈ ([(Instr.pixOwn, pixOwnWord), (Instr.ctLook, ctLookWord)]
       : List ((UFmt → Instr) × (State → Nat → Nat → Nat → Nat → Nat))),
     ∀ (f : UFmt) (s : State) (h : Here), let r := h.f.wb * 8 + f.vd.toNat
       let sid := (uniVal h.g f.pfx f.a).toNat
       let at_ := fun l => (getVreg h.g r l).toNat
       Able s h (pixCauses pixNSpec f) true { vregs := [r, r + 1, r + 2, r + 3], sregs := scalarNos f.pfx f.a } →
       (sid < 4096 → exec (e.1 f) s = .next (h.advance (modGroup s h.gid fun g => writeLanes g false r (h.act (mskOf f.pfx)) (zroOf f.pfx)
         (fun l => e.2 s h.c.oid sid (at_ l % 65536) (at_ l / 65536)) (laneNos g.w)) (lenOf f.pfx))) ∧
       (4096 ≤ sid → exec (e.1 f) s = .next (raise s h h.f.pred (lenOf f.pfx) 0x006 0 0))) ∧
   ∀ (f : UFmt) (s : State) (h : Here) (fr : FragInfo) (hd : PassHdr), let r := h.f.wb * 8 + f.vd.toNat
     let w := (uniVal h.g f.pfx f.a).toNat
     Able s h (pixCauses pixESpec f) true { vregs := [r, r + 1, r + 2, r + 3], sregs := scalarNos f.pfx f.a } → w < 256 →
     h.g.frag = some fr → passHdr s fr.pass = some hd → w % 4 < hd.npl → (w / 64 % 2 = 1 ↔ planeFmt hd (w % 4) = 3) →
     let lanes := laneList (h.act (mskOf f.pfx) &&& ~~~fr.helper)
     let stage := fun (x : FragInfo) =>
       lanes.foldl (fun x l => stageLane h.g x r l (w % 4) (w / 64 % 2 == 1) (planeCount (planeFmt hd (w % 4)))) x
     let t := modGroup s h.gid fun g => { g with frag := g.frag.map stage }
     (w < 128 → exec (.pixExp f) s = .next (h.advance t (lenOf f.pfx))) ∧
     (128 ≤ w → exec (.pixExp f) s = .next
       (h.advance (lanes.foldl (fun s l => exportLast s h hd fr.pass r (w / 4 % 16) l) t) (lenOf f.pfx)))) ∧
  ((∀ (s : State) (h : Here) (g : Group) (rd : Nat) (act : W64) (zro : Bool) (oks : List (Nat × List Nat)),
     Tbl.get? s.groups h.gid = some g → g.w ≤ 64 → (oks.map (·.1)).Nodup → (∀ e ∈ oks, e.1 < 64 ∧ inSet act e.1 = true) →
     ∃ g2, Tbl.get? (texWrite s h rd act zro oks).groups h.gid = some g2 ∧
       (∀ e ∈ oks, ∀ c < 4, getVreg g2 (rd + c) e.1 = BitVec.ofNat 32 (nth e.2 c 0)) ∧
       (∀ l < g.w, inSet act l = false → ∀ c < 4, getVreg g2 (rd + c) l = if zro then 0 else getVreg g (rd + c) l) ∧
       (∀ l < g.w, inSet act l = true → (∀ e ∈ oks, e.1 ≠ l) → ∀ c < 4, getVreg g2 (rd + c) l = getVreg g (rd + c) l) ∧
       ∀ r l, l < 64 → (∀ c < 4, r ≠ rd + c) → getVreg g2 r l = getVreg g r l) ∧
   (∀ (s : State) (oid sid x y : Nat),
     (Tbl.get? s.pix.surfs sid = none → pixOwnWord s oid sid x y = 2 ^ 31 ∧ ctLookWord s oid sid x y = 2 ^ 31) ∧
     ∀ sf, Tbl.get? s.pix.surfs sid = some sf →
       let o : Option Half := if sf.a.kind = 1 then some (BitVec.ofNat 16 sf.a.oid)
         else if sf.a.kind = 2 then pomAt s sf.a.disp (sf.a.ox + x) (sf.a.oy + y) else pomAt s sf.a.disp x y
       (sf.a.w ≤ x ∨ sf.a.h ≤ y ∨ o = none → pixOwnWord s oid sid x y = 2 ^ 31 ∧ ctLookWord s oid sid x y = 2 ^ 31) ∧
       ∀ w, o = some w → x < sf.a.w → y < sf.a.h →
         (let p := w.toNat % 4096;
           pixOwnWord s oid sid x y =
             if p = 0 then 0 else if p = oid then 2 ^ 16 + w.toNat else if p = 4095 then 3 * 2 ^ 16 else 2 * 2 ^ 16) ∧
         let p := if sf.a.kind = 3 then w.toNat % 4096 else sf.a.oid
         let held := ((grants s p oid sid x y).foldl (fun (r : BitVec 4) e => r ||| e.rights) 0).toNat
         ctLookWord s oid sid x y =
           if p = 0 then 15 else if p = oid then 2 ^ 16 + 15 else if p = 4095 then 3 * 2 ^ 16
           else 2 * 2 ^ 16 + if pomNoCap w then held % 8 else held) ∧
   ∀ (s : State) (h : Here) (hd : PassHdr) (g : Group) (f : FragInfo) (p : PassSt) (reg smsk lane : Nat),
     Tbl.get? s.groups h.gid = some g → g.frag = some f → Tbl.get? s.passes f.pass = some p →
     let on := (List.range 4).filter fun k => (SMap.get f.cover lane).getLsbD k && (smsk == 0 || smsk.testBit k)
     let staged := fun k => (SMap.get f.staged lane).getLsbD k
     let t := exportLast s h hd f.pass reg smsk lane
     ∃ g2 f2 p2, Tbl.get? t.groups h.gid = some g2 ∧ g2.frag = some f2 ∧ Tbl.get? t.passes f.pass = some p2 ∧ SMap.get f2.staged lane = 0 ∧
       (on = [] → p2 = p ∧ getVreg g2 reg lane = 0) ∧
       (on ≠ [] → g2.regs = g.regs ∧ ∃ cs, p2 = { p with commits := p.commits ++ cs } ∧ cs.map (·.sample) = on ∧ ∀ x ∈ cs,
         x.gid = h.gid ∧ x.lane = lane ∧ x.item = f.item ∧ x.prim = f.prim ∧ x.tile = f.tile ∧ x.pix = (SMap.get f.pix lane).toNat ∧ x.reg = reg ∧
         x.depth = (if staged 4 = true ∧ f.early = false then SMap.get f.stage (32 * lane + 16) else SMap.get f.zval (4 * lane + x.sample)) ∧
         x.planes = ((List.range hd.npl).filter staged).map fun q =>
           (q, (List.range (planeCount (planeFmt hd q))).map fun c => SMap.get f.stage (32 * lane + 4 * q + c))))

/-! The control store (R321 to R335). -/

/-- R333 to R335. With nothing of the group due: `wcs.ld` into units that the VF does not hold writes status 1, under a live binding status 2, else
reads its words of 8 bytes into the store and writes 0; `wcs.bind` of a legal sequence writes its entry and 0, and of another the status that names
the condition and the micro-op; `wcs.unbind` clears one entry, or all; `wcs.inv` removes the bindings over its addresses, and zeroes them. -/
def Obligations.ControlStore : Prop :=
  (∀ (f : GFmt) (s : State) (h : Here), let n := scalarNo f.pfx f.a
    let src := (getSreg h.g n).toNat
    let lo := (getSreg h.g (n + 1)).toNat
    let k := (uniVal h.g f.pfx f.b).toNat
    Legal s h (wcsLdCauses f) true → RegsFree s h { sregs := abRegs f ++ [n + 1] } → 1 ≤ k → k ≤ 256 → Still s h → src % 8 = 0 → lo < 4096 →
    (unitsOk s h.c.vf lo k = false → exec (.wcsLd f) s = .next (s.answers h (dstOf f.pfx f.a) 1 (lenOf f.pfx))) ∧
    (unitsOk s h.c.vf lo k = true → covered s h.c.vf lo k = true →
      exec (.wcsLd f) s = .next (s.answers h (dstOf f.pfx f.a) 2 (lenOf f.pfx))) ∧
    (unitsOk s h.c.vf lo k = true → covered s h.c.vf lo k = false → ∀ bs t, readRun s h src k = (.ok bs, t) → exec (.wcsLd f) s = .next
      (State.answers { t with wcs := SMap.setList t.wcs lo (wordsOf k bs) } h (dstOf f.pfx f.a) 0 (lenOf f.pfx)))) ∧
  (∀ (f : GFmt) (s : State) (h : Here), let xi := (uniVal h.g f.pfx f.b).toNat
    let v := uniVal h.g f.pfx f.a
    let start := v.toNat % 4096
    let n := v.toNat / 2 ^ 16 % 128
    PairReady s h (wcsBindCauses f) true f → xi ≤ 31 → bindWordBad v = false → Still s h →
    (seqFailure s h.c.vf start n = none →
      let entry := fun (k : Half) => BitVec.ofNat 64 (2 ^ 63 + k.toNat * 2 ^ 32 + n * 2 ^ 16 + start)
      exec (.wcsBind f) s = .next ((modCtx s h.cid fun c =>
        { c with tabs := { c.tabs with bcnt := c.tabs.bcnt + 1, bind := SMap.set c.tabs.bind xi (entry (c.tabs.bcnt + 1)) } }).answers h
          (dstOf f.pfx f.a) 0 (lenOf f.pfx))) ∧
    (∀ c i, seqFailure s h.c.vf start n = some (c, i) → exec (.wcsBind f) s = .next
      (s.answers h (dstOf f.pfx f.a) (BitVec.ofNat 64 (i * 65536 + c)) (lenOf f.pfx)))) ∧
  (∀ (f : GFmt) (s : State) (h : Here), let xi := (uniVal h.g f.pfx f.b).toNat
    ScalarReady s h (wcsUnbindCauses f) { sregs := scalarNos f.pfx f.b } → s.full = true → Still s h →
    (isOnes f.b = true → exec (.wcsUnbind f) s = .next
      (h.advance (modCtx s h.cid fun c => { c with tabs := { c.tabs with bind := [] } }) (lenOf f.pfx))) ∧
    (isOnes f.b = false → xi ≤ 31 → exec (.wcsUnbind f) s = .next
      (h.advance (modCtx s h.cid fun c => { c with tabs := { c.tabs with bind := SMap.set c.tabs.bind xi 0 } }) (lenOf f.pfx)))) ∧
  ∀ (f : GFmt) (s : State) (h : Here), let lo := (uniVal h.g f.pfx f.a).toNat
    let k := (uniVal h.g f.pfx f.b).toNat
    PairReady s h (wcsInvCauses f) true f → Still s h → 1 ≤ k → k ≤ 256 → lo < 4096 →
    (unitsOk s h.c.vf lo k = false → exec (.wcsInv f) s = .next (s.answers h (dstOf f.pfx f.a) 1 (lenOf f.pfx))) ∧
    (unitsOk s h.c.vf lo k = true → let t := unbindOver s h.c.vf lo k
      exec (.wcsInv f) s = .next
        (State.answers { t with wcs := SMap.setList t.wcs lo (List.replicate k 0) } h (dstOf f.pfx f.a) 0 (lenOf f.pfx)))

/-- R324, R325. Each micro-op that computes writes its result, from A, B and C in 64 bits, to each active lane of a vector temporary, or once to a
scalar temporary, and goes on; `upick` takes A of the lowest active lane. -/
def Obligations.MicroArithmetic : Prop :=
  (∀ e ∈ ([(Instr.uadd, fun (a b _ : W64) => a + b), (Instr.usub, fun (a b _ : W64) => a - b), (Instr.umul, fun (a b _ : W64) => a * b),
        (Instr.umad, fun (a b c : W64) => a * b + c), (Instr.uand, fun (a b _ : W64) => a &&& b), (Instr.uor, fun (a b _ : W64) => a ||| b),
        (Instr.uxor, fun (a b _ : W64) => a ^^^ b), (Instr.uandn, fun (a b _ : W64) => a &&& ~~~b), (Instr.ushl, fun (a b _ : W64) => a <<< (b.toNat % 64))]
      ++ [(Instr.ushr, fun (a b _ : W64) => a >>> (b.toNat % 64)), (Instr.usra, fun (a b _ : W64) => a.sshiftRight (b.toNat % 64)),
        (Instr.umin, fun (a b _ : W64) => if b.toInt < a.toInt then b else a),
        (Instr.umax, fun (a b _ : W64) => if a.toInt < b.toInt then b else a),
        (Instr.uminn, fun (a b _ : W64) => if b.toNat < a.toNat then b else a),
        (Instr.umaxn, fun (a b _ : W64) => if a.toNat < b.toNat then b else a), (Instr.useq, fun (a b _ : W64) => if a = b then 1 else 0),
        (Instr.usne, fun (a b _ : W64) => if a = b then 0 else 1), (Instr.uslt, fun (a b _ : W64) => if a.toInt < b.toInt then 1 else 0)]
      ++ [(Instr.usle, fun (a b _ : W64) => if a.toInt ≤ b.toInt then 1 else 0),
        (Instr.usltn, fun (a b _ : W64) => if a.toNat < b.toNat then 1 else 0), (Instr.usel, fun (a b c : W64) => if c = 0 then b else a),
        (Instr.ubfx, fun (a b _ : W64) => BitVec.ofNat 64 (intBfx .n64 a.toNat b.toNat 0)),
        (Instr.uzx32, fun (a _ _ : W64) => (a.setWidth 32).setWidth 64), (Instr.usx32, fun (a _ _ : W64) => (a.setWidth 32).signExtend 64),
        (Instr.ufadd, uFp fun a b _ => fmt32.add .rne a b), (Instr.ufsub, uFp fun a b _ => fmt32.sub .rne a b),
        (Instr.ufmul, uFp fun a b _ => fmt32.mul .rne a b)]
      ++ [(Instr.uffma, uFp fun a b c => fmt32.fma .rne false a b c), (Instr.ufmin, uFp fun a b _ => fmt32.min a b),
        (Instr.ufmax, uFp fun a b _ => fmt32.max a b),
        (Instr.ufcvti, fun (a _ _ : W64) => BitVec.ofInt 64 (fmt32.toIntSat .rtz .i32 (a.toNat % 2 ^ 32))),
        (Instr.uicvtf, fun (a _ _ : W64) => BitVec.ofNat 64 (fmt32.ofInt .rne (a.setWidth 32).toInt)), (Instr.umov, fun (a _ _ : W64) => a)]
      : List ((UopFmt → Instr) × (W64 → W64 → W64 → W64))),
    ∀ (f : UopFmt) (s : State) (u : UHere), UopReady s u → exec (e.1 f) s = .next
      (uNext (uWrite s u f.d fun l => e.2 (uSrc u f f.a l) (uSrc u f f.b l) (uSrc u f f.c l)) u)) ∧
  ∀ (f : UopFmt) (s : State) (u : UHere), UopReady s u → exec (.upick f) s = .next
    (uNext (uWrite s u f.d fun _ => if u.act = 0 then 0 else uSrc u f f.a (lowest u.act)) u)

/-- R325, R327, R329, R331. Before each micro-op a binding removed or replaced since the entry parks the whole fibre at the `xop` with illegal-
instruction, cause 7. The branches of a sequence go to IMM, always or where A is not or is 0, and else on; `uend` and a target past the end leave
the sequence, the PC past the `xop`; `uout` writes the destination register in the active lanes (and 0 under `.zro` in the others of PRED); `uld`
and `ust` whose lanes all pass their checks read and write 4 or 8 bytes, and go on (a load to a scalar temporary with no active lane only goes
on); a word that R325 does not list parks the fibre. R58, R328, R329, R331. A legal `xop` of a bound index enters the sequence: the temporaries
take the operands, and the fibre's micro-state holds the binding's serial number, the mask and position 0, with the destination and length of the
`xop` (held there by the model, log 12); an unbound one raises illegal-instruction with the smallest of its causes, 7 where it has no other. -/
def Obligations.SequenceControlAndMemory : Prop :=
  ((∀ (s : State) (h : Here) (m : Micro) (i : Instr), s.here = some h → h.f.micro = some m → hiddenDue s h.gid = false →
     (bindV (bindOf h.c m.xi) = false ∨ bindSer (bindOf h.c m.xi) ≠ m.bser) →
     ((∃ (k : UopFmt → Instr) (f : UopFmt), (k ∈ ([.uadd, .usub, .umul, .umad, .uand, .uor, .uxor, .uandn, .ushl, .ushr, .usra, .umin, .umax, .uminn, .umaxn, .useq, .usne, .uslt, .usle, .usltn, .usel, .ubfx] : List (UopFmt → Instr)) ∨
         k ∈ ([.uzx32, .usx32, .ufadd, .ufsub, .ufmul, .uffma, .ufmin, .ufmax, .ufcvti, .uicvtf, .umov, .upick, .uld32, .uld64, .ust32, .ust64, .ujmp, .ubnz, .ubz, .uend, .uout] : List (UopFmt → Instr))) ∧ i = k f) ∨
       ∃ w, i = .refusedWord w) →
     exec i s = .next (takeTrap s h h.f.pred h.f.pc h.f.pc 1 0x001 7 0 none)) ∧
   (∀ (f : UopFmt) (s : State) (u : UHere), UopReady s u → let imm := f.imm.toNat % 128
     exec (.ujmp f) s = .next (uGo s u imm) ∧
     exec (.ubnz f) s = .next (if uCond u f = 0 then uNext s u else uGo s u imm) ∧
     exec (.ubz f) s = .next (if uCond u f = 0 then uGo s u imm else uNext s u) ∧
     exec (.uend f) s = .next (u.h.setFib s fun x => { x with micro := none, pc := x.pc + BitVec.ofNat 64 u.m.len }) ∧
     (isVec u.m.dst = true → exec (.uout f) s = .next (uNext
       (modGroup s u.h.gid fun g => uoutLanes u f (u.h.f.wb * 8 + u.m.dst.toNat) (List.range u.h.g.w) g) u)) ∧
     (isVec u.m.dst = false → exec (.uout f) s = .next (uNext s u))) ∧
   (∀ e ∈ ([(Instr.uld32, 4), (Instr.uld64, 8)] : List ((UopFmt → Instr) × Nat)),
     ∀ (f : UopFmt) (s : State) (u : UHere), let one : Bool := 8 ≤ f.d.toNat && f.d.toNat < 12
       let lanes := if one then [lowest u.act] else laneList u.act
       let r := scanLanes u.h f.sp false true false e.2 (uEa u f) lanes { s := s, oks := [], bads := [], wait := false }
       let reg := fun (l : Nat) => if one then DstReg.hs u.h.fid (f.d.toNat - 8) else DstReg.hv f.d.toNat l
       let dst := fun (l off : Nat) => if f.d = 14 then none else some ({ reg := reg l, off := off, size := e.2, sext := false } : Dst)
       UopReady s u → (one = true → u.act ≠ 0) → r.wait = false → r.bads = [] → rangeBusy s u.h (lanes.map fun l => (f.sp, uEa u f l, e.2)) = false →
       (f.sp = true → exec (e.1 f) s = .next (uNext
         (r.oks.foldl (fun s l => returnData s u.h.gid (dst l.lane 0) (readScratch s u.h.gid l.ea e.2)) r.s) u)) ∧
       (f.sp = false → let t := beforeLoads r.s u.h r.oks
         loadsWait t u.h r.oks = false → exec (e.1 f) s = .next (uNext
           (pushPend t (r.oks.flatMap fun l => laneAccs t u.h l.lane (fun _ => .load) (fun p => dst l.lane p.off) l.parts)) u))) ∧
   (∀ e ∈ ([(Instr.ust32, 4), (Instr.ust64, 8)] : List ((UopFmt → Instr) × Nat)),
     ∀ (f : UopFmt) (s : State) (u : UHere), let lanes := laneList u.act
       let r := scanLanes u.h f.sp false false true e.2 (uEa u f) lanes { s := s, oks := [], bads := [], wait := false }
       let data := fun (l : Nat) => (uSrc u f f.b l).toNat
       UopReady s u → r.wait = false → r.bads = [] → rangeBusy s u.h (lanes.map fun l => (f.sp, uEa u f l, e.2)) = false →
       (f.sp = true → exec (e.1 f) s = .next (uNext
         (r.oks.foldl (fun s l => writeScratch s u.h.gid l.ea (natLE e.2 (data l.lane))) r.s) u)) ∧
       (f.sp = false → writesWait r.s u.h r.oks = false → exec (e.1 f) s = .next (uNext (pushPend r.s (r.oks.flatMap fun l =>
         laneAccs r.s u.h l.lane (fun p => .store (partBytes (data l.lane) p)) (fun _ => none) l.parts)) u))) ∧
   (∀ (w : W64) (s : State) (u : UHere), UopReady s u →
     exec (.refusedWord w) s = .next (takeTrap s u.h u.h.f.pred u.h.f.pc u.h.f.pc 1 0x001 0x0A 0 (some u.m))) ∧
   ∀ (sub len msk : Nat) (s : State) (h : Here), s.here = some h →
     exec (.reservedMajor sub len msk) s = .next (raise s h (h.act msk) len 0x001 sub 0)) ∧
  (∀ (f : XOFmt) (s : State) (h : Here), let e := SMap.get h.c.tabs.bind f.xi.toNat
     (bindV e = true → Able s h (xoCauses f) true (xopNamed h f) → hiddenDue s h.gid = false → exec (.xop f) s = .next
       (modGroup s h.gid fun g => modFibre (xopHvs h f g) h.fid fun x => { x with
         micro := some { xmask := h.g.maskOf (mskOf f.pfx), bser := bindSer e, xi := f.xi.toNat, zro := zroOf f.pfx, upc := 0, dst := f.a,
                         len := lenOf f.pfx }
         hs := xopHs h f })) ∧
     (bindV e = false → s.here = some h → ∀ k, minCause (xoCauses f ++ [7]) = some k →
       exec (.xop f) s = .next (raise s h (h.act (mskOf f.pfx)) (lenOf f.pfx) 0x001 k 0)))

/-! Mailboxes and their commands (R386 to R396). -/

/-- R386 to R390. A read of MBSEM takes a free semaphore, GOT telling whether it did, REL gives it up, a write of MBARG by its holder changes the argument and by another sets VIOL,
which a write of 1 clears; a command of another port, or while one is under way, sets VIOL and has no effect; during a patch activation every
command but STATUS ends with result 5, of a function that may not issue it with 2, and an unknown one with 9; STATUS answers full service,
the record's validity and the patch. That 5 comes before 2 and 2 before a look at the arguments is the model's reading (log 93). -/
def Obligations.MailboxProtocol : Prop :=
  (∀ (s : State) (fn port : Nat), fnOk s fn = true → portUp s port = true →
    ((boxOf s fn).held = none → exec (.mbsemRead fn port) s = .next (modBox s fn fun b => { b with held := some port, got := true })) ∧
    (∀ p, (boxOf s fn).held = some p → exec (.mbsemRead fn port) s = .next (modBox s fn fun b => { b with got := false })) ∧
    ((boxOf s fn).held = some port → exec (.mbsemRel fn port) s = .next (modBox s fn fun b => { b with held := none })) ∧
    ((boxOf s fn).held ≠ some port → exec (.mbsemRel fn port) s = .next s) ∧
    exec (.mbstatViolClear fn) s = .next (modBox s fn fun b => { b with viol := false }) ∧
    ∀ (off : Nat) (v : W64), 0x40 ≤ off → off ≤ 0xF8 →
      ((boxOf s fn).held = some port → exec (.registerWrite fn port off v) s =
        .next (modBox s fn fun b => { b with arg := SMap.setList b.arg (off - 0x40) (natLE 8 v.toNat) })) ∧
      ((boxOf s fn).held ≠ some port → exec (.registerWrite fn port off v) s = .next (modBox s fn fun b => { b with viol := true }))) ∧
  (∀ (s : State) (h : MbHdr) (status issuer : Bool) (k : State → CmdRes), fnOk s h.fn = true → portUp s h.port = true →
    (((boxOf s h.fn).held ≠ some h.port ∨ (boxOf s h.fn).busy = true) →
      command h status issuer k s = .next (modBox s h.fn fun b => { b with viol := true })) ∧
    ((boxOf s h.fn).held = some h.port → (boxOf s h.fn).busy = false → s.sys.activating.isSome = true →
      command h false issuer k s = ends h 5 (s.busyFor h) []) ∧
    (BoxReady s h → command h status false k s = ends h 2 (s.busyFor h) [])) ∧
  ∀ (s : State) (h : MbHdr),
    (BoxReady s h → ∀ code, exec (.unknownCommand h code) s = ends h 9 (s.busyFor h) []) ∧
    (fnOk s h.fn = true → portUp s h.port = true → (boxOf s h.fn).held = some h.port → (boxOf s h.fn).busy = false →
      exec (.status h) s = ends h 0 (s.busyFor h)
        [ans ((if s.full then 1 else 0) + (if s.sys.cfg.isSome then 2 else 0) + (match s.sys.patch with | some p => p.1 | none => 0) % 256 * 256)])

/-- R14, R219, R220, R227, R237, R242, R388, R393. Commands on VFs, queue slots, dependence counters and contexts, their mailbox ready, their issuer and
arguments legal, have their effect and end with result 0, but CTX_SWITCH to phase 1, which starts the ladder and ends with it. CTX_SWITCH to phase 2
only makes the context current (the model's reading, log 82); CTX_DESTROY cancels the context's jobs at once, and ends when nothing of it is under way, and
CTX_CREATE waits while a frame of the save area is used by an engine (waiting commands are taken up later, the model's choice, log 107); no context is
made in a world that a hot reset sealed. -/
def Obligations.ContextCommands : Prop :=
  ∀ (s : State) (h : MbHdr), BoxReady s h → let b := s.busyFor h
    (∀ n, h.fn = 0 → s.full = true → 1 ≤ n → n ≤ 16 → exec (.vfEnable h n) s = ends h 0 (shareCores (enableVfs b n) 0) []) ∧
    (∀ q, h.fn = 0 → quotaFits q = true →
      let t := setVf b q.vf fun v => { v with qs := q.qs, qd := q.qd, cores := q.cores, sliceNs := 1000 * q.sliceUs, drainUs := q.drainUs,
                                              coopClk := q.coopClk, preemptUs := q.preemptUs }
      exec (.vfQuota h q) s = ends h 0 (shareCores (resizeCtxs (vfCtxs t q.vf) t) q.vf) []) ∧
    (∀ q c, Tbl.get? s.ctxs q.ctx = some c → (h.fn = 0 ∨ c.vf = h.fn) → q.slot ≤ 1023 → q.rbase.toNat % 4096 = 0 → 4 ≤ q.log2n →
      q.log2n ≤ 15 → q.pri ≤ 3 → (slotOf s q.slot).st = 0 → (c.vf = 0 ∨ slotsHeldBy s c.vf < (vfOf s c.vf).qs) →
      exec (.slotAssign h q) s = ends h 0 (modSlot b q.slot fun _ =>
        { rbase := q.rbase, tail := 0, head := 0, log2n := q.log2n, pri := q.pri, vf := c.vf, ctx := q.ctx, err := 0, st := 1, wake := 0, last := none }) []) ∧
    (∀ n, (h.fn = 0 ∨ (slotOf s n).vf = h.fn) → n ≤ 1023 → (slotOf s n).st = 3 → exec (.slotRestart h n) s =
      ends h 0 (checkWake (retakeItems (modSlot b n fun q => { q with st := if waitsOnWake s n then 2 else 1, err := 0 }) n) n) []) ∧
    (∀ n, (h.fn = 0 ∨ (slotOf s n).vf = h.fn) → n ≤ 1023 → (slotOf s n).st ≠ 0 → recsOf s n = [] → exec (.slotFree h n) s =
      ends h 0 (modSlot b n fun q => { QSlot.reset with wake := q.wake }) []) ∧
    (∀ n vf, h.fn = 0 → n ≤ 4095 → vf ≤ 16 → SMap.get s.depcVf n = 0 → (vf = 0 ∨ depcHeldBy s vf < (vfOf s vf).qd) →
      exec (.depcAssign h n vf) s = ends h 0 { b with depcVf := SMap.set b.depcVf n (BitVec.ofNat 16 (vf + 1)) } []) ∧
    (∀ n, (h.fn = 0 ∨ (SMap.get s.depcVf n).toNat = h.fn + 1) → n ≤ 4095 → SMap.get s.depcVf n ≠ 0 →
      exec (.depcReset h n) s = ends h 0 { b with depc := SMap.set b.depc n 0 } []) ∧
    (∀ q, (h.fn = 0 ∨ (h.fn = q.vf ∧ oidElsewhere s h.fn q.oid = false)) → ctxFits s q = true → worldOfVf s q.vf q.world = true →
      (worldSealed s q.world = true → exec (.ctxCreate h q) s = ends h 3 b []) ∧
      (worldSealed s q.world = false → freeCtx s ≤ 4095 →
        (∀ t, clearFrames b (saveFrames b (newCtx q)) = some t → exec (.ctxCreate h q) s =
          ends h 0 (zeroImages { t with
              ctxs := Tbl.set t.ctxs (freeCtx t) (newCtx q), sys := { t.sys with ended := Tbl.erase t.sys.ended (freeCtx t) } } (freeCtx t) (newCtx q))
            [BitVec.ofNat 64 (freeCtx s)]) ∧
        (clearFrames b (saveFrames b (newCtx q)) = none → exec (.ctxCreate h q) s = .next s))) ∧
    (∀ q, h.fn ≠ 0 → oidElsewhere s h.fn q.oid = true → exec (.ctxCreate h q) s = ends h 2 b []) ∧
    (∀ n c, Tbl.get? s.ctxs n = some c → (h.fn = 0 ∨ c.vf = h.fn) →
      (let u := endContext b n;
        (∀ t, freeEnded u n = some t → exec (.ctxDestroy h n) s = ends h 0 t []) ∧
        (freeEnded u n = none → exec (.ctxDestroy h n) s = .next (modBox u h.fn fun _ => boxOf s h.fn))) ∧
      (c.current = true → underLadder s n c (fun _ => true) = false →
        exec (.ctxSwitch h n 1) s = .next (startLadder b (.ctx n) none (.switch h.fn))) ∧
      exec (.ctxSwitch h n 2) s = ends h 0 (modCtx b n fun c => { c with current := true }) [] ∧
      exec (.ctxStat h n) s = ends h 0 b
        ([c.counts.dropc, c.counts.job] ++ if h.fn = 0 then (List.range 20).map fun d => (dispSt s d).dropd else []) ∧
      (∀ tbase : W64, tbase.toNat % 4096 = 0 → exec (.ctxRoot h n tbase) s = ends h 0
        (modCtx (dropTlb (settle b fun a => a.ctx == n) fun e => e.ctx == n) n fun c => { c with tbase := tbase }) []) ∧
      (c.held = true → c.world = 0 → exec (.ctxResume h n) s = ends h 0 (modCtx b n fun c => { c with held := false }) []) ∧
      exec (.evqRead h n) s = ends h 0 (modCtx b n fun c => { c with queues := { c.queues with evq := c.queues.evq.drop 6, lost := 0 } })
        ((c.queues.evq.take 6).flatMap EvRec.words ++ [BitVec.ofNat 64 c.queues.lost.toNat])) ∧
    ∀ tgt, h.fn = 0 → targetThere s tgt = true → let r := match tgt with | .vf n => rollback b n | .ctx _ => b
      r.sys.ladders.any (fun l => l.tgt == tgt) = false → exec (.preempt h tgt) s = ends h 0 (startLadder r tgt none .none) []

/-- R275 to R281. Commands on translations, frames and dirty bitmaps: as for contexts; TLB_INV, FRM_FREE and POT_SET wait while an engine operation or an
access already translated uses a translation that they remove (the model's readings, logs 36 and 118); a command that waits changes nothing and is taken
up later (the model's choice, log 107). -/
def Obligations.FrameCommands : Prop :=
  ∀ (s : State) (h : MbHdr), BoxReady s h → let b := s.busyFor h
    (∀ n lo hi, (h.fn = 0 ∨ h.fn = n) → n ≤ 16 → lo % 32768 = 0 → hi % 32768 = 0 → lo ≤ hi →
      (∀ t, invalidate b (.vf n) lo hi = some t → exec (.tlbInv h (.vf n) lo hi) s = ends h 0 t []) ∧
      (invalidate b (.vf n) lo hi = none → exec (.tlbInv h (.vf n) lo hi) s = .next s)) ∧
    (∀ n c lo hi, Tbl.get? s.ctxs n = some c → (h.fn = 0 ∨ c.vf = h.fn) → lo % 32768 = 0 → hi % 32768 = 0 → lo ≤ hi →
      ∀ t, invalidate b (.ctx n) lo hi = some t → exec (.tlbInv h (.ctx n) lo hi) s = ends h 0 t []) ∧
    (∀ vf vpa size world t, (h.fn = 0 ∨ h.fn = vf) → 1 ≤ vf → vf ≤ 16 → frameRange vpa size = true → world ≤ 62 → worldOfVf s vf world = true →
      (vpaFrames vpa size).any (fun f => (frameEntry s vf f).1 != 0) = false → (vfOf s vf).hf.toNat + size / 32768 ≤ (vfOf s vf).bf.toNat →
      allotFrames vf world (vpaFrames vpa size) b = .done t [] → exec (.frmAllot h vf vpa size world) s = ends h 0 t []) ∧
    (∀ vf vpa size, (h.fn = 0 ∨ h.fn = vf) → 1 ≤ vf → vf ≤ 16 → frameRange vpa size = true →
      (vpaFrames vpa size).any (fun f => (frameEntry s vf f).1 != 1 && (frameEntry s vf f).1 != 3) = false →
      (∀ t, clearFrames b (residentFrames s vf (vpaFrames vpa size)) = some t →
        exec (.frmFree h vf vpa size) s = ends h 0 (freeVfFrames vf (vpaFrames vpa size) t) []) ∧
      (clearFrames b (residentFrames s vf (vpaFrames vpa size)) = none → exec (.frmFree h vf vpa size) s = .next s)) ∧
    (∀ vf gf bf base size, h.fn = 0 → 1 ≤ vf → vf ≤ 16 → gf ≤ bf → bf < 2 ^ 32 → otherGf s vf + gf ≤ frameCount s →
      exec (.frmQuota h vf gf bf base size) s =
        ends h 0 (setVf b vf fun v => { v with gf := BitVec.ofNat 32 gf, bf := BitVec.ofNat 32 bf, back := some (base, size) }) []) ∧
    (∀ pa size vf world state, h.fn = 0 → frameRange pa size = true → vf ≤ 16 → world ≤ 63 → state ≤ 3 →
      (vpaFrames pa size).any (fun p => decide (frameCount s ≤ p)) = false →
      (vpaFrames pa size).any (fun p => (potEntry s p).state == 2) = false →
      (∀ t, clearFrames b (vpaFrames pa size) = some t → exec (.potSet h pa size vf world state) s =
        ends h 0 (setPots { vf := vf, state := state, world := world } (vpaFrames pa size) t) []) ∧
      (clearFrames b (vpaFrames pa size) = none → exec (.potSet h pa size vf world state) s = .next s)) ∧
    (∀ vf x y en, h.fn = 0 → vf ≤ 16 → x % 64 = 0 → y % 64 = 0 → exec (.dirtyBase h vf x y en) s =
      ends h 0 (setVf b vf fun v => { v with dirtyA := x, dirtyB := y, dirtyEn := en }) []) ∧
    ∀ vf, h.fn = 0 → vf ≤ 16 → (vfOf s vf).dirtyEn = true → exec (.dirtySwap h vf) s = ends h 0 (setVf b vf fun v => { v with activeB := !v.activeB })
      [BitVec.ofNat 64 (if (vfOf s vf).activeB then (vfOf s vf).dirtyB else (vfOf s vf).dirtyA)]

/-- R284 to R300. Commands on displays, surfaces, consent and present queues: as for contexts; the lowest free number is taken and answered; a grant
covers no generation before the next, and a withdrawal keeps the one in progress. -/
def Obligations.DisplayCommands : Prop :=
  ∀ (s : State) (h : MbHdr), BoxReady s h → let b := s.busyFor h
    let pix := fun (f : Pix → Pix) => { b with pix := f b.pix }
    (∀ q, h.fn = 0 → q.disp ≤ 19 → 64 ≤ q.w → q.w ≤ 8192 → 64 ≤ q.h → q.h ≤ 8192 → timingFits q = true → (s.full = true ∨ q.disp = 0) →
      hasOutput s q.disp = false →
      ∃ x, (match q.timing with | .period ns => x = s.time + ns | .mode pclk ht vt => s.time ≤ x ∧ x ≤ s.time + ht * vt * 1000000 / pclk) ∧
      exec (.dispCfg h q) s = ends h 0 { pix fun y => { y with disps := Tbl.set y.disps q.disp (configured (dispSt s q.disp) q x) } with
        freeCtr := match q.timing with | .period _ => s.freeCtr | .mode .. => s.freeCtr + 1 } []) ∧
    (∀ q d c, h.fn = 0 → (dispSt s d).cfg = some c → q.x0 ≤ q.x1 → q.y0 ≤ q.y1 → q.x1 < c.w → q.y1 < c.h → q.word.toNat / 2 ^ 12 % 4 = 0 →
      exec (.pomWrite h q d) s = ends h 0 (pix fun x => { x with disps := Tbl.modify x.disps d fun y => { y with staged := y.staged ++ [q] } }) []) ∧
    (∀ q t, (h.fn = 0 ∨ (q.vf = h.fn ∧ q.kind ≠ 3 ∧ ownOid s h.fn q.oid = true)) → surfFits q = true →
      (q.kind = 3 → coversDisplay s q = true ∧ hasOutput s q.disp = false) → freeSid s ≤ 4094 → clearFrames b (surfPhys s q) = some t →
      exec (.surfReg h q) s = ends h 0 { t with pix := { t.pix with surfs := Tbl.set t.pix.surfs (freeSid t) { a := q, fn := h.fn } } }
        [BitVec.ofNat 64 (freeSid t)]) ∧
    (∀ n sf t, Tbl.get? s.pix.surfs n = some sf → sf.fn = h.fn → surfLatched b n = false → clearFrames b (surfPhys s sf.a) = some t →
      exec (.surfFree h n) s = ends h 0 (refusePres n t.pix.pqs { t with pix := { t.pix with surfs := Tbl.erase t.pix.surfs n } }) []) ∧
    (∀ oid v, ownOid s h.fn oid = true →
      exec (.rvalSet h oid v) s = ends h 0 (if 4094 < oid then b else pix fun x => { x with rvals := Tbl.set x.rvals oid v }) []) ∧
    (∀ q, ownOid s h.fn q.gtr = true → grantFits q = true → freeCt s ≤ 4095 →
      let a : GrantArgs := { q with first := BitVec.ofNat 64 (max q.first.toNat (genOf s q.disp + 1)) }
      exec (.ctGrant h q) s = ends h 0 (pix fun x => { x with cts := Tbl.set x.cts (freeCt s) { a := a, fn := h.fn } })
        [BitVec.ofNat 64 (freeCt s)]) ∧
    (∀ n e, Tbl.get? s.pix.cts n = some e → e.fn = h.fn → ownOid s h.fn e.a.gtr = true → exec (.ctWithdraw h n) s =
      ends h 0 (pix fun x => { x with cts := Tbl.modify x.cts n fun y =>
        { y with a := { y.a with last := BitVec.ofNat 64 (min y.a.last.toNat (genOf s y.a.disp)) } } }) []) ∧
    (∀ q c, Tbl.get? s.ctxs q.ctx = some c → (h.fn = 0 ∨ (ownOid s h.fn q.oid = true ∧ c.vf = h.fn)) → pqFits q = true → freePq s ≤ 255 →
      exec (.pqCreate h q) s = ends h 0 (pix fun x => { x with pqs := Tbl.set x.pqs (freePq s) (newPq q h.fn) }) [BitVec.ofNat 64 (freePq s)]) ∧
    ∀ n q, Tbl.get? s.pix.pqs n = some q → ownOid s h.fn q.a.oid = true →
      exec (.pqFree h n) s = ends h 0 (pix fun x => { x with pqs := Tbl.erase x.pqs n }) []

/-- R203, R322, R336, R358, R359, R384, R385, R390, R392, R394 to R396. The other commands: as for contexts; what comes from outside the machine (an
image's digest, a migration's image) is whatever it is. A migration's image that could not be one is refused with result 3 (the model's choice, log 100);
MASH_RESET takes no time (log 52); the FLL moves from the frequency of the moment (log 97); an injection register of an array whose writes the model does
not follow may have stored an error meanwhile (log 154). -/
def Obligations.DeviceCommands : Prop :=
  ∀ (s : State) (h : MbHdr), BoxReady s h → let b := s.busyFor h
    (∀ (vf : Nat) (set rel : Half), h.fn = 0 → vf ≤ 16 →
      (List.range 16).any (fun u => set.getLsbD u && !rel.getLsbD u && (match unitVf s (256 * u) with | some v => v != vf | none => false)) = false →
      exec (.wcsAssign h vf set rel) s = ends h 0 ((List.range 16).foldl (fun s u => assignUnit s vf set u) b) []) ∧
    (∀ n c, Tbl.get? s.ctxs n = some c → (h.fn = 0 ∨ c.vf = h.fn) →
      (∀ q x y l, q.seqBytes % 8 = 0 → q.bindBytes % 8 = 0 → cmdRead b n c q.seqVa.toNat q.seqBytes = .ok x →
        cmdRead b n c q.bindVa.toNat q.bindBytes = .ok y → parseSeqs 0 0 (wordsOf (q.seqBytes / 8) x) (q.seqBytes / 8 + 1) = .ok l →
        let img := loadImage (touchReads b n c [(q.seqVa.toNat, q.seqBytes), (q.bindVa.toNat, q.bindBytes)]) n c l (wordsOf (q.bindBytes / 8) y) false
        (∀ t, img = .done t [] → exec (.xopLoad h n q) s = ends h 0 t []) ∧ ∀ r a, img = .tell r a → exec (.xopLoad h n q) s = ends h r b a) ∧
      exec (.xopQuery h n) s = ends h 0 b
        (((List.range 32).map fun i => SMap.get c.tabs.bind i) ++ [BitVec.ofNat 64 ((unitsOfVf s c.vf).foldl (fun n u => n + 2 ^ u) 0)]) ∧
      (∀ q, q.ctx = n → q.peers ≠ [] → noRepeats q.peers = true → q.va.toNat % 4 = 0 →
        q.peers.any (fun p => p != fabId s && !(s.sys.links.any fun e => e.2 == p)) = false →
        exec (.collPost h q) s = ends h 0 { b with sys := { b.sys with colls := b.sys.colls ++ [{ ctx := n, a := q, id := s.steps, sent := false }] } } [])) ∧
    (h.fn = 0 →
      (∀ n, n ≤ 47 → exec (.mashReset h n) s = ends h 0 (engineReset b n) []) ∧
      (∀ n mhz, s.full = true → n ≤ 11 → 400 ≤ mhz → mhz ≤ 2400 → mhz % 25 = 0 → mhz ≤ fmax s (clusterSt s n).mv →
        exec (.clkSet h n mhz) s = ends h 0
          (modCluster b n fun c => { c with mhz := mhz, mhzFrom := presentMhz s n, mhzAt := s.time }) []) ∧
      (∀ n mv v, n ≤ 11 → 550 ≤ mv → mv ≤ 1050 → mv % 5 = 0 → vmin s (max (presentMhz s n) (clusterSt s n).mhz) = some v → v ≤ mv →
        exec (.ldoSet h n mv) s = ends h 0 (modCluster b n fun c => { c with mv := mv }) []) ∧
      (∀ n cap ramp, n ≤ 11 → 16 ≤ cap → cap ≤ 255 → ramp.length = 8 →
        ramp.any (fun r => decide (r.1 < 1) || decide (255 < r.1) || decide (r.2 < 1) || decide (255 < r.2)) = false →
        exec (.kilnSet h n cap ramp) s = ends h 0 (modCluster b n fun c => { c with kset := some (cap, ramp) }) []) ∧
      (∀ n, n ≤ 11 → exec (.thermQuery h n) s = ends h 0 b [BitVec.ofNat 64 (clusterSt s n).temp,
          BitVec.ofNat 64 ((if (clusterSt s n).hot then 1 else 0) + if (clusterSt s n).deny then 2 else 0)] ∧
        exec (.pwrStat h n) s = ends h 0 b
          [BitVec.ofNat 64 (kilnWord (clusterSt s n)), BitVec.ofNat 64 (clusterSt s n).mhz, BitVec.ofNat 64 (clusterSt s n).mv]) ∧
      (∀ a (w : BitVec 128), s.full = true → (cfgNat s 32 2).getD 0 % 2 = 1 → a ≤ 15 → w.toNat / 2 ^ 50 % 2 ^ 14 = 0 →
        w.toNat / 2 ^ 16 % 2 ^ 24 = 0 → modeFits a (w.toNat / 2 ^ 48 % 4) = true →
        (w.toNat / 2 ^ 48 % 4 = 0 ∨ w.toNat / 2 ^ 40 % 256 ≠ 0) → w.toNat % 256 < wordBits a →
        (w.toNat / 2 ^ 48 % 4 ≠ 2 ∨ w.toNat / 256 % 256 < wordBits a) → protectedTarget s a (w.toNat / 2 ^ 64) = false →
        ∃ l, (a ≤ 1 → l = (ringOf s a).planted) ∧
          exec (.errInject h a w) s = ends h 0 { b with errs := Tbl.set b.errs a { ringOf s a with inject := w, planted := l } } []) ∧
      (∀ addr size, s.full = true → exec (.patchStage h addr size) s =
        (match Config.patchSvn (readPhys s.mem .host addr size), cfgNat s 28 4 with
         | some n, some least =>
           if n < least then ends h 8 b [] else ends h 0 { b with sys := { b.sys with staged := some (n, readPhys s.mem .host addr size) } } []
         | _, _ => ends h 8 b [])) ∧
      (s.sys.staged.isSome = true → ∃ t, t ≤ s.time + 10000000 ∧ exec (.patchActivate h) s =
        .next { b with freeCtr := s.freeCtr + 1, sys := { b.sys with activating := some (h.fn, t) } }) ∧
      (∀ link peer, link ≤ 5 → peer ≤ 255 →
        exec (.fabMap h link peer) s = ends h 0 { b with sys := { b.sys with links := Tbl.set b.sys.links link peer } } []) ∧
      (∀ vf peer, 1 ≤ vf → vf ≤ 16 → s.sys.links.any (fun e => e.2 == peer) = true → (vfOf s vf).enabled = true →
        Tbl.get? s.sys.migs vf = none → s.sys.ladders.any (fun l => l.tgt == .vf vf) = false →
        let r := sendFrames (rollback b vf) vf ((vfFrames b vf).map (·.1)) []
        exec (.migOut h vf peer) s = .next (startLadder r.2 (.vf vf) none (.migrate h.fn peer r.1))) ∧
      (∀ ticket, let b1 := { b with freeCtr := s.freeCtr + 1 }
        exec (.migIn h ticket) s = (match migImage ticket s.freeCtr with
          | none => ends h 8 b []
          | some m =>
            if imageSound b1 m = true ∧ (vfOf s m.vf).enabled = true then
              (match installVf b1 m with | some t => ends h 0 (startSlices t m.vf) [BitVec.ofNat 64 m.vf] | none => ends h 4 b [])
            else ends h 3 b [])) ∧
      ∀ vf m, Tbl.get? s.sys.migs vf = some m →
        exec (.migStat h vf) s = if m.done = some true then ends h 0 (freeVf (dropMig b vf) vf) [1] else ends h 0 b [0]) ∧
    (∀ a i e, (ringOf s a).entries[i]? = some e → (h.fn = 0 ∨ (e.vf = h.fn ∧ e.ctx.isSome = true)) →
      exec (.errLog h a i) s = ends h 0 b (errWords a e h.fn ++ [BitVec.ofNat 64 (ringOf s a).lost])) ∧
    (sessionVf s h = true →
      (freeWorld s ≤ 62 → ∃ x y : W64, exec (.worldNew h) s = ends h 0 { b with
          freeCtr := s.freeCtr + 2
          sys := { b.sys with worlds := Tbl.set b.sys.worlds (freeWorld s) { vf := h.fn, token := y ++ x, fails := 0, sealed := false } } }
        [BitVec.ofNat 64 (freeWorld s), x, y]) ∧
      ∀ w x, Tbl.get? s.sys.worlds w = some x → x.vf = h.fn →
        (∀ key k, key ≤ 255 → exec (.sealKey h w key k) s = ends h 0 { b with sealKeys := Tbl.set b.sealKeys (w * 256 + key) k } []) ∧
        (∀ token, exec (.worldUnseal h w token) s =
          if x.token = token then ends h 0 (unsealed b w x) [] else ends h 8 (wrongToken b w x) []) ∧
        (s.ctxs.any (fun e => e.2.world == w) = false → s.tables.pot.any (fun e => e.2.world == w && e.2.state != 0) = false →
          exec (.worldFree h w) s = ends h 0 (dropWorld b w) []))

/-- R390, R392. The SPDM responder of a function that is there answers each request that it supports with its response at the connection's stage, inside
a session where one is needed, and any other with ERROR UnsupportedRequest; GET_VERSION starts the connection afresh; KEY_EXCHANGE opens a session,
FINISH establishes it and END_SESSION ends it; before their stage a request answers ERROR. The capabilities are certificates, challenges, measurements,
encryption, authentication, key exchange, heartbeats and key updates, with no mutual authentication and no pre-shared keys, and the algorithms are the one
set of R392, in the bits that DSP0274 gives them (presumed, log 23). -/
def Obligations.SpdmRequests : Prop :=
  ∀ (s : State) (fn : Nat) (q : SpdmReq), fnOk s fn = true → s.sys.activating = none → let r := spdmOf s fn
    let free := { s with freeCtr := s.freeCtr + 1 }
    exec (.getVersion fn q) s = .next (spdmResp (modSpdm s fn fun _ => { Spdm.reset with conn := 1 }) fn 0x04 0 0 [0x1200]) ∧
    (1 ≤ r.conn → ∃ w : W64, w &&& 0x6FC6 = 0x62C6 ∧ (w &&& 0x18 = 0x8 ∨ w &&& 0x18 = 0x10) ∧ w &&& 0xFFFFFFFF00000000 = 0 ∧ exec (.getCapabilities fn q) s =
      .next (spdmResp (modSpdm free fn fun r => { r with conn := max r.conn 2 }) fn 0x61 0 0 [w])) ∧
    (2 ≤ r.conn → exec (.negotiateAlgorithms fn q) s =
      .next (spdmResp (modSpdm s fn fun r => { r with conn := 3 }) fn 0x63 0 0 [0x4, 0x4, 0x2, 0x10, 0x2])) ∧
    (3 ≤ r.conn → (∃ w, exec (.getDigests fn q) s = .next (spdmResp free fn 0x01 0 1 [w])) ∧
      (q.param1 = 0 → (∃ w, exec (.getCertificate fn q) s = .next (spdmResp free fn 0x02 0 0 [w])) ∧
        ∃ w, exec (.challenge fn q) s = .next (spdmResp free fn 0x03 0 1 [w])) ∧
      (q.param2 = 0 → exec (.getMeasurements fn q) s = .next (spdmResp s fn 0x60 6 0 [])) ∧
      (∀ i, q.param2.toNat = i → 1 ≤ i → i ≤ 6 → exec (.getMeasurements fn q) s = .next (spdmResp s fn 0x60 0 0 (measurement s fn i))) ∧
      ∃ id, id % 2 ^ 16 = leNat (q.data.take 2) ∧ exec (.keyExchange fn q) s =
        .next (spdmResp (modSpdm free fn fun r => { r with opening := r.opening ++ [id] }) fn 0x64 0 0 [BitVec.ofNat 64 id])) ∧
    (r.conn < 3 → exec (.getDigests fn q) s = .next (spdmResp s fn 0x7F 4 0 []) ∧
      exec (.getMeasurements fn q) s = .next (spdmResp s fn 0x7F 4 0 [])) ∧
    (∀ n, q.session = some n →
      (r.opening.contains n = true → exec (.finish fn q) s = .next (spdmResp
        (modSpdm s fn fun r => { r with opening := r.opening.filter (· != n), sessions := r.sessions ++ [n] }) fn 0x65 0 0 [])) ∧
      (r.sessions.contains n = true → exec (.heartbeat fn q) s = .next (spdmResp s fn 0x68 0 0 []) ∧
        exec (.keyUpdate fn q) s = .next (spdmResp s fn 0x69 q.param1.toNat q.param2.toNat []) ∧
        exec (.endSession fn q) s = .next (spdmResp
          (modSpdm s fn fun r => { r with sessions := r.sessions.filter (· != n) }) fn 0x6C 0 0 []))) ∧
    exec (.unsupportedRequest fn q) s = .next (spdmResp s fn 0x7F 0x07 q.code.toNat [])

/-! The events of the machine (R11 to R14, R219 to R256, R276, R351 to R363, R383, R391 to R396). -/

/-- R11, R13, R149, R152, R173, R219 to R235, R249. What happens of itself in front of the cores, where it may: a doorbell sets TAIL, and stops a slot
with more records than its ring holds; a record is taken, or refused, and begins; a cluster's front-end fires the point offered first whose block fits;
saved blocks are placed again; a ready group enters a free active slot, first of its partition, its latches invalid; claims that can never be met
fault; points and launches retire and deterministic sums are committed; handlers start; signals and event records arrive. The model chooses: a
handler's cluster by a free number (log 79), the order of a front-end's launches within a slot (log 76), and what ORD waits for where the record
before was cancelled unbegun (log 151). -/
def Obligations.FrontEndEvents : Prop :=
  ∀ (s : State),
    (∀ n tail, (slotOf s n).st ≠ 0 → let t := modSlot s n fun q => { q with tail := BitVec.ofNat 16 tail }
      ((slotOf t n).avail ≤ 2 ^ (slotOf t n).log2n → exec (.queueDoorbell n tail) s = .next t) ∧
      (2 ^ (slotOf t n).log2n < (slotOf t n).avail → exec (.queueDoorbell n tail) s = .next (refuseSlot t n 9))) ∧
    (∀ n c, let q := slotOf s n
      Tbl.get? s.ctxs q.ctx = some c → q.st = 1 → c.stopped = false → c.held = false → q.avail ≠ 0 →
      (recsOf s n).any (fun e => !e.2.begun) = false → headNeed s q c ≤ q.avail →
      (∀ r k, takeRecord s n q q.ctx c = .ok (r, k) → let t := touchReads s q.ctx c (r.reads q k)
        exec (.recordTake n) s = .next { modSlot t n (fun q => { q with head := q.head + BitVec.ofNat 16 k }) with
          recs := Tbl.set t.recs t.nextRec r, nextRec := t.nextRec + 1 }) ∧
      (∀ e, takeRecord s n q q.ctx c = .refuse e → exec (.recordTake n) s =
        .next (refuseSlot (touchReads s q.ctx c [(q.rbase.toNat + 128 * (q.head.toNat % 2 ^ q.log2n), 128)]) n e))) ∧
    (∀ n rid r c, (recsOf s n).find? (fun e => !e.2.begun) = some (rid, r) → Tbl.get? s.ctxs (slotOf s n).ctx = some c →
      mayBegin s n r = true → exec (.recordBegin n) s = .next (beginBody s n rid (slotOf s n).ctx c r)) ∧
    (∀ n lid l rest c, n < 12 → tryList s n = (lid, l) :: rest → Tbl.get? s.ctxs l.ctx = some c →
      (∀ rank t u cores ps, l.tiled = false → nextPoint s l = some (rank, t) → entryOk s l = true →
        bestCores s c n (launchCores s c l) l.desc.kr.foot = some (cores, ps) → readyPoint t lid l rank = some u →
        exec (.pointFire n) s = .next (fireAt u n lid l c rank cores ps)) ∧
      (l.tiled = true → let fits := (tileOffers s n l c).filter fun t => (tileFit s l c t).isSome
        fits ≠ [] → ∃ t core ps, t ∈ fits ∧ tileFit s l c t = some (core, ps) ∧
          exec (.pointFire n) s = .next (fireTile { s with freeCtr := s.freeCtr + 1 } n lid l c t core ps))) ∧
    (∀ n b c t, Tbl.get? s.blocks n = some b → Tbl.get? s.ctxs b.ctx = some c → b.saved = true → mayStart s b.ctx c = true →
      restoreBlock s n b c = some t → exec (.blockRestorePlace n) s = .next t) ∧
    (∀ gid g k, Tbl.get? s.groups gid = some g → freeActive s g.place.core g.place.part = some k → slotReady s (gid, g) = true →
      (residents s g.place.core).all (fun e => !(e.2.place.part == g.place.part && slotReady s e) || entersFirst (gid, g) e) = true →
      let g' := { g with place := { g.place with slot := some k }, regs := { g.regs with ring := [] } }
      exec (.activeSlotEntry gid) s = .next { modGroup s gid (fun _ => switchPoint g' none) with ready := s.ready ++ [gid] }) ∧
    (∀ n b, Tbl.get? s.blocks n = some b →
      (claimDead s n b = true → exec (.claimDeadlock n) s = .next
        ((blockCores s b).foldl grantHead (failClaims s ((groupsOf s n).filter fun e => claims e.2)))) ∧
      (b.saved = false → groupsOf s n = [] → blockDue s n = false →
        (∀ lid rank, b.of = .point lid rank → rowReady s lid rank = true → exec (.pointRetire n) s = .next (pointOver (dropBlock s n) lid rank)) ∧
        (b.of = .handler → exec (.pointRetire n) s = .next (dropBlock s n)) ∧
        (∀ pid i t, b.of = .pass pid i t → exec (.pointRetire n) s = .next (finishCancelled (dropBlock s n) pid)))) ∧
    (∀ lid l, Tbl.get? s.launches lid = some l →
      (l.st = .running → l.allRetired = true → commitWaits s = false → l.log.any (targetHeld s l.ctx) = false →
        ackRoom s l.ctx (l.log.filter fun c => c.peer.isSome).length = true → let log := sortLog l.log
        exec (.detCommit lid) s = .next (modLaunch (commitAll s l.ctx lid log log []) lid fun l =>
          { l with st := .committed, log := [], status := if log.any (conflicts log) then .conflict else l.status })) ∧
      (l.st = .committed → inFlight s (fun a => a.gid == launchGid lid) = false →
        exec (.launchRetire lid) s = .next (retireLaunch s lid l.status l.tails l.chain))) ∧
    (∀ cid c k r rest cores ps, Tbl.get? s.ctxs cid = some c → c.handler = some k → c.queues.trapq = r :: rest → inService s cid < 4 →
      mayFinish s cid c = true → recordDue s r = false → let f := freshNat s
      handlerFit f.2 c (HandlerKernel.foot k) ((List.range 12).map fun n => (n + f.1) % 12) = some (cores, ps) →
      let t := modCtx f.2 cid fun c => { c with queues := { c.queues with trapq := rest } }
      exec (.handlerEntry cid) s = .next (startBlock t (newBlock cid .handler r.pt r.slot (HandlerKernel.foot k) (logicalOf c cores)) cores ps
        fun _ pl => { newGroup k.width k.vregs k.entry (lanesOf k.width) [r.handle, r.cause, r.pc, r.addr] pl t.steps with handler := some r })) ∧
    (∀ k gid cid slot v, s.mem.pend[k]? = some (.signal gid cid slot v) → earlierDue s k gid = false → let t := dropPend s k
      (slot = none → exec (.signalDelivery k) s = .next (modCounts t cid fun x => { x with mgmt := x.mgmt ||| v })) ∧
      (∀ n c, slot = some n → Tbl.get? s.ctxs cid = some c → slotOfVf s n c.vf = true →
        exec (.signalDelivery k) s = .next (checkWake (modSlot t n fun q => { q with wake := q.wake ||| v }) n))) ∧
    (∀ cid, exec (.mgmtDoorbellRead cid) s = .next (modCounts s cid fun x => { x with mgmt := 0 })) ∧
    ∀ k gid cid r c, s.mem.pend[k]? = some (.event gid cid r) → earlierDue s k gid = false → Tbl.get? s.ctxs cid = some c →
      exec (.eventRecordWrite k) s = .next (modCtx (dropPend s k) cid fun c =>
        if 4096 ≤ c.queues.evq.length then { c with queues := { c.queues with lost := c.queues.lost + 1 } }
        else { c with queues := { c.queues with evq := c.queues.evq ++ [r] } })

/-- R163, R166, R268, R276, R351, R394. An access in flight that no earlier one holds back is performed: a peer's leaves for the fabric, another reads
and writes its bytes, and what it read waits for its register; the data of a group's performed accesses arrive at once; a barrier update held back
is applied. A victim is paged out where no frame is free, and an absent frame comes back. Accesses from outside reach frames of their world.
An acknowledgement, a response or their absence for 10 ms end what waits on the fabric, the reads of one issue together, a copy that reads from a peer
too. The two halves of an access in one page are performed together. Where a page's bytes lie in the backing store is the model's choice (log 22), and
when a response comes is free (log 1). -/
def Obligations.MemoryEvents : Prop :=
  ∀ (s : State),
    (∀ k a, s.mem.pend[k]? = some (.acc a) → mayAt s k = true → otherHalf s a = none →
      (a.isPeer = true → exec (.memoryAccessPerform k) s = .next (sendPeer (dropPend s k) a)) ∧
      (a.isPeer = false → a.dst = none → exec (.memoryAccessPerform k) s = .next (dropPend (performAcc s a).1 k)) ∧
      (a.isPeer = false → a.dst.isSome = true → exec (.memoryAccessPerform k) s =
        .next (putPend (performAcc s a).1 k (.acc { a with val := some (performAcc s a).2 })))) ∧
    (∀ k j a b, s.mem.pend[k]? = some (.acc a) → mayAt s k = true → otherHalf s a = some j → s.mem.pend[j]? = some (.acc b) → mayAt s j = true →
      exec (.memoryAccessPerform k) s = .next (if j < k then performAt (performAt s k a) j b else performAt (performAt s j b) k a)) ∧
    (∀ k gid a post n, s.mem.pend[k]? = some (.barrier gid a post n) → earlierDue s k gid = false →
      exec (.memoryAccessPerform k) s = .next (applyBar (dropPend s k) gid a post n)) ∧
    (∀ gid, let t := returnAll gid s.mem.pend s
      exec (.loadDataReturn gid) s = .next { t with mem := { t.mem with pend := t.mem.pend.filter fun p => !hasData gid p } }) ∧
    (∀ vf t, freeFrame s = none → pageOut s vf = some t → exec (.pageOut vf) s = .next t) ∧
    (∀ vf frame b p pfn t, (vfOf s vf).back = some b → Tbl.get? s.tables.paged (frameKey vf frame) = some p → (frameEntry s vf frame).1 = 3 →
      (vfOf s vf).hf.toNat < (vfOf s vf).bf.toNat → takeFrame s vf = some (pfn, t) →
      let m := frameEntry s vf frame
      let r := pagedBytes t (frameKey vf frame) (b.1 + 32768 * m.2) p (pfn * 32768)
      let u := { r.2 with mem := { r.2.mem with loc := putRange r.2.mem.loc (pfn * 32768) 32768 r.1 } }
      let u := { u with tables := { u.tables with paged := Tbl.erase u.tables.paged (frameKey vf frame),
                                                  age := Tbl.set u.tables.age pfn (u.time / 1000000) } }
      exec (.pageIn vf frame) s = .next
        (setVf (setFrame (setPot u pfn { vf := vf, state := 1, world := p.world }) vf frame (1, pfn)) vf fun v => { v with hf := v.hf + 1 })) ∧
    (∀ a bs, exec (.hostAccess (.own a bs)) s = .next { s with mem := { s.mem with host := SMap.setList s.mem.host a bs } }) ∧
    (∀ q, (portUp s 0 || portUp s 1) = true → exec (.hostAccess q) s = .next (busAccess s 0 q)) ∧
    (∀ peer world q, s.sys.links.any (fun e => e.2 == peer) = true → (∀ a bs, q ≠ .own a bs) →
      exec (.peerRequest peer world q) s = .next (busAccess s world q)) ∧
    (∀ k a, s.mem.fab[k]? = some a →
      (a.writes = true → a.dst = none → exec (.fabricWriteAck k) s = .next (payDues (copyAck (ackDown (putFab s k none) a.ctx) a) a.ctx)) ∧
      (a.writes = true → a.dst.isSome = true → exec (.fabricWriteAck k) s =
        .next (payDues (copyAck (ackDown (putFab s k (some { a with op := .load })) a.ctx) a) a.ctx)) ∧
      (∀ v, a.reads = true → a.writes = false →
        exec (.fabricReadResponse k v) s = .next (returnData (putFab s k none) a.gid a.dst (natLE a.n v.toNat))) ∧
      (∀ v, a.reads = true → a.writes = true → a.dst.isSome = true → exec (.fabricReadResponse k v) s =
        .next (returnData (putFab s k (some { a with dst := none })) a.gid a.dst (natLE a.n v.toNat))) ∧
      (a.writes = true → a.left + 10000000 ≤ s.time → exec (.fabricTimeout k) s =
        .next (stopContext (payDues (copyAck (ackDown (logLost (putFab s k none) a) a.ctx) a) a.ctx) a.ctx (causeOf 1 0x025 15))) ∧
      (a.writes = false → (∀ x ∈ s.mem.fab, x.reads = true → x.writes = false → x.sameIssue a = true → x.left + 10000000 ≤ s.time) →
        a.left + 10000000 ≤ s.time → let mine := fun (x : Acc) => x.reads && !x.writes && x.sameIssue a
        exec (.fabricTimeout k) s = .next (loseAll (s.mem.fab.filter mine) { s with mem := { s.mem with fab := s.mem.fab.filter fun x => !mine x } })) ∧
      (s.time < a.left + 10000000 → exec (.fabricTimeout k) s = .next s)) ∧
    ∀ k core q, (peerCopies s)[k]? = some (core, q) →
      (q.since + 10000000 ≤ s.time → exec (.fabricTimeout (s.mem.fab.length + k)) s = .next (failCopy Space.isPeer core q s)) ∧
      (s.time < q.since + 10000000 → exec (.fabricTimeout (s.mem.fab.length + k)) s = .next s)

/-- R34, R195 to R203, R317, R353 to R363. What happens of itself in the engines and the power controller, where it may: the head of a core's queue
begins, completes, or executes its accumulator instruction; an ownership trap is served; an engine is reset; a copy moves bytes; the Kiln arbiter
steps, and takes requests; a burst ends; the sensors report, alarms begin and end; a hot cluster's contexts move; idle clusters retain. Bounds in
clk are turned into ns at the present FLL (the model's choice, log 1); a hot cluster's contexts move to the lowest cooler cluster with room (log
87) and an engine reset takes no time (log 52), both the model's. R353, R354, R355, R358, R360. A step of the Kiln arbiter, no two ended
reservations of one core having come to their whole amount at one step: a KILN_SET that waits is written; up to FALL units of ended reservations
are released, by the step of the grant, then the core; without DENY, pending requests are granted in the order of request step, core, kind and
partition, up to RISE units in the step and LEVEL up to CAP, the first that does not fit in part and none after it; each context's GRANT rises by
what is granted to it; nothing else changes. R27, R30, R31, R34, R189, R195. What an `mm` forms as it begins, its slots read through the port: in
each output element of the accumulator the exact sum of its base (0 under ZA) and the K products of the scaled values of its row of A and its row
of B, rounded once to nearest even; the default NaN where a term is NaN, 0 × ∞, or both infinities meet. Which scale a row or group takes past the
tensor's end is the model's choice (log 135). R237 to R243. The timers of pre-emption, run out: a slice that others of its cores wait for starts
the ladder on its VF; the ladder steps on after DRAIN_T, with records to the handlers of blocks that run launch points (the model's reading, log
85), and after COOP_B; a slot whose point found no fit for PREEMPT_T pre-empts; a ladder at its last step saves its target's blocks. -/
def Obligations.EngineAndPreemptionEvents : Prop :=
  ((∀ (s : State),
      (∀ core o op, mmReady s core = some (o, op) → kilnHeld s (.mash core) = true → exec (.mashOpStart core) s =
        .next (modCore (mmStart s core o op).2 core fun c => { c with mashq := { o with out := some (mmStart s core o op).1 } :: c.mashq.drop 1 })) ∧
      (∀ core o rest op r, (coreOf s core).mashq = o :: rest → o.kind = .mm op → o.out = some r → r.sealGone = false →
        let t := modCore s core fun c =>
          { c with acc := replaceElems c.acc (1024 * op.acc) (1024 * op.acc + op.m * op.n) r.vals }
        exec (.mashOpComplete core) s = .next (finishOp (kilnEnd t (.mash core)) core o.members fun e => { e with sealed := e.sealed || false })) ∧
      (∀ core o rest, (coreOf s core).mashq = o :: rest →
        let put := fun (f : SMap 32 → SMap 32) => finishOp (modCore s core fun c => { c with acc := f c.acc }) core o.members id
        (∀ u n, o.kind = .clr u n → exec (.accOpExecute core) s = .next (put fun m => SMap.keep m fun k => !(u ≤ k / 1024 && k / 1024 < u + n))) ∧
        (∀ d u, o.kind = .mov d u → d ≠ u → exec (.accOpExecute core) s = .next (put fun m => moveUnit m d u)) ∧
        (∀ u lanes vals, o.kind = .put u lanes vals → exec (.accOpExecute core) s = .next (put fun m => putUnit m u lanes vals)) ∧
        (∀ r, o.out = some r → 2 ^ 20 * 1000 ≤ (s.time - r.since) * presentMhz s (clusterOf core) →
          exec (.mashTimeoutReset core) s = .next (engineReset s core))) ∧
      (∀ core cid gid b, (coreOf s core).wantOwn = [gid] → Tbl.get? s.blocks (bsnOf gid) = some b → b.ctx = cid → (coreOf s core).idle = true →
        exec (.accumulatorOwnershipTrap core cid) s = .next (serveOwner s core cid (nth b.lcores (coreIdx b gid) 0))) ∧
      (∀ core k n q, (coreOf s core).kicks[k]? = some q → q.waits = false → mayMove s core k n q = true →
        exec (.copyByteArrival core k n) s = .next (copyArrive s core n q)) ∧
      (∀ n, n < 12 → exec (.kilnStep n) s = .next (kilnStep (kilnFiled s n) n)) ∧
      (∀ n who x, clusterOf (whoCore who) = n → kilnWants s who = some x → exec (.kilnRequest n who) s = .next (kilnAsk s who x.1 x.2)) ∧
      (∀ core part, (kilnRes s (.vector core part)).isSome = true → exec (.vectorBurstEnd core part) s = .next (kilnEnd s (.vector core part))) ∧
      (∀ n t hi mig, n < 12 → cfgNat s 36 1 = some hi → cfgNat s 37 1 = some mig →
        let u := modCluster s n fun c => { c with temp := t }
        exec (.thermalSample n t) s = .next (thermalAct (modCluster u n fun c => { c with hotSince := hotFrom u c t mig }) n t hi)) ∧
      (∀ n, n < 12 →
        ((clusterSt s n).deny = false → exec (.droopAlarm n) s = .next (clusterNotice (modCluster s n fun c => { c with deny := true }) n 2)) ∧
        ((clusterSt s n).deny = true → exec (.denyEnd n) s = .next (clusterNotice (modCluster s n fun c => { c with deny := false }) n 3)) ∧
        (∀ t, (clusterSt s n).hotSince = some t → t + 1000000 ≤ s.time → exec (.hotSpotMigration n) s = .next (hotMove s n)) ∧
        ((clusterSt s n).retained = false → clusterIdle s n = true →
          ((clusterSt s n).idleFrom = none → exec (.retentionEntry n) s = .next (modCluster s n fun c => { c with idleFrom := some s.time })) ∧
          (∀ t, (clusterSt s n).idleFrom = some t → t + retNs s ≤ s.time → exec (.retentionEntry n) s =
            .next (modCluster (evictFrames ((coresIn n).foldl retainCore s)) n fun c => { c with retained := true, idleFrom := none }))) ∧
        ((clusterSt s n).retained = false → clusterIdle s n = false →
          exec (.retentionEntry n) s = .next (modCluster s n fun c => { c with idleFrom := none })) ∧
        ((clusterSt s n).retained = true →
          exec (.retentionExit n) s = .next (modCluster s n fun c => { c with retained := false })))) ∧
   ((∀ (s : State) (n : Nat), let c := match (clusterSt s n).kset with
         | some k => { clusterSt s n with cap := k.1, ramp := k.2, kset := none }
         | none => clusterSt s n
       let total := fun (l : List KilnRes) (f : KilnRes → Nat) => (l.map f).foldl (· + ·) 0
       let level := total c.res fun r => r.held
       let b := nth c.ramp (level / 32) (16, 8)
       let releasedAt := fun (r : KilnRes) => (r.full, whoCore r.who)
       let kind := fun (w : KilnWho) => match w with | .mash _ => 0 | .grist _ => 1 | .vector _ p => 2 + p
       let key := fun (r : KilnRes) => [r.asked, whoCore r.who, kind r.who]
       let given := fun (r : KilnRes) => if r.ended then min r.held (b.2 - total (c.res.filter fun x => x.ended &&
         (x.full < r.full || (x.full == r.full && whoCore x.who < whoCore r.who))) fun x => x.held) else 0
       let room := c.cap - total c.res fun r => r.held - given r
       let before := fun (r : KilnRes) => total (c.res.filter fun x => !x.ended && decide (key x < key r)) fun x => x.want
       let got := fun (r : KilnRes) => if r.ended || c.deny then 0 else min r.want (min (b.1 - before r) (room - before r))
       let after := fun (r : KilnRes) => { r with
         held := r.held - given r + got r, want := r.want - got r, full := if r.want ≠ 0 ∧ got r = r.want then c.kstep else r.full }
       (c.res.map (·.who)).Nodup → ((c.res.filter (·.ended)).map releasedAt).Nodup →
       let t := kilnStep s n
       (∀ r, r ∈ (clusterSt t n).res ↔ r ∈ (c.res.map after).filter fun r => !(r.ended && r.held == 0)) ∧
       { clusterSt t n with res := [] } = { c with res := [], kstep := c.kstep + 1 } ∧
       (∀ k, k ≠ n → Tbl.get? t.clusters k = Tbl.get? s.clusters k) ∧
       { t with clusters := [], ctxs := [] } = { s with clusters := [], ctxs := [] } ∧
       ∀ cid, Tbl.get? t.ctxs cid = (Tbl.get? s.ctxs cid).map fun x =>
         { x with counts := { x.counts with grant := x.counts.grant + BitVec.ofNat 32 (total (c.res.filter fun r => r.ctx == cid) got) } }) ∧
    (∀ (s : State) (core : Nat) (o : MashOp) (op : MmOp) (bb : List Nat), let c := coreOf s core
       let aa := o.slotsA.flatMap (slotBytes c)
       let size := fun (e : MmSide) => if e.smode ≤ 3 then 4 else 2
       let x := readScales o.ctx (size op.a) op.a.scales s
       let y := readScales o.ctx (size op.b) op.b.scales x.2
       let out := (mmStart s core o op).1
       let code := fun (l : List Nat) (i k : Nat) =>
         if op.cls = 0 then nth l (64 * i + 2 * k) 0 + 256 * nth l (64 * i + 2 * k + 1) 0
         else if op.cls = 1 then nth l (64 * i + k) 0
         else nth l (64 * i + k / 2) 0 / (if k % 2 = 0 then 1 else 16) % 16
       let plain := fun (e : MmSide) (l : List Nat) (i k : Nat) =>
         if op.cls = 0 then (if fmtB16.isNan (code l i k) then none else some (fmtB16.val (code l i k)))
         else let v := narrowDecode e.fmt (code l i k); if fmt32.isNan v then none else some (fmt32.val v)
       let scaled := fun (e : MmSide) (vals l : List Nat) (i k : Nat) =>
         let m := if e.smode ≤ 3 then fmt32 else fmt16
         let g := nth vals (if e.smode = 1 then 0 else if e.smode = 2 then i else if e.smode = 3 then k
           else i * e.groups + ((e.koff + k) / 2 ^ e.smode - e.koff / 2 ^ e.smode)) 0
         if e.smode = 0 then plain e l i k else if m.isNan g then none else (plain e l i k).bind fun v => v.times (m.val g)
       portRun s c o.slotsB = some bb → op.cls ≤ 2 → op.a.smode ≤ 6 → op.b.smode ≤ 6 → SMap.wf c.acc = true →
       64 * op.m ≤ aa.length → 64 * op.n ≤ bb.length → (∀ v ∈ bb, v < 256) →
       out.sealGone = false ∧ ∀ i < op.m, ∀ j < op.n,
         let base := if op.za then 0 else (SMap.get c.acc (1024 * op.acc + i * op.n + j)).toNat
         let z := (SMap.get out.vals (1024 * op.acc + i * op.n + j)).toNat
         let terms := (List.range (32 * 2 ^ op.cls)).map fun k =>
           (scaled op.a x.1 aa i k).bind fun v => (scaled op.b y.1 bb j k).bind v.times
         if fmt32.isNan base || terms.any (·.isNone) then z = 0x7FC00000
         else fmt32.SumOf .rne (fmt32.val base :: terms.filterMap id) z))) ∧
  (∀ (s : State),
     (∀ vf e, (vfOf s vf).sliceEnd = some e → e ≤ s.time →
       s.sys.ladders.any (fun l => match l.next with | .slice _ => l.tgt == .vf vf | _ => false) = false →
       ((sharers s vf).isEmpty = true → exec (.sliceExpiry vf) s = .next (setVf s vf fun v => { v with sliceEnd := none })) ∧
       ((sharers s vf).isEmpty = false → exec (.sliceExpiry vf) s = .next (startLadder (rollback s vf) (.vf vf) none (.slice e)))) ∧
     (∀ tgt l, ladderAt s tgt 1 = some l → l.since + 1000 * (vfOf s (targetVf s tgt)).drainUs ≤ s.time →
       exec (.drainExpiry tgt) s = .next (coopRecords (stepLadder s l) (targetBlocks s tgt l.cores))) ∧
     (∀ tgt l, ladderAt s tgt 2 = some l → 1000 * (vfOf s (targetVf s tgt)).coopClk ≤ (s.time - l.since) * targetMhz s tgt →
       exec (.coopBudgetExpiry tgt) s = .next (stepLadder s l)) ∧
     (∀ n lid t c v, let q := slotOf s n
       Tbl.get? s.sys.unfit n = some (lid, t) → offers s lid = true → Tbl.get? s.ctxs q.ctx = some c → t + 1000 * (vfOf s q.vf).preemptUs ≤ s.time →
       s.sys.ladders.any (fun l => l.next == .prio && targetVf s l.tgt == q.vf) = false → prioVictim s q (neededCores s lid c) = some v →
       exec (.preemptTExpiry n) s = .next (startLadder s (.ctx v) none .prio)) ∧
     ∀ tgt l t, savingLadder s (fun l => l.tgt == tgt) = some l → forceSave s tgt l.cores = some t →
       exec (.forcedSave tgt) s = .next (checkLadders t))

/-- R205 to R217, R284, R300 to R303. A boundary composes its display's frame, begins the next generation (GEN rises), drops the grants that end
before it, and its queues latch; a present doorbell takes records up to a ring of them; a pass takes its next item, rasters a tile's next item,
leaves its cores when its bins overflow, commits samples in order, and stores some pixels of a tile that it is done with. The model chooses: a doorbell
takes at most one ring of records (log 71), an item does not wait for the tails of the one before (log 33), and the bin and spill layout is its own (log 20). -/
def Obligations.PixelEvents : Prop :=
  ∀ (s : State),
    (∀ d c, (dispSt s d).cfg = some c → boundaryAt c (dispSt s d).first (dispSt s d).count ≤ s.time →
      let t := compose s d c
      let u := { t with pix := { t.pix with disps := Tbl.modify t.pix.disps d fun x => beginGen x c } }
      let v := { u with pix := { u.pix with cts := u.pix.cts.filter fun e => e.2.a.disp != d || decide (genOf u d ≤ e.2.a.last.toNat) } }
      exec (.displayBoundary d) s = .next (checkTimelines { v with pix := { v.pix with pqs := v.pix.pqs.map fun e =>
        if e.2.a.disp == d then (e.1, latchPq v (genOf u d) e.2) else e } })) ∧
    (∀ n q tail, Tbl.get? s.pix.pqs n = some q → exec (.presentDoorbell n tail) s =
      .next (presTake s n (min ((tail + 65536 - q.head.toNat) % 65536) (2 ^ q.a.log2n)))) ∧
    (∀ pid p hd r c, Tbl.get? s.passes pid = some p → passHdr s pid = some hd → Tbl.get? s.recs pid = some r → Tbl.get? s.ctxs p.ctx = some c →
      (p.taken.length < hd.nitem → p.refused = false → mayStart s p.ctx c = true →
        (∀ i o, takeItem s p.ctx c hd (hd.items.toNat + 64 * p.taken.length) = .ok (i, o) → exec (.passItemTake pid) s =
          .next (beginLaunch (modPass (touchReads s p.ctx c (i.reads (hd.items.toNat + 64 * p.taken.length))) pid fun p => { p with taken := p.taken ++ [i] }) (itemLaunch p.ctx r.slot pid p.taken.length i o))) ∧
        (∀ e, takeItem s p.ctx c hd (hd.items.toNat + 64 * p.taken.length) = .refuse e →
          exec (.passItemTake pid) s = .next (refuseSlot (modPass s pid fun p => { p with refused := true }) r.slot e))) ∧
      (∀ tile, tile < hd.tx * hd.ty → p.stored.contains tile = false → let at_ := tilePos p tile
        (∀ i t, (passStarts s p c = true ∨ (passFinishes s p c = true ∧ passGoes p hd tile = true)) → p.taken[at_.1]? = some i →
          takeTile s pid p hd c tile = some t → exec (.tileRaster pid tile) s = .next (checkLadders (match i with
            | .draw d => if p.done.contains at_.1 then walkDraw t pid p hd c r.slot tile at_ d else t
            | .disp _ _ => passDispatch t pid p tile at_.1))) ∧
        (∀ t, passStarts s p c = false → passFinishes s p c = true → (passBoundary p hd).isSome = true → tileBusy s pid p tile = false →
          spillTile s pid p hd c tile = some t → exec (.tileRaster pid tile) s = .next (checkLadders t))) ∧
      (let l := (p.cur.filterMap (·.2)).filter fun t => caughtUp s pid p (binFront p).1 (binFront p).2 t
       exec (.binOverflowSpill pid) s = .next (l.foldl
          (fun s t => match Tbl.get? s.passes pid with | some p => (spillTile s pid p hd c t).getD s | none => s)
          (modPass s pid fun p => { p with binFull := true }))) ∧
      (∀ k x, p.commits[k]? = some x → commitReady s pid p k x = true → ∀ d, p.taken[x.item]? = some (.draw d) →
        let t := modPass s pid fun p => touchPix { p with commits := removeAt p.commits k } x.tile x.pix
        let y := if x.early then (true, t) else depthStage t pid hd x.tile x.pix x.sample d.ds.toNat x.depth.toNat
        let z := if y.1 then blendStage y.2 pid hd x.tile x.pix x.sample d.bl (x.planes.filter fun e => planeFmt hd e.1 != 3) else y.2
        exec (.sampleCommit pid k) s = .next (checkLadders (checkFences (commitDone z pid x y.1)))) ∧
      ∀ tile t, storeDue s pid p hd c tile = true → takeTile s pid p hd c tile = some t →
        let todo := storesLeft hd p tile
        let at_ := fun (i : Nat) => nth todo i (0, 0)
        ∃ now : List Nat, (∀ i ∈ now, i < todo.length ∧ storeTo t c.oid hd (nth p.surf (at_ i).2 0) tile (at_ i).1 ≠ .wait) ∧
        let left := ((List.range todo.length).filter fun i => !now.contains i).map at_
        let u := now.foldl (fun s i => storePixel s p.ctx c.oid hd pid tile (at_ i).1 (at_ i).2) { t with freeCtr := t.freeCtr + 1 }
        exec (.tileStore pid tile) s = .next (checkLadders (if left.isEmpty then finishPass (modPass u pid (tileStored hd tile)) pid
          else modPass u pid fun p => { p with storing := Tbl.set p.storing tile left })))

/-- R19, R383, R384, R391, R393, R395, R396. A device reset leaves the reset state, host memory and the links as they were; a record in boot flash that
verifies begins full service with no context left; a port's link goes down, comes up, or is hot-reset; a collective writes its buffer and its timeline rises; a
migration's peer reports; an array's error is logged, acted on, and ends a save that failed. Where a save fails the
ladder goes on for the target's other contexts (log 86), the host is told by a list of notices (log 122), and the passage to full service keeps the job
counters of the contexts that it ends for CTX_STAT (log 123); the three are the model's choices. -/
def Obligations.DeviceEvents : Prop :=
  ∀ (s : State),
    exec .deviceReset s = .next { State.reset with
      mem := { Mem.reset with host := s.mem.host }, agenda := s.agenda, steps := s.steps, freeCtr := s.freeCtr,
      sys := { Sys.reset with down := s.sys.down } } ∧
    (s.full = false →
      ((recordFits flashRecord = true ∧ Config.signedBy (flashRecord.drop 128) (flashRecord.take 128) = true) →
        let l := s.ctxs.map (·.1)
        let u := l.foldl endContext s
        (∀ t, freeAll l u = some t → exec .configRecordVerify s = .next
          { t with full := true, sys := { t.sys with cfg := some flashRecord, ended := u.ctxs.map fun e => (e.1, e.2.counts.job) } }) ∧
        (freeAll l u = none → exec .configRecordVerify s = .next u)) ∧
      (¬ (recordFits flashRecord = true ∧ Config.signedBy (flashRecord.drop 128) (flashRecord.take 128) = true) →
        exec .configRecordVerify s = .next (tellUnverified s))) ∧
    (∀ port, portUp s port = true →
      exec (.linkDown port) s = .next (linkDown s port) ∧ exec (.hotReset port) s = .next (hotReset s)) ∧
    (∀ port, exec (.linkUp port) s = .next { s with sys := { s.sys with down := s.sys.down.filter (· != port) } }) ∧
    (∀ k x c, s.sys.colls[k]? = some x → Tbl.get? s.ctxs x.ctx = some c →
      let pass := fun (t : State) => if inFlight t (fun a => a.gid == collGid x.id) then t
        else checkTimelines (modCounts { t with sys := { t.sys with colls := removeAt t.sys.colls k } } x.ctx fun n => { n with coll := n.coll + 1 })
      (x.sent = true → exec (.collRetire k) s = .next (pass s)) ∧
      ∀ t, x.sent = false → collWrite c x 0 x.a.count s = some t → exec (.collRetire k) s =
        .next (pass { t with sys := { t.sys with colls := modifyAt t.sys.colls k fun x => { x with sent := true } } })) ∧
    (∀ vf m, Tbl.get? s.sys.migs vf = some m → m.done = none →
      (s.time ≤ m.started + 1000000000 → exec (.migCompletion vf true) s = .next (setMig s vf { m with done := some true })) ∧
      exec (.migCompletion vf false) s = .next (dropMig s vf)) ∧
    ∀ q, kindFits q.array q.kind = true → q.core < 48 → let r := injected s q
      let t := errAct (logErr r.2 q.array (errEntry r.2 q r.1)) q
      ((q.ctx = none ∨ q.kind ≠ 1) → exec (.softErrorDetect q) s = .next t) ∧
      (∀ c, q.ctx = some c → q.kind = 1 → exec (.softErrorDetect q) s = .next (saveFault t c))

/-! Memory, fetch, decoding, reset. -/

/-- R163, R170, R274, R277. An access of local memory, performed: its bytes are what it leaves; every byte outside it, and outside the dirty bits of a
VF that tracks them, is as it was, and so is all of host memory; it read the bytes as they were; the canonical form is kept. A write to a frame
that its context may no longer reach is dropped and logged, and changes no byte. Every operation that the model has on a map of bytes keeps the
canonical form, and a read gives what was last written: a write of bytes, a write over a range by entries that lie in it, a number in little-
endian bytes. -/
def Obligations.MemoryWrites : Prop :=
  (∀ (s : State) (a : Acc), a.space = .loc → let old := SMap.getList s.mem.loc a.pa a.n
     let t := (performAcc s a).1
     let vf := vfOf s (match Tbl.get? s.ctxs a.ctx with | some c => c.vf | none => 0)
     (a.writes = true → recheckOk s a.ctx .loc a.pa a.n = false → t = logDrop s a.ctx a.pa) ∧
     ((a.leaves old).length = a.n → (a.writes = true → recheckOk s a.ctx .loc a.pa a.n = true) →
     (vf.dirtyEn = false → SMap.getList t.mem.loc a.pa a.n = a.leaves old ∧
       ∀ x, x < a.pa ∨ a.pa + a.n ≤ x → SMap.get t.mem.loc x = SMap.get s.mem.loc x) ∧
     (∀ x, (x < a.pa ∨ a.pa + a.n ≤ x) → let base := if vf.activeB then vf.dirtyB else vf.dirtyA
       x ≠ base + a.vpa / 65536 / 8 → x ≠ base + (a.vpa + a.n - 1) / 65536 / 8 → SMap.get t.mem.loc x = SMap.get s.mem.loc x) ∧
     t.mem.host = s.mem.host ∧ (a.writes = false → t.mem.loc = s.mem.loc) ∧ (a.reads = true → (performAcc s a).2 = old) ∧
     (s.memWf = true → t.memWf = true))) ∧
  ((∀ (m : SMap 8) (a : Nat) (bs : List Byte), Memory.wf m = true → Memory.wf (SMap.setList m a bs) = true) ∧
   (∀ (m : SMap 8) (a : Nat) (bs : List Byte), SMap.getList (SMap.setList m a bs) a bs.length = bs ∧
     ∀ x, x < a ∨ a + bs.length ≤ x → SMap.get (SMap.setList m a bs) x = SMap.get m x) ∧
   (∀ (m l : SMap 8) (b n : Nat), Memory.wf m = true → Memory.wf l = true → l.all (fun e => decide (b ≤ e.1) && decide (e.1 < b + n)) = true →
     Memory.wf (putRange m b n l) = true ∧
     ∀ x, SMap.get (putRange m b n l) x = if b ≤ x ∧ x < b + n then SMap.get l x else SMap.get m x) ∧
   (∀ (m : SMap 8) (a n b : Nat), Memory.wf m = true → Memory.wf (rangeAt m a n b) = true ∧
     ∀ x, x < n → SMap.get (rangeAt m a n b) (b + x) = SMap.get m (a + x)) ∧
   (∀ (m : SMap 8) (a n w : Nat), rdNat (wrNat m a n w) a n = w % 256 ^ n) ∧
   ∀ (m l : SMap 8), Memory.wf m = true → Memory.wf l = true → (∀ x, SMap.get m x = SMap.get l x) → m = l)

/-- Whatever the step does, local memory, host memory and the bytes of every frame paged out stay in their canonical form. -/
def Obligations.StepKeepsMemoryForm : Prop :=
  ∀ (s t : State), s.bytesWf = true → step s = .next t → t.bytesWf = true

/-- R38, R39, R271, R329. With no entry of the schedule before it, a step fetches at the PC of the group at the head of the issue order, halfword by
halfword, little-endian, at the address that the context's tables give; where the halfwords decode to `i`, and `i` makes no burst or its reservation is
held, the step is `exec` of `i`, after which the group goes behind the others; in a sequence it is `exec` of the micro-op at START + UPC. A fetch from local
memory is an access of its line and its frame. An event
of the schedule runs alone, and time passes in nanoseconds. -/
def Obligations.StepRunsDecoded : Prop :=
  (∀ (s t : State) (h : Here) (hs : List Half) (i : Instr) (n : Nat), s.agenda = [] → (tickStep s).here = some h → h.f.micro = none →
    fetchFrom h.core h.cid h.c h.f.pc.toNat 4 [] (tickStep s) = (.ok hs, t) → decodeHalves hs = .instr i n →
    (bursts i = false ∨ kilnHeld t (.vector h.core h.g.place.part) = true) → step s = after (exec i t) (rotate (some h.gid))) ∧
  (∀ (s t : State) (core cid va : Nat) (c : Ctx) (e : TlbEntry), translateRaw s core cid c va false true = (.ok e, t) →
    let p := partOf e va 0 2
    partsFault t c va true [p] = none →
    fetchHalf s core cid c va = (.ok (BitVec.ofNat 16 (leNat (readPhys t.mem p.space p.pa 2))),
      if p.space = .loc then readLoc t cid p.pa p.n p.world else t)) ∧
  (∀ (core cid va n : Nat) (c : Ctx) (hs : List Half) (s : State), wholeInstr hs = true →
    fetchFrom core cid c va (n + 1) hs s = (.ok hs, s)) ∧
  (∀ (core cid va n : Nat) (c : Ctx) (hs : List Half) (s t : State) (x : Half), wholeInstr hs = false →
    fetchHalf s core cid c ((va + 2 * hs.length) % 2 ^ 64) = (.ok x, t) →
    fetchFrom core cid c va (n + 1) hs s = fetchFrom core cid c va n (hs ++ [x]) t) ∧
  (∀ (s : State) (h : Here) (m : Micro) (i : Instr), s.agenda = [] → (tickStep s).here = some h → h.f.micro = some m →
    decodeUop (SMap.get s.wcs ((bindStart (bindOf h.c m.xi) + m.upc) % 4096)) = .instr i 8 → bursts i = false →
    step s = after (exec i (tickStep s)) (rotate (some h.gid))) ∧
  (∀ (s : State) (i : Instr) (r : List Turn), s.agenda = .event i :: r → scheduled i = true → step s = exec i { tickStep s with agenda := r }) ∧
  ∀ (s : State) (ns : Nat) (r : List Turn), s.agenda = .pass ns :: r → step s = .next (passTime { tickStep s with agenda := r } ns)

/-- The words of the spec's worked examples decode to the instructions that it gives for them. -/
def Obligations.ExampleWords : Prop :=
  decodeTableWord 32 0x02012325 = some (.vcmp { pfx := none, b := 0x02, a := 0x01, cc := 2, rsv := false, kd := 3 }) ∧
  decodeTableWord 64 0x0201052B850C00FD = some (.vsel
    { pfx := some { d := 0x85, rnd := 0, msk := 3, zro := false, sb := 0, typ := 0, af := false, ahi := 0 }, b := 0x02, a := 0x01, nw := false, vd := 5 }) ∧
  decodeTableWord 32 0x0003084F = some (.vredSum { pfx := none, a := 0x03, nw := false, vd := 8 }) ∧
  decodeTableWord 64 0x02850731230005FD = some (.vfadd
    { pfx := some { d := 0x23, rnd := 0, msk := 0, zro := false, sb := 0, typ := 0, af := true, ahi := 1 }, b := 0x02, a := 0x85, nw := false, vd := 7 }) ∧
  decodeTableWord 32 0xC2C10361 = some (.sadd { pfx := none, b := 0xC2, a := 0xC1, sd := 3 }) ∧
  decodeTableWord 32 0xFFFE0585 = some (.sli { imm := 0xFFFE, sd := 5 }) ∧
  decodeTableWord 32 0x0403028F = some (.kand { pfx := none, s := 0x04, ka := 3, rsv := 0, kd := 2 }) ∧
  decodeTableWord 16 0x918E = some (.cFadd { vd := 3, b := 7 }) ∧
  decodeTableWord 32 0x070328F1 = some (.xop { pfx := none, b := 0x07, a := 0x03, xi := 5, rsv := 0 }) ∧
  decodeTableWord 32 0x0110C6C7 = some (.sig { pfx := none, sys := 0x011, fn := 0, a := 0xC6 }) ∧
  decodeTableWord 32 0xC40208D9 = some (.tex { pfx := none, b := 0xC4, a := 0x02, nw := false, vd := 8 }) ∧
  decodeTableWord 32 0x91C603E3 = some (.cpKick { pfx := none, b := 0x91, a := 0xC6 })

/-- R38 to R57, R324, R325. Decoding the bytes of any well-formed instruction, whatever bytes follow them, gives that instruction and its length; and a
well-formed micro-op is decoded from its own control store word. -/
def Obligations.DecodeEncode : Prop :=
  ∀ (i : Instr), i.wf = true →
    (encode i ≠ [] → ∀ rest : List Byte, decode (encodeBytes i ++ rest) = .instr i (2 * (encode i).length)) ∧
    ∀ w, encodeUop i = some w → decodeUop w = .instr i 8

/-- R19, R154, R219, R220, R270, R321 to R323, R358, R387. The state after reset: reduced service, TIME 0, no context, block, group or queue record;
every slot free, every dependence counter unassigned and 0; no frame owned; the control store zeros and its units unassigned; every mailbox free; each
cluster's arbiter at a cap of 136 units and its default ramp; memory in its canonical form with nothing listed. In reduced service a frame that
crosses the end of stack 0 is fenced (the model's choice, log 114). -/
def Obligations.ResetState : Prop :=
  let s := State.reset
  s.full = false ∧ s.time = 0 ∧ s.ctxs = [] ∧ s.groups = [] ∧ s.blocks = [] ∧ s.recs = [] ∧ s.here = none ∧
  (∀ n, (slotOf s n).st = 0 ∧ (slotOf s n).wake = 0) ∧ (∀ n, SMap.get s.depc n = 0 ∧ SMap.get s.depcVf n = 0) ∧
  (∀ n, SMap.get s.wcs n = 0 ∧ unitVf s n = none) ∧ (∀ p, (potEntry s p).state = if Config.stack0Bytes < (p + 1) * 32768 then 3 else 0) ∧
  (∀ fn, boxOf s fn = Mailbox.reset ∧ (boxOf s fn).held = none ∧ (boxOf s fn).busy = false) ∧
  (∀ n, (clusterSt s n).cap = 136 ∧ (clusterSt s n).ramp = List.replicate 8 (16, 8) ∧ (clusterSt s n).deny = false) ∧
  (∀ d, genOf s d = 0) ∧ (∀ vf, vf ≠ 0 → (vfOf s vf).enabled = false) ∧ s.bytesWf = true ∧ ∀ a, SMap.get s.mem.loc a = 0

/-! Coverage. -/

/-- R206. The sample positions, in eighths of a pixel. A position inside all three edges of a triangle is covered, in either order of its vertices, and
one outside an edge is not. A position on an edge, inside the other two, is covered exactly where the edge is a top edge, which lies along a row above
the third vertex, or a left edge, which has the triangle to its right; so it is covered in just one of two triangles that share the edge. Bit
j × SAMP + k of a quad's coverage is the coverage of sample k in the quad's pixel j, where the tile's bin holds the primitive and clipping leaves it. -/
def Obligations.SampleCoverage : Prop :=
  (samplePos 1 0 = (4, 4) ∧ samplePos 2 0 = (6, 6) ∧ samplePos 2 1 = (2, 2) ∧ samplePos 4 0 = (3, 1) ∧ samplePos 4 1 = (7, 3) ∧
    samplePos 4 2 = (1, 5) ∧ samplePos 4 3 = (5, 7)) ∧
  (∀ (a b c p : Pt), let e := edgeFn a b c
    (0 < edgeFn a b p * e → 0 < edgeFn b c p * e → 0 < edgeFn c a p * e → insideTri (a, b, c) p = true) ∧
    (edgeFn a b p * e < 0 ∨ edgeFn b c p * e < 0 ∨ edgeFn c a p * e < 0 → insideTri (a, b, c) p = false) ∧
    (edgeFn a b p = 0 → 0 < edgeFn b c p * e → 0 < edgeFn c a p * e →
      (insideTri (a, b, c) p = true ↔ (a.2 = b.2 ∧ a.2 < c.2) ∨ (b.2 < a.2 ∧ 0 < e) ∨ (a.2 < b.2 ∧ e < 0)))) ∧
  (∀ (a b c d p : Pt), 0 < edgeFn a b c → edgeFn a b d < 0 → edgeFn a b p = 0 →
    0 < edgeFn b c p → 0 < edgeFn c a p → edgeFn b d p < 0 → edgeFn d a p < 0 →
    insideTri (a, b, c) p ≠ insideTri (a, b, d) p) ∧
  ∀ (h : PassHdr) (b : Bin) (prim tile quad i : Nat), let pix := quadPix quad (i / h.samp)
    let x : Int := 8 * (64 * (tile % h.tx) + pix % 64 : Nat) + (samplePos h.samp (i % h.samp)).1
    let y : Int := 8 * (64 * (tile / h.tx) + pix / 64 : Nat) + (samplePos h.samp (i % h.samp)).2
    (quadCover h b prim tile quad).testBit i =
      (decide (i < 4 * h.samp) && (inBin h b prim tile && Config.clipKeeps b.seed prim x y && insideTri (b.tri prim) (ptEighths x y)))
end

