-- ==== Sys2Proof/Laws/Store.lean ====
section
/-! SUPPORT. Laws of the sorted maps: reading after writing, with no assumption on the map, and the canonical form, which every write
keeps. -/

namespace Sys2Proof.Machine

/-! Values by key. -/

theorem SMap.get_put {w : Nat} (m : SMap w) (k : Nat) (v : BitVec w) (j : Nat) :
    SMap.get (SMap.put m k v) j = if j = k then v else SMap.get m j := by
  induction m with
  | nil => simp [SMap.put, SMap.get]
  | cons e r ih =>
    obtain ⟨k', v'⟩ := e
    simp only [SMap.put]
    split
    · simp [SMap.get]
    · split
      · subst_vars; simp only [SMap.get]; split <;> simp_all
      · simp only [SMap.get, ih]; split
        · subst_vars; rw [if_neg (by omega)]
        · rfl

theorem SMap.get_drop {w : Nat} (m : SMap w) (k j : Nat) :
    SMap.get (m.filter fun e => e.1 != k) j = if j = k then 0 else SMap.get m j := by
  induction m with
  | nil => simp [SMap.get]
  | cons e r ih =>
    obtain ⟨k', v'⟩ := e
    by_cases h : k' = k <;> by_cases hj : j = k' <;> simp_all [SMap.get]

/-- A read after a write: the value at its own key, what was there at any other. -/
@[simp] theorem SMap.get_set {w : Nat} (m : SMap w) (k : Nat) (v : BitVec w) (j : Nat) :
    SMap.get (SMap.set m k v) j = if j = k then v else SMap.get m j := by
  unfold SMap.set
  split
  · simp_all [SMap.get_drop]
  · exact SMap.get_put m k v j

theorem SMap.get_set_same {w : Nat} (m : SMap w) (k : Nat) (v : BitVec w) : SMap.get (SMap.set m k v) k = v := by simp
theorem SMap.get_set_ne {w : Nat} (m : SMap w) (k : Nat) (v : BitVec w) (j : Nat) (h : j ≠ k) :
    SMap.get (SMap.set m k v) j = SMap.get m j := by simp [h]

/-- Dropping the keys that fail a test reads zero there and leaves the others. -/
theorem SMap.get_keep {w : Nat} (m : SMap w) (p : Nat → Bool) (j : Nat) :
    SMap.get (SMap.keep m p) j = if p j then SMap.get m j else 0 := by
  unfold SMap.keep
  induction m with
  | nil => simp [SMap.get]
  | cons e r ih =>
    obtain ⟨k', v'⟩ := e
    by_cases h : p k' <;> by_cases hj : j = k' <;> simp_all [SMap.get]

theorem SMap.above_mono {w : Nat} (m : SMap w) (a b : Nat) (hab : a ≤ b) (h : SMap.above m b = true) : SMap.above m a = true := by
  cases m with
  | nil => rfl
  | cons e r => obtain ⟨k, v⟩ := e; simp_all [SMap.above]; omega

theorem SMap.above_put {w : Nat} (m : SMap w) (b k : Nat) (v : BitVec w) (h : SMap.above m b = true) (hk : b < k) (hv : v ≠ 0) :
    SMap.above (SMap.put m k v) b = true := by
  induction m generalizing b with
  | nil => simpa [SMap.put, SMap.above, hk] using hv
  | cons e r ih =>
    obtain ⟨k', v'⟩ := e
    simp only [SMap.put]
    split
    · simp_all [SMap.above]
    · split
      · simp_all [SMap.above]
      · have := ih k' (by simp_all [SMap.above]) (by omega); simp_all [SMap.above]

theorem SMap.above_filter {w : Nat} (m : SMap w) (b : Nat) (p : Nat × BitVec w → Bool) (h : SMap.above m b = true) :
    SMap.above (m.filter p) b = true := by
  induction m generalizing b with
  | nil => rfl
  | cons e r ih =>
    obtain ⟨k', v'⟩ := e
    simp only [SMap.above, Bool.and_eq_true, decide_eq_true_eq] at h
    simp only [List.filter_cons]
    split
    · simp only [SMap.above, Bool.and_eq_true, decide_eq_true_eq]; exact ⟨h.1, ih k' h.2⟩
    · exact SMap.above_mono _ b k' (by omega) (ih k' h.2)

theorem SMap.wf_of_above {w : Nat} (m : SMap w) (b : Nat) (h : SMap.above m b = true) : SMap.wf m = true := by
  cases m with
  | nil => rfl
  | cons e r => obtain ⟨k, v⟩ := e; simp_all [SMap.above, SMap.wf]

theorem SMap.wf_put {w : Nat} (m : SMap w) (k : Nat) (v : BitVec w) (h : SMap.wf m = true) (hv : v ≠ 0) :
    SMap.wf (SMap.put m k v) = true := by
  cases m with
  | nil => simpa [SMap.put, SMap.wf, SMap.above] using hv
  | cons e r =>
    obtain ⟨k', v'⟩ := e
    simp only [SMap.put]
    split
    · simp_all [SMap.wf, SMap.above]
    · split
      · simp_all [SMap.wf]
      · have := SMap.above_put r k' k v (by simp_all [SMap.wf]) (by omega) hv; simp_all [SMap.wf]

theorem SMap.wf_filter {w : Nat} (m : SMap w) (p : Nat × BitVec w → Bool) (h : SMap.wf m = true) : SMap.wf (m.filter p) = true := by
  cases m with
  | nil => rfl
  | cons e r =>
    obtain ⟨k', v'⟩ := e
    simp only [SMap.wf, Bool.and_eq_true] at h
    simp only [List.filter_cons]
    split
    · simp only [SMap.wf, Bool.and_eq_true]; exact ⟨h.1, SMap.above_filter r k' p h.2⟩
    · exact SMap.wf_of_above _ k' (SMap.above_filter r k' p h.2)

/-- A write keeps the canonical form. -/
theorem SMap.wf_set {w : Nat} (m : SMap w) (k : Nat) (v : BitVec w) (h : SMap.wf m = true) : SMap.wf (SMap.set m k v) = true := by
  unfold SMap.set
  split
  · exact SMap.wf_filter m _ h
  · exact SMap.wf_put m k v h (by assumption)

/-- Dropping keys keeps it. -/
theorem SMap.wf_keep {w : Nat} (m : SMap w) (p : Nat → Bool) (h : SMap.wf m = true) : SMap.wf (SMap.keep m p) = true :=
  SMap.wf_filter m _ h

/-- Writing a run of values keeps it. -/
theorem SMap.wf_setList {w : Nat} (vs : List (BitVec w)) (m : SMap w) (k : Nat) (h : SMap.wf m = true) :
    SMap.wf (SMap.setList m k vs) = true := by
  induction vs generalizing m k with
  | nil => exact h
  | cons v r ih => exact ih _ _ (SMap.wf_set m k v h)

/-- A run of values is read where it was written, and every other key is as before. -/
theorem SMap.get_setList {w : Nat} (vs : List (BitVec w)) (m : SMap w) (k j : Nat) :
    SMap.get (SMap.setList m k vs) j = if k ≤ j ∧ j < k + vs.length then vs.getD (j - k) 0 else SMap.get m j := by
  induction vs generalizing m k with
  | nil => simp only [SMap.setList, List.length_nil]; rw [if_neg (by omega)]
  | cons v r ih =>
    simp only [SMap.setList, ih, SMap.get_set, List.length_cons]
    by_cases hj : j = k
    · subst hj; rw [if_neg (by omega), if_pos rfl, if_pos (by omega)]; simp
    · by_cases h1 : k + 1 ≤ j ∧ j < k + 1 + r.length
      · rw [if_pos h1, if_pos (by omega)]
        obtain ⟨d, rfl⟩ : ∃ d, j = k + 1 + d := ⟨j - (k + 1), by omega⟩
        simp [Nat.add_sub_cancel_left, show k + 1 + d - k = d + 1 by omega]
      · rw [if_neg h1, if_neg hj, if_neg (by omega)]

/-! Records by key. -/

/-- A record table read after a write. -/
@[simp] theorem Tbl.get?_set {α : Type} (t : Tbl α) (k : Nat) (v : α) (j : Nat) :
    Tbl.get? (Tbl.set t k v) j = if j = k then some v else Tbl.get? t j := by
  induction t with
  | nil => simp [Tbl.set, Tbl.get?]
  | cons e r ih =>
    obtain ⟨k', v'⟩ := e
    simp only [Tbl.set]
    split
    · simp [Tbl.get?]
    · split
      · subst_vars; simp only [Tbl.get?]; split <;> simp_all
      · simp only [Tbl.get?, ih]; split
        · subst_vars; rw [if_neg (by omega)]
        · rfl

/-- A record table read after a change of one record. -/
@[simp] theorem Tbl.get?_modify {α : Type} (t : Tbl α) (k : Nat) (f : α → α) (j : Nat) :
    Tbl.get? (Tbl.modify t k f) j = if j = k then (Tbl.get? t k).map f else Tbl.get? t j := by
  induction t with
  | nil => simp [Tbl.modify, Tbl.get?]
  | cons e r ih =>
    obtain ⟨k', v'⟩ := e
    simp only [Tbl.modify]
    split
    · subst_vars; simp only [Tbl.get?]; split <;> simp_all
    · simp only [Tbl.get?, ih]; split
      · subst_vars; rw [if_neg (by omega)]
      · rfl

/-- A record table read after a removal. -/
@[simp] theorem Tbl.get?_erase {α : Type} (t : Tbl α) (k j : Nat) :
    Tbl.get? (Tbl.erase t k) j = if j = k then none else Tbl.get? t j := by
  unfold Tbl.erase
  induction t with
  | nil => simp [Tbl.get?]
  | cons e r ih =>
    obtain ⟨k', v'⟩ := e
    by_cases h : k' = k <;> by_cases hj : j = k' <;> simp_all [Tbl.get?]

/-- Two changes of the record at a key are one where they agree on it. -/
theorem Tbl.modify_congr {α : Type} (t : Tbl α) (k : Nat) (f g : α → α) (v : α) (h : Tbl.get? t k = some v) (e : f v = g v) :
    Tbl.modify t k f = Tbl.modify t k g := by
  induction t with
  | nil => rfl
  | cons x r ih =>
    obtain ⟨k', v'⟩ := x
    simp only [Tbl.modify, Tbl.get?] at *
    split at h
    · subst_vars; simp_all
    · simp_all

/-- Two changes one after the other. -/
@[simp] theorem Tbl.modify_modify {α : Type} (t : Tbl α) (k : Nat) (f g : α → α) :
    Tbl.modify (Tbl.modify t k f) k g = Tbl.modify t k fun x => g (f x) := by
  induction t with
  | nil => rfl
  | cons x r ih => obtain ⟨k', v'⟩ := x; simp only [Tbl.modify]; split <;> simp_all [Tbl.modify]

/-- A change where no record stands changes nothing. -/
theorem Tbl.modify_none {α : Type} (t : Tbl α) (k : Nat) (f : α → α) (h : Tbl.get? t k = none) : Tbl.modify t k f = t := by
  induction t with
  | nil => rfl
  | cons x r ih =>
    obtain ⟨k', v'⟩ := x
    simp only [Tbl.modify, Tbl.get?] at *
    split at h <;> simp_all

/-- A change that changes nothing. -/
theorem Tbl.modify_self {α : Type} (t : Tbl α) (k : Nat) (v : α) (h : Tbl.get? t k = some v) :
    Tbl.modify t k (fun _ => v) = t := by
  induction t with
  | nil => rfl
  | cons x r ih =>
    obtain ⟨k', v'⟩ := x
    simp only [Tbl.modify, Tbl.get?] at *
    split at h <;> simp_all

/-! Positions of a list. -/

theorem nth_modifyAt {α : Type} (l : List α) (i j : Nat) (f : α → α) (d : α) (h : i < l.length) :
    nth (modifyAt l i f) j d = if j = i then f (nth l i d) else nth l j d := by
  induction l generalizing i j with
  | nil => simp at h
  | cons x r ih =>
    cases i with
    | zero => cases j <;> simp [modifyAt, nth]
    | succ i => cases j with
      | zero => simp [modifyAt, nth]
      | succ j => simp [modifyAt, nth, ih i j (by simpa using h)]

end Sys2Proof.Machine
end

