-- ==== Sys2Proof/Laws/Lane.lean ====
section
/-! SUPPORT. The laws of an instruction that issues, and of the frame that lane instructions share. -/

namespace Sys2Proof.Machine

/-! The issuing fibre. -/

/-- The issuing group is resident with what `here` read of it. -/
theorem here_group {s : State} {h : Here} (e : s.here = some h) : Tbl.get? s.groups h.gid = some h.g := by
  unfold State.here at e
  split at e
  · cases e
  · split at e <;> try cases e
    split at e <;> try cases e
    split at e <;> cases e
    assumption

/-- The issuing fibre is the group's current one. -/
theorem here_fibre {s : State} {h : Here} (e : s.here = some h) : Tbl.get? h.g.fibres h.fid = some h.f := by
  unfold State.here at e
  split at e
  · cases e
  · split at e <;> try cases e
    split at e <;> try cases e
    split at e <;> cases e
    assumption

/-- The block of the issuing group. -/
theorem here_block {s : State} {h : Here} (e : s.here = some h) : Tbl.get? s.blocks (bsnOf h.gid) = some h.b := by
  unfold State.here at e
  split at e
  · cases e
  · split at e <;> try cases e
    split at e <;> try cases e
    split at e <;> cases e
    assumption

/-- Its context. -/
theorem here_ctx {s : State} {h : Here} (e : s.here = some h) : Tbl.get? s.ctxs h.cid = some h.c := by
  unfold State.here at e
  split at e
  · cases e
  · split at e <;> try cases e
    split at e <;> try cases e
    split at e <;> cases e
    assumption

theorem issue_here {s : State} {h : Here} (k : Here → State) (e : s.here = some h) : issue s k = .next (k h) := by
  simp [issue, e]

/-- A group's instruction with no static cause goes on to its effect. -/
theorem checked_legal {s : State} {h : Here} {causes : List Nat} {svc : Bool} (msk len : Nat) (k : State)
    (e : Legal s h causes svc) : checked s h causes svc msk len k = k := by
  obtain ⟨_, rfl, hs⟩ := e
  cases svc <;> simp_all [checked, cause, minCause]

/-- With nothing due to a named register the instruction runs on the state as it is. -/
theorem withRegs_free {s : State} {h : Here} {n : Named} (k : State → Here → State) (e : s.here = some h) (f : RegsFree s h n) :
    withRegs s h n k = k s h := by
  simp [withRegs, settleNamed, f.1, f.2.1, f.2.2, e]

/-- A ready fragment is acquired with no change. -/
theorem acquire_ready {s : State} {h : Here} {u : Nat} (f : FragReady s h u) : acquireFragment s h u = .ok s := by
  obtain ⟨a, b, c, d, e, g⟩ := f
  simp only [acquireFragment, d, a, b, e, g]
  simp
  omega

/-- An instruction whose fragment, where it reads one, is ready goes on at once (R115). -/
theorem withFragment_ready {s : State} {h : Here} {p : Option Prefix} (msk len : Nat) (k : State → State)
    (f : readsFragment p = true → FragReady s h (fragOf p).1) : withFragment s h p msk len k = k s := by
  unfold withFragment
  split
  · rename_i hr; rw [acquire_ready (f hr)]
  · rfl

/-- A change of the issuing group that keeps all but its registers. -/
theorem goesOn_of {s : State} {h : Here} (g : Group) (len : Nat) (e : s.here = some h) (hg : g = { h.g with regs := g.regs }) :
    h.advance (modGroup s h.gid fun _ => g) len = s.goesOn h g.regs len := by
  unfold State.goesOn
  congr 1
  unfold modGroup
  rw [Tbl.modify_congr s.groups h.gid _ (fun g' => { g' with regs := g.regs }) h.g (here_group e) hg]

/-- The same for a change written over the group as it stands. -/
theorem goesOn_fun {s : State} {h : Here} (k : Group → Group) (len : Nat) (e : s.here = some h)
    (hk : k h.g = { h.g with regs := (k h.g).regs }) :
    h.advance (modGroup s h.gid k) len = s.goesOn h (k h.g).regs len := by
  unfold State.goesOn
  congr 1
  unfold modGroup
  rw [Tbl.modify_congr s.groups h.gid k (fun g' => { g' with regs := (k h.g).regs }) h.g (here_group e) hk]

/-- An instruction that only goes on. -/
theorem goesOn_self {s : State} {h : Here} (len : Nat) (e : s.here = some h) : h.advance s len = s.goesOn h h.g.regs len := by
  unfold State.goesOn
  congr 1
  unfold modGroup
  rw [Tbl.modify_congr s.groups h.gid _ (fun _ => h.g) h.g (here_group e) rfl, Tbl.modify_self _ _ _ (here_group e)]

/-! Registers of a group. -/

@[simp] theorem setVreg_sreg (g : Group) (r l : Nat) (v : W32) : (setVreg g r l v).regs.sreg = g.regs.sreg := rfl
@[simp] theorem setVreg_kreg (g : Group) (r l : Nat) (v : W32) : (setVreg g r l v).regs.kreg = g.regs.kreg := rfl
@[simp] theorem setVreg_ring (g : Group) (r l : Nat) (v : W32) : (setVreg g r l v).regs.ring = g.regs.ring := rfl
@[simp] theorem setVreg_hv (g : Group) (r l : Nat) (v : W32) : (setVreg g r l v).regs.hv = g.regs.hv := rfl
@[simp] theorem setSreg_vreg (g : Group) (n : Nat) (v : W64) : (setSreg g n v).regs.vreg = g.regs.vreg := rfl
@[simp] theorem setSreg_kreg (g : Group) (n : Nat) (v : W64) : (setSreg g n v).regs.kreg = g.regs.kreg := rfl
@[simp] theorem setSreg_ring (g : Group) (n : Nat) (v : W64) : (setSreg g n v).regs.ring = g.regs.ring := rfl
@[simp] theorem setSreg_hv (g : Group) (n : Nat) (v : W64) : (setSreg g n v).regs.hv = g.regs.hv := rfl
@[simp] theorem getSreg_setSreg (g : Group) (n : Nat) (v : W64) (m : Nat) :
    getSreg (setSreg g n v) m = if m = n then v else getSreg g m := by simp [getSreg, setSreg]

theorem key_eq {r r' l l' : Nat} (h : l < 64) (h' : l' < 64) : r * 64 + l = r' * 64 + l' ↔ r = r' ∧ l = l' := by omega

theorem getVreg_setVreg (g : Group) (r l : Nat) (v : W32) (r' l' : Nat) (h : l < 64) (h' : l' < 64) :
    getVreg (setVreg g r l v) r' l' = if r' = r ∧ l' = l then v else getVreg g r' l' := by
  simp [getVreg, setVreg, key_eq h' h]

/-- A group that differs in its registers only. -/
def SameButRegs (g g' : Group) : Prop :=
  g' = { g with regs := g'.regs } ∧ g'.regs.sreg = g.regs.sreg ∧ g'.regs.kreg = g.regs.kreg ∧ g'.regs.ring = g.regs.ring
    ∧ g'.regs.hv = g.regs.hv

theorem SameButRegs.trans {a b c : Group} (x : SameButRegs a b) (y : SameButRegs b c) : SameButRegs a c := by
  obtain ⟨x, x1, x2, x3, x4⟩ := x
  obtain ⟨y, y1, y2, y3, y4⟩ := y
  refine ⟨?_, y1.trans x1, y2.trans x2, y3.trans x3, y4.trans x4⟩
  rw [y, x]

theorem putElem_same (g : Group) (wide : Bool) (reg lane v : Nat) : SameButRegs g (putElem g wide reg lane v) := by
  cases wide <;> simp [putElem, SameButRegs, setVreg]

theorem writeLanes_same (lanes : List Nat) (g : Group) (wide : Bool) (reg : Nat) (act : W64) (zro : Bool) (res : Nat → Nat) :
    SameButRegs g (writeLanes g wide reg act zro res lanes) := by
  induction lanes generalizing g with
  | nil => simp [writeLanes, SameButRegs]
  | cons l r ih =>
    simp only [writeLanes]
    refine SameButRegs.trans ?_ (ih _)
    split
    · exact putElem_same _ _ _ _ _
    · split
      · exact putElem_same _ _ _ _ _
      · simp [SameButRegs]

theorem getVreg_putElem (g : Group) (wide : Bool) (reg lane v r l : Nat) (hl : lane < 64) (h : l < 64) :
    getVreg (putElem g wide reg lane v) r l =
      if l = lane ∧ r = reg then BitVec.ofNat 32 v
      else if l = lane ∧ wide = true ∧ r = reg + 1 then BitVec.ofNat 32 (v / 2 ^ 32) else getVreg g r l := by
  cases wide
  · simp only [putElem, Bool.false_eq_true, if_false, getVreg_setVreg _ _ _ _ _ _ hl h]
    simp [and_comm]
  · simp only [putElem, if_true, getVreg_setVreg _ _ _ _ _ _ hl h]
    by_cases h1 : l = lane
    · by_cases h2 : r = reg
      · simp [h1, h2]
      · simp [h1, h2]
    · simp [h1]

/-- The elements a lane instruction leaves, register by register. -/
theorem getVreg_writeLanes (lanes : List Nat) (g : Group) (wide : Bool) (reg : Nat) (act : W64) (zro : Bool) (res : Nat → Nat)
    (r l : Nat) (hl : ∀ x ∈ lanes, x < 64) (h : l < 64) :
    getVreg (writeLanes g wide reg act zro res lanes) r l =
      if l ∈ lanes ∧ (r = reg ∨ (wide = true ∧ r = reg + 1)) then
        if inSet act l then (if r = reg then BitVec.ofNat 32 (res l) else BitVec.ofNat 32 (res l / 2 ^ 32))
        else if zro then 0 else getVreg g r l
      else getVreg g r l := by
  induction lanes generalizing g with
  | nil => simp [writeLanes]
  | cons x rest ih =>
    simp only [writeLanes]
    rw [ih _ fun y hy => hl y (List.mem_cons_of_mem _ hy)]
    have hx : x < 64 := hl x List.mem_cons_self
    have hp := fun v => getVreg_putElem g wide reg x v r l hx h
    by_cases hlx : l = x
    · by_cases hd : r = reg ∨ (wide = true ∧ r = reg + 1)
      · have hm : (l ∈ x :: rest ∧ (r = reg ∨ (wide = true ∧ r = reg + 1))) := ⟨by simp [hlx], hd⟩
        rw [if_pos hm]
        subst hlx
        cases ha : inSet act l <;> cases hz : zro <;> by_cases hr : r = reg <;> simp_all
      · have hm : ¬(l ∈ x :: rest ∧ (r = reg ∨ (wide = true ∧ r = reg + 1))) := fun e => hd e.2
        have hm' : ¬(l ∈ rest ∧ (r = reg ∨ (wide = true ∧ r = reg + 1))) := fun e => hd e.2
        rw [if_neg hm, if_neg hm']
        subst hlx
        cases ha : inSet act l <;> cases hz : zro <;> simp_all
    · have hg : ∀ v, getVreg (putElem g wide reg x v) r l = getVreg g r l := fun v => by
        rw [hp, if_neg fun e => hlx e.1, if_neg fun e => hlx e.1]
      have hm : l ∈ x :: rest ↔ l ∈ rest := by simp [hlx]
      simp only [hm]
      cases ha : inSet act x <;> cases hz : zro <;> simp_all

theorem mem_laneNos {w l : Nat} : l ∈ laneNos w ↔ l < w ∧ l < 64 := by
  simp only [laneNos, List.mem_range]; omega

theorem get_lanes_list (v : Nat → Nat) (l : Nat) (L : List Nat) :
    SMap.get (L.filterMap fun l => let x := BitVec.ofNat 64 (v l); if x = 0 then none else some (l, x)) l =
      if l ∈ L then BitVec.ofNat 64 (v l) else 0 := by
  induction L with
  | nil => simp [SMap.get]
  | cons x r ih =>
    by_cases hx : BitVec.ofNat 64 (v x) = 0
    · by_cases hl : l = x
      · subst hl
        simp only [List.filterMap_cons, hx, if_true, ih]
        simp
      · simp only [List.filterMap_cons, hx, if_true, ih]
        simp [hl]
    · by_cases hl : l = x
      · subst hl
        simp only [List.filterMap_cons, hx, if_false, SMap.get, if_true]
        simp
      · simp only [List.filterMap_cons, hx, if_false, SMap.get, ih]
        simp [hl]

/-- A pushed latch holds its value in the lanes 0 to W − 1. -/
theorem get_latchMap (w : Nat) (v : Nat → Nat) (l : Nat) :
    SMap.get (latchMap w v) l = if l < w ∧ l < 64 then BitVec.ofNat 64 (v l) else 0 := by
  unfold latchMap
  rw [get_lanes_list]
  simp only [mem_laneNos]

theorem elem_two (x : Nat) : (BitVec.ofNat 32 x).toNat + (BitVec.ofNat 32 (x / 2 ^ 32)).toNat * 2 ^ 32 = x % 2 ^ 64 := by
  simp only [BitVec.toNat_ofNat]; omega

/-- What a lane instruction writes (R91, R94). -/
theorem laneGroup_writes (j : LaneJob) (h : Here) (res : Nat → Nat) :
    laneGroup j h res h.g = { h.g with regs := (laneGroup j h res h.g).regs } ∧ LaneWrites j h res (laneGroup j h res h.g).regs := by
  dsimp only [laneGroup]
  generalize hg : (if j.nw then h.g else
    writeLanes h.g j.td.wide (h.f.wb * 8 + j.vd.toNat) (h.act j.msk) (zroOf j.pfx) res (laneNos h.g.w)) = g
  have hs : SameButRegs h.g g := by
    subst hg; split
    · simp [SameButRegs]
    · exact writeLanes_same _ _ _ _ _ _ _
  have hv : ∀ r l, l < 64 → getVreg g r l =
      if (l < h.g.w ∧ l < 64) ∧ (r = h.f.wb * 8 + j.vd.toNat ∨ (j.td.wide = true ∧ r = h.f.wb * 8 + j.vd.toNat + 1)) then
        if j.nw then getVreg h.g r l
        else if inSet (h.act j.msk) l then
          (if r = h.f.wb * 8 + j.vd.toNat then BitVec.ofNat 32 (res l) else BitVec.ofNat 32 (res l / 2 ^ 32))
        else if zroOf j.pfx then 0 else getVreg h.g r l
      else getVreg h.g r l := by
    intro r l hl
    subst hg
    cases hn : j.nw
    · simp only [Bool.false_eq_true, if_false]
      rw [getVreg_writeLanes _ _ _ _ _ _ _ _ _ (fun x hx => (mem_laneNos.1 hx).2) hl]
      simp only [mem_laneNos]
    · simp
  have he : ∀ l, l < h.g.w → l < 64 → g.regs.elem j.td.wide (h.f.wb * 8 + j.vd.toNat) l =
      if j.nw then h.g.regs.elem j.td.wide (h.f.wb * 8 + j.vd.toNat) l
      else if inSet (h.act j.msk) l then res l % 2 ^ elemBits j.td.wide
      else if zroOf j.pfx then 0 else h.g.regs.elem j.td.wide (h.f.wb * 8 + j.vd.toNat) l := by
    intro l hw hl
    have a := hv (h.f.wb * 8 + j.vd.toNat) l hl
    have b := hv (h.f.wb * 8 + j.vd.toNat + 1) l hl
    cases hwd : j.td.wide <;> cases hn : j.nw <;> cases ha : inSet (h.act j.msk) l <;> cases hz : zroOf j.pfx <;>
      simp_all [Regs.elem, Regs.vec, getVreg, elemBits] <;> omega
  have hw0 : g.w = h.g.w := by rw [hs.1]
  rw [hw0]
  refine ⟨?_, ?_, ?_, ?_⟩
  · obtain ⟨h1, _⟩ := hs
    simp only [pushRing]
    rw [h1]
  · obtain ⟨_, h2, h3, h4, h5⟩ := hs
    refine ⟨h2, h3, h5, ?_⟩
    intro reg lane hl hor
    have := hv reg lane hl
    rw [if_neg] at this
    · exact this
    · rintro ⟨⟨hw, _⟩, hr⟩
      rcases hor with hor | ⟨h1, h2⟩
      · omega
      · rcases hr with hr | ⟨hr1, hr2⟩
        · exact h1 hr
        · exact h2 hr1 hr2
  · intro l hw hl
    exact he l hw hl
  · refine ⟨_, by obtain ⟨_, _, _, h4, _⟩ := hs; simp only [pushRing, h4]; rfl, ?_⟩
    intro l hw hl
    simp only [latchAfter, get_latchMap, hw, hl, and_self, if_true]
    congr 1
    split
    · rfl
    · rename_i ha
      cases hn : j.nw
      · cases hz : zroOf j.pfx
        · have h1 := he l hw hl
          have h2 : getElem g j.td.wide (h.f.wb * 8 + j.vd.toNat) l = g.regs.elem j.td.wide (h.f.wb * 8 + j.vd.toNat) l := rfl
          rw [h2, h1]
          simp [hn, hz, ha]
        · simp
      · simp

/-- A lane instruction's end, the issuing group being as `h` read it. -/
theorem laneFinish_goesOn (j : LaneJob) (s : State) (h : Here) (res : Nat → Nat) (e : s.here = some h) :
    laneFinish j s h res = s.goesOn h (laneGroup j h res h.g).regs j.len :=
  goesOn_fun _ _ e (laneGroup_writes j h res).1

theorem laneFinish_writes (j : LaneJob) (s : State) (h : Here) (res : Nat → Nat) (e : s.here = some h) :
    ∃ r, laneFinish j s h res = s.goesOn h r j.len ∧ LaneWrites j h res r :=
  ⟨_, laneFinish_goesOn j s h res e, (laneGroup_writes j h res).2⟩

/-- A lane instruction that is ready passes its checks (R94). -/
theorem laneChecks_ready {j : LaneJob} {dst : Bool} {s : State} {h : Here} (k : State → Here → State) (e : LaneReady j dst s h) :
    laneChecks j s h dst none k = k s h := by
  obtain ⟨⟨hh, _, _⟩, ⟨hw, hb⟩, hf, ha⟩ := e
  simp [laneChecks, hw, hb, withFragment_ready _ _ _ ha, withRegs_free k hh hf]

/-- A lane instruction that is ready ends with the registers of `laneGroup`. -/
theorem laneRun_eq {j : LaneJob} {s : State} {h : Here} (image : State → Here → Option Nat) (op : State → Here → Src → Nat → Nat)
    (e : LaneReady j true s h) (him : image s h = none) :
    laneRun s j image op = .next (s.goesOn h (laneGroup j h (op s h (j.src s h)) h.g).regs j.len) := by
  rw [laneRun, issue_here _ e.1.1, checked_legal _ _ _ e.1, him, laneChecks_ready _ e, laneFinish_goesOn _ _ _ _ e.1.1]

/-- A lane instruction that is ready writes its result and goes on; nothing else changes (R94). -/
theorem laneRun_ready {j : LaneJob} {s : State} {h : Here} (image : State → Here → Option Nat) (op : State → Here → Src → Nat → Nat)
    (e : LaneReady j true s h) (him : image s h = none) :
    ∃ r, laneRun s j image op = .next (s.goesOn h r j.len) ∧ LaneWrites j h (op s h (j.src s h)) r :=
  ⟨_, laneRun_eq image op e him, (laneGroup_writes j h _).2⟩

/-! Elements of packed values (R20, R94). -/

theorem width_cases (t : Ty) : t.width = 8 ∨ t.width = 16 ∨ t.width = 32 ∨ t.width = 64 := by cases t <;> simp [Ty.width]

theorem packedAt_lt (n k x : Nat) : packedAt n k x < 2 ^ n := Nat.mod_lt _ (Nat.two_pow_pos n)

/-- An element-wise operation gives each element the operation of the elements (R94). -/
theorem perElem_packed {n : Nat} (op : Nat → Nat → Nat → Nat) {a b c : Nat} (hn : n = 8 ∨ n = 16 ∨ n = 32 ∨ n = 64)
    (ha : a < 2 ^ max 32 n) (hb : b < 2 ^ max 32 n) (hc : c < 2 ^ max 32 n) : Packed n op a b c (perElem n op a b c) := by
  intro k hk
  rcases hn with rfl | rfl | rfl | rfl
  · have hk4 : k = 0 ∨ k = 1 ∨ k = 2 ∨ k = 3 := by omega
    have h1 : ∀ x y z, op x y z % 256 < 256 := fun x y z => Nat.mod_lt _ (by decide)
    have q0 := h1 (a % 256) (b % 256) (c % 256)
    have q1 := h1 (a / 256 % 256) (b / 256 % 256) (c / 256 % 256)
    have q2 := h1 (a / 65536 % 256) (b / 65536 % 256) (c / 65536 % 256)
    have q3 := h1 (a / 16777216 % 256) (b / 16777216 % 256) (c / 16777216 % 256)
    rcases hk4 with rfl | rfl | rfl | rfl <;> simp [packedAt, perElem] <;> omega
  · have hk2 : k = 0 ∨ k = 1 := by omega
    have h1 : ∀ x y z, op x y z % 65536 < 65536 := fun x y z => Nat.mod_lt _ (by decide)
    have q0 := h1 (a % 65536) (b % 65536) (c % 65536)
    have q1 := h1 (a / 65536 % 65536) (b / 65536 % 65536) (c / 65536 % 65536)
    rcases hk2 with rfl | rfl <;> simp [packedAt, perElem] <;> omega
  · obtain rfl : k = 0 := by omega
    simp only [packedAt, perElem, Nat.mul_zero, Nat.pow_zero, Nat.div_one, Nat.mod_mod]
    rw [Nat.mod_eq_of_lt (a := a) (by simpa using ha), Nat.mod_eq_of_lt (a := b) (by simpa using hb),
      Nat.mod_eq_of_lt (a := c) (by simpa using hc)]
  · obtain rfl : k = 0 := by omega
    simp only [packedAt, perElem, Nat.mul_zero, Nat.pow_zero, Nat.div_one, Nat.mod_mod]
    rw [Nat.mod_eq_of_lt (a := a) (by simpa using ha), Nat.mod_eq_of_lt (a := b) (by simpa using hb),
      Nat.mod_eq_of_lt (a := c) (by simpa using hc)]

theorem pack_lt (t : Ty) (x : Nat) : pack t.width x < 2 ^ max 32 t.width := by
  rcases width_cases t with h | h | h | h <;> rw [h] <;> simp only [pack]
  · have : x % 256 < 256 := Nat.mod_lt _ (by decide)
    simp; omega
  · have : x % 65536 < 65536 := Nat.mod_lt _ (by decide)
    simp; omega
  · exact Nat.mod_lt _ (by decide)
  · exact Nat.mod_lt _ (by decide)

theorem wide_width (t : Ty) : t.wide = (t.width == 64) := rfl

/-- A source element fits the register or pair that holds it. -/
theorem selLane_lt (h : Here) (p : Option Prefix) (t : Ty) (c : Byte) (l : Nat) : selLane h p t c l < 2 ^ max 32 t.width := by
  have hm : (if t.wide then 2 ^ 64 else 2 ^ 32) = 2 ^ max 32 t.width := by
    rcases width_cases t with e | e | e | e <;> simp [wide_width, e]
  have hct : ∀ n, constTyped t n < 2 ^ max 32 t.width := by
    intro n; unfold constTyped; split <;> exact pack_lt _ _
  simp only [selLane, hm]
  have hp : 0 < 2 ^ max 32 t.width := Nat.two_pow_pos _
  split
  · split
    · rename_i hw
      have e : t.width = 64 := by simpa [wide_width] using hw
      have := (getVreg h.g (h.f.wb * 8 + c.toNat) l).isLt
      have := (getVreg h.g (h.f.wb * 8 + c.toNat + 1) l).isLt
      rw [e, show max 32 64 = 64 from rfl]; omega
    · exact Nat.lt_of_lt_of_le (getVreg h.g _ l).isLt (Nat.pow_le_pow_right (by decide) (Nat.le_max_left _ _))
  · split
    · exact Nat.mod_lt _ hp
    · split
      · exact hct _
      · split
        · exact hct _
        · split
          · exact hp
          · split
            · omega
            · split
              · exact Nat.mod_lt _ hp
              · exact hct _

theorem fragElem_lt (s : State) (h : Here) (u f l n : Nat) : fragElem s h u f l < 2 ^ max 32 n :=
  Nat.lt_of_lt_of_le (SMap.get (coreOf s h.core).acc _).isLt (Nat.pow_le_pow_right (by decide) (Nat.le_max_left _ _))

/-- The sources of a lane instruction fit their elements. -/
theorem src_lt (j : LaneJob) (s : State) (h : Here) (l : Nat) :
    (j.src s h).a l < 2 ^ max 32 j.ta.width ∧ (j.src s h).b l < 2 ^ max 32 j.tb.width ∧ (j.src s h).c l < 2 ^ max 32 j.tc.width := by
  refine ⟨?_, ?_, ?_⟩
  · simp only [LaneJob.src]; split
    · exact fragElem_lt _ _ _ _ _ _
    · exact selLane_lt _ _ _ _ _
  · simp only [LaneJob.src]; split
    · exact selLane_lt _ _ _ _ _
    · exact Nat.two_pow_pos _
  · simp only [LaneJob.src]; split
    · exact selLane_lt _ _ _ _ _
    · exact Nat.two_pow_pos _

/-! Lane sets and compares. -/

theorem inSet_oneLane {n l : Nat} (h : l < 64) : inSet (oneLane n) l = decide (l = n) := by
  simp only [inSet, oneLane]
  rw [BitVec.getLsbD_ofNat, Nat.testBit_two_pow]
  simp [h, eq_comm]

/-- A lane is in the set of the lanes that satisfy a test. -/
theorem inSet_laneSet (n : Nat) (p : Nat → Bool) {l : Nat} (h : l < 64) : inSet (laneSet n p) l = (decide (l < n) && p l) := by
  induction n with
  | zero => simp [laneSet, inSet]
  | succ n ih =>
    have hs : (l < n + 1) ↔ l < n ∨ l = n := by omega
    by_cases hl : l = n
    · subst hl
      cases hp : p l
      · simp only [laneSet, hp, Bool.false_eq_true, if_false, ih]; simp
      · simp only [laneSet, hp, if_true]
        have : inSet (laneSet l p ||| oneLane l) l = (inSet (laneSet l p) l || inSet (oneLane l) l) := by simp [inSet]
        rw [this, inSet_oneLane h]; simp
    · have h1 : inSet (oneLane n) l = false := by simp [inSet_oneLane h, hl]
      have : inSet (laneSet n p ||| oneLane n) l = (inSet (laneSet n p) l || inSet (oneLane n) l) := by simp [inSet]
      simp only [laneSet]
      split
      · rw [this, h1, ih]; simp [hs, hl]
      · rw [ih]; simp [hs, hl]

theorem inSet_lanesOf (w : Nat) {l : Nat} (h : l < 64) : inSet (lanesOf w) l = decide (l < w) := by
  simp only [inSet, lanesOf]
  rw [BitVec.getLsbD_ofNat, Nat.testBit_two_pow_sub_one]
  simp [h]

theorem inSet_and (a b : W64) (l : Nat) : inSet (a &&& b) l = (inSet a l && inSet b l) := by simp [inSet]

/-- A compare that is ready writes its mask and its latch and goes on (R103). -/
theorem cmpRun_eq {j : LaneJob} {s : State} {h : Here} (kd : Nat) (cond : Nat → Nat → Bool) (e : LaneReady j false s h) :
    cmpRun j kd cond s = .next (s.goesOn h
      (pushRing (setMask h.g kd (cmpMask h.g.w (h.act j.msk) (h.g.maskOf kd) (zroOf j.pfx)
          fun l => cond ((j.src s h).a l) ((j.src s h).b l)))
        (latchMap h.g.w fun l =>
          if inSet (h.act j.msk) l && cond ((j.src s h).a l) ((j.src s h).b l) then 0xFFFFFFFF else 0)).regs j.len) := by
  rw [cmpRun, issue_here _ e.1.1, checked_legal _ _ _ e.1, laneChecks_ready _ e]
  dsimp only
  rw [goesOn_of _ _ e.1.1 rfl]
  rfl

/-- Its mask, bit by bit. -/
theorem inSet_cmpMask (g : Group) (kd : Nat) (act old : W64) (zro : Bool) (c : Nat → Bool) {l : Nat} (h : l < 64) :
    inSet (SMap.get (setMask g kd (cmpMask g.w act old zro c)).regs.kreg kd) l =
      (decide (l < g.w) && if inSet act l then c l else !zro && inSet old l) := by
  simp only [setMask, SMap.get_set, if_true, cmpMask, inSet_and, inSet_laneSet _ _ h, inSet_lanesOf _ h]
  cases decide (l < g.w) <;> simp

end Sys2Proof.Machine
end

