-- ==== Sys2Proof/Laws/Scalar.lean ====
section
/-! SUPPORT. The laws of scalar and mask instructions. -/

namespace Sys2Proof.Machine

theorem setSreg_writes (g : Group) (n : Nat) (v : W64) : ScalarWrites n v g.regs (setSreg g n v).regs :=
  ⟨rfl, rfl, rfl, rfl, fun m => by simp [setSreg]⟩

/-- A scalar instruction that is ready writes sd and goes on. -/
theorem scalarRun_ready {causes : List Nat} {n : Named} {sd : Byte} {s : State} {h : Here} (len : Nat) (v : Here → W64)
    (e : ScalarReady s h causes { n with sregs := sd.toNat :: n.sregs }) :
    ∃ r, scalarRun causes len n sd v s = .next (s.goesOn h r len) ∧ ScalarWrites sd.toNat (v h) h.g.regs r := by
  refine ⟨_, ?_, setSreg_writes h.g sd.toNat (v h)⟩
  rw [scalarRun, issue_here _ e.1.1, checked_legal _ _ _ e.1, withRegs_free _ e.1.1 e.2, goesOn_fun _ _ e.1.1 rfl]

theorem setMask_writes (g : Group) (kd : Nat) (v : W64) : MaskWrites kd g.w v g.regs (setMask g kd v).regs := by
  refine ⟨rfl, rfl, rfl, rfl, fun k hk => by simp [setMask, hk], fun l hl => ?_⟩
  simp only [setMask, SMap.get_set, if_true, inSet_and, inSet_lanesOf _ hl]
  exact Bool.and_comm _ _

/-- A mask instruction that is ready writes kd and goes on. -/
theorem kRun_ready {fn : Nat} {f : KFmt} {n : Here → Named} {s : State} {h : Here} (v : Here → W64)
    (e : OnceReady s h (kCauses fn f) (n h)) :
    ∃ r, kRun fn f n v s = .next (s.goesOn h r (lenOf f.pfx)) ∧ MaskWrites f.kd.toNat h.g.w (v h) h.g.regs r := by
  refine ⟨_, ?_, setMask_writes h.g f.kd.toNat (v h)⟩
  obtain ⟨⟨hl, hf⟩, hw, hb⟩ := e
  rw [kRun, issue_here _ hl.1, checked_legal _ _ _ hl]
  simp only [hw, hb, Bool.false_eq_true, if_false]
  rw [withRegs_free _ hl.1 hf, goesOn_fun _ _ hl.1 rfl]

end Sys2Proof.Machine
end

