-- ==== Sys2Proof/Laws/Memory.lean ====
section
/-! SUPPORT. The laws of memory: the canonical form, reads after writes, what a translation changes, and memory instructions that are ready. -/

namespace Sys2Proof.Machine

/-! Bytes. -/

@[simp] theorem natLE_length (n w : Nat) : (natLE n w).length = n := by
  induction n generalizing w with
  | zero => rfl
  | succ n ih => simp [natLE, ih]

/-- Little-endian bytes read back. -/
theorem leNat_natLE (n w : Nat) : leNat (natLE n w) = w % 256 ^ n := by
  induction n generalizing w with
  | zero => simp [natLE, leNat, Nat.mod_one]
  | succ n ih =>
    simp only [natLE, leNat, ih, BitVec.toNat_ofNat]
    rw [show 256 ^ (n + 1) = 256 * 256 ^ n by rw [Nat.pow_succ, Nat.mul_comm], Nat.mod_mul]

/-- Bytes read at an address are the map's. -/
theorem SMap.getList_eq {w : Nat} (m : SMap w) (k n : Nat) : SMap.getList m k n = (List.range n).map fun i => SMap.get m (k + i) := by
  induction n generalizing k with
  | zero => rfl
  | succ n ih =>
    rw [SMap.getList, ih, List.range_succ_eq_map]
    simp only [List.map_cons, List.map_map, Nat.add_zero, List.cons.injEq, true_and]
    apply List.map_congr_left
    intro i _
    simp only [Function.comp, Nat.succ_eq_add_one]
    congr 1
    omega

/-- A write of bytes is read back. -/
theorem getList_setList {w : Nat} (m : SMap w) (k : Nat) (vs : List (BitVec w)) : SMap.getList (SMap.setList m k vs) k vs.length = vs := by
  rw [SMap.getList_eq]
  apply List.ext_getElem
  · simp
  · intro i h1 h2
    simp only [List.getElem_map, List.getElem_range, SMap.get_setList]
    simp only [List.length_map, List.length_range] at h1
    rw [if_pos (by omega)]
    simp [Nat.add_sub_cancel_left, List.getD_eq_getElem?_getD, List.getElem?_eq_getElem h1]

/-! Translation changes TLBs only (R273). -/

/-- What a check of an access leaves of the machine. -/
def TlbOnly (s t : State) : Prop := ∃ tl, t = s.withTlb tl

theorem TlbOnly.refl (s : State) : TlbOnly s s := ⟨s.mem.tlb, rfl⟩
theorem TlbOnly.trans {a b c : State} (x : TlbOnly a b) (y : TlbOnly b c) : TlbOnly a c := by
  obtain ⟨t, rfl⟩ := x
  obtain ⟨u, rfl⟩ := y
  exact ⟨u, rfl⟩

theorem tlbUse_only (s : State) (core : Nat) (e : TlbEntry) : TlbOnly s (tlbUse s core e) := ⟨_, rfl⟩

theorem translateRaw_only (s : State) (core cid : Nat) (c : Ctx) (va : Nat) (w x : Bool) :
    TlbOnly s (translateRaw s core cid c va w x).2 := by
  unfold translateRaw
  split
  · split
    · exact TlbOnly.refl s
    · exact tlbUse_only _ _ _
  · split
    · exact tlbUse_only _ _ _
    · exact TlbOnly.refl s

theorem translate_only (s : State) (core cid : Nat) (c : Ctx) (va : Nat) (w x : Bool) :
    TlbOnly s (translate s core cid c va w x).2 := by
  have h := translateRaw_only s core cid c va w x
  unfold translate
  split
  · rename_i e t he
    rw [he] at h
    split <;> exact h
  · exact h

theorem accessBy_only (tr : State → Nat → Xlat × State) (htr : ∀ s va, TlbOnly s (tr s va).2) (s : State) (va n : Nat) :
    TlbOnly s (accessBy tr s va n).2 := by
  have h1 := htr s va
  unfold accessBy
  split
  · rename_i e; rw [e] at h1; exact h1
  · rename_i e; rw [e] at h1; exact h1
  · rename_i e t he
    rw [he] at h1
    dsimp only
    split
    · exact h1
    · have h2 := htr t ((va + (partOf e va 0 n).n) % 2 ^ 64)
      split
      · rename_i he2; rw [he2] at h2; exact h1.trans h2
      · rename_i he2; rw [he2] at h2; exact h1.trans h2
      · rename_i he2; rw [he2] at h2
        repeat' split
        all_goals exact h1.trans h2

theorem checkVirtual_only (s : State) (core cid : Nat) (c : Ctx) (va n : Nat) (r w : Bool) :
    TlbOnly s (checkVirtual s core cid c va n r w).2 := by
  have h := accessBy_only (fun s va => translate s core cid c va w false) (fun s va => translate_only s core cid c va w false) s va n
  unfold checkVirtual accessParts
  split
  · rename_i he; rw [he] at h
    split <;> exact h
  · exact h

theorem checkOne_only (s : State) (h : Here) (sp al r w : Bool) (n ea : Nat) : TlbOnly s (checkOne s h sp al r w n ea).2 := by
  unfold checkOne
  split
  · repeat' split
    all_goals exact TlbOnly.refl s
  · split
    · exact TlbOnly.refl s
    · exact checkVirtual_only _ _ _ _ _ _ _ _

theorem scanLanes_only (h : Here) (sp al rd wr : Bool) (n : Nat) (ea : Nat → Nat) (lanes : List Nat) (r : Scan) :
    TlbOnly r.s (scanLanes h sp al rd wr n ea lanes r).s := by
  induction lanes generalizing r with
  | nil => exact TlbOnly.refl _
  | cons l t ih =>
    have h1 := checkOne_only r.s h sp al rd wr n (ea l)
    simp only [scanLanes]
    split <;> rename_i he <;> rw [he] at h1 <;> exact h1.trans (ih _)

/-- The checks of a memory instruction change TLBs only. -/
theorem scan_only (j : MemJob) (s : State) (h : Here) : TlbOnly s (j.scan s h).s := scanLanes_only h _ _ _ _ _ _ _ _

theorem scanLanes_clean (h : Here) (sp al rd wr : Bool) (n : Nat) (ea : Nat → Nat) (lanes : List Nat) (r : Scan)
    (hw : (scanLanes h sp al rd wr n ea lanes r).wait = false) (hb : (scanLanes h sp al rd wr n ea lanes r).bads = []) :
    r.bads = [] ∧ (scanLanes h sp al rd wr n ea lanes r).oks.map (fun l => (l.lane, l.ea)) =
      r.oks.map (fun l => (l.lane, l.ea)) ++ lanes.map fun l => (l, ea l) := by
  induction lanes generalizing r with
  | nil => exact ⟨hb, by simp [scanLanes]⟩
  | cons l t ih =>
    simp only [scanLanes] at hw hb ⊢
    cases hc : checkOne r.s h sp al rd wr n (ea l) with
    | mk c s' =>
      cases c with
      | ok ps =>
        simp only [hc] at hw hb ⊢
        obtain ⟨h1, h2⟩ := ih _ hw hb
        exact ⟨h1, by rw [h2]; simp⟩
      | fault cd b a =>
        simp only [hc] at hw hb
        have := (ih _ hw hb).1
        simp at this
      | wait =>
        exfalso
        simp only [hc] at hw
        have : ∀ (lanes : List Nat) (r : Scan), r.wait = true → (scanLanes h sp al rd wr n ea lanes r).wait = true := by
          intro lanes
          induction lanes with
          | nil => intro r hr; exact hr
          | cons l t ih => intro r hr; simp only [scanLanes]; split <;> exact ih _ (by simp [hr])
        rw [this t _ rfl] at hw
        cases hw

/-- Where no lane fails or waits, the active lanes go on, in order, each with its address (R164). -/
theorem scan_clean (j : MemJob) (s : State) (h : Here) (hw : (j.scan s h).wait = false) (hb : (j.scan s h).bads = []) :
    ((j.scan s h).oks.map fun l => (l.lane, l.ea)) = (laneList (h.act j.msk)).map fun l => (l, j.ea h l) := by
  have := (scanLanes_clean h j.sp j.align j.reads j.writes j.ty.bytes (j.ea h) (laneList (h.act j.msk))
    { s := s, oks := [], bads := [], wait := false } hw hb).2
  simpa [MemJob.scan] using this

/-- The scratchpad's checks change nothing. -/
theorem scan_scratch (j : MemJob) (s : State) (h : Here) (hsp : j.sp = true) : (j.scan s h).s = s := by
  have : ∀ (lanes : List Nat) (r : Scan),
      (scanLanes h true j.align j.reads j.writes j.ty.bytes (j.ea h) lanes r).s = r.s := by
    intro lanes
    induction lanes with
    | nil => intro r; rfl
    | cons l t ih =>
      intro r
      have hc : (checkOne r.s h true j.align j.reads j.writes j.ty.bytes (j.ea h l)).2 = r.s := by
        simp only [checkOne, if_true]
        repeat' split
        all_goals rfl
      simp only [scanLanes]
      split <;> rename_i he <;> rw [he] at hc <;> rw [ih, ← hc]
  simp only [MemJob.scan, hsp, this]

/-- A memory instruction that is ready has its effect on the state after its translations, and goes on. -/
theorem memRun_ready {j : MemJob} {svc : Bool} {s : State} {h : Here} (eff : State → Here → List LaneOk → State) (e : MemReady j svc s h) :
    memRun j svc eff s = .next (h.advance (eff (j.scan s h).s h (j.scan s h).oks) j.len) := by
  obtain ⟨hl, ⟨hw, hb⟩, hf, hs, hbd, hr, hst⟩ := e
  rw [memRun, issue_here _ hl.1]
  dsimp only
  rw [checked_legal _ _ _ hl]
  simp only [hw, hb, Bool.false_eq_true, if_false]
  rw [withRegs_free _ hl.1 hf]
  simp only [MemJob.touches] at hr
  have ht : (if (j.reads && !j.sp) = true then beforeLoads (j.scan s h).s h (j.scan s h).oks else (j.scan s h).s) = (j.scan s h).s := by
    split
    · rename_i hc
      rw [beforeLoads, if_neg]
      simp only [Bool.and_eq_true, Bool.not_eq_true'] at hc
      simp only [MemJob.stalls, hc.1, hc.2, Bool.not_false, Bool.true_and, Bool.or_eq_false_iff] at hst
      simpa [loadsWait] using hst.1
    · rfl
  simp only [hs, hr, hbd, ht, hst, Bool.or_false, Bool.false_eq_true, if_false, parkBads]

end Sys2Proof.Machine
end

