-- ==== Sys2Proof/Laws/Control.lean ====
section
/-! SUPPORT. The laws of control, handler and once-per-issue instructions, and of finishing a group's accesses. -/

namespace Sys2Proof.Machine

theorem settleList_none (p : Acc → Bool) (l : List Pend) (s : State)
    (h : ∀ a, Pend.acc a ∈ l → p a = false) (ht : ∀ x, Pend.tex x ∈ l → x.reads.any p = false) :
    settleList p l s = { s with mem := { s.mem with pend := s.mem.pend ++ l } } := by
  induction l generalizing s with
  | nil => simp [settleList]
  | cons q r ih =>
    have hr : ∀ a, Pend.acc a ∈ r → p a = false := fun a ha => h a (List.mem_cons_of_mem _ ha)
    have hx : ∀ x, Pend.tex x ∈ r → x.reads.any p = false := fun x hx => ht x (List.mem_cons_of_mem _ hx)
    cases q with
    | acc a =>
      have : p a = false := h a List.mem_cons_self
      simp [settleList, this, ih _ hr hx]
    | tex x => simp only [settleList, ht x List.mem_cons_self, Bool.false_eq_true, if_false, ih _ hr hx]; simp
    | signal _ _ _ _ => simp [settleList, ih _ hr hx]
    | event _ _ _ => simp [settleList, ih _ hr hx]
    | barrier _ _ _ _ => simp [settleList, ih _ hr hx]

/-- With nothing of a group in flight, finishing its accesses changes nothing. -/
theorem drainGroup_quiet {s : State} {gid : Nat} (h : inFlight s (fun a => a.gid == gid) = false) : drainGroup s gid = s := by
  unfold drainGroup settle
  rw [settleList_none]
  · simp
  · intro a ha
    simp only [inFlight, Bool.or_eq_false_iff] at h
    have := List.any_eq_false.1 h.2 _ ha
    simpa using this
  · intro x hx
    simp only [inFlight, Bool.or_eq_false_iff] at h
    have := List.any_eq_false.1 h.2 _ hx
    simpa using this

/-- A control instruction that is ready has its effect, loses the latches and comes to a switch point. -/
theorem ctlRun_ready {causes : List Nat} {p : Option Prefix} {n : Here → Named} {wbad : Here → Bool} {y : Bool}
    {k : State → Here → Nat → Except Nat Group} {s : State} {h : Here} (g : Group) (e : OnceReady s h causes (n h)) (hw : wbad h = false)
    (hk : k s h (lenOf p) = .ok g) : ctlRun causes p n wbad y k s = .next (s.switches h g (if y then some h.fid else none)) := by
  obtain ⟨⟨hl, hf⟩, hwd, hb⟩ := e
  rw [ctlRun, issue_here _ hl.1]
  rw [checked_legal _ _ _ hl, if_neg (by rw [hwd]; simp), withRegs_free _ hl.1 hf]
  simp only [hw, hb, hk, Bool.false_eq_true, if_false, State.switches]

/-- One whose effect is refused raises its fault on PRED. -/
theorem ctlRun_error {causes : List Nat} {p : Option Prefix} {n : Here → Named} {wbad : Here → Bool} {y : Bool}
    {k : State → Here → Nat → Except Nat Group} {s : State} {h : Here} (code : Nat) (e : OnceReady s h causes (n h)) (hw : wbad h = false)
    (hk : k s h (lenOf p) = .error code) : ctlRun causes p n wbad y k s = .next (raise s h h.f.pred (lenOf p) code 0 0) := by
  obtain ⟨⟨hl, hf⟩, hwd, hb⟩ := e
  rw [ctlRun, issue_here _ hl.1]
  rw [checked_legal _ _ _ hl, if_neg (by rw [hwd]; simp), withRegs_free _ hl.1 hf]
  simp only [hw, hb, hk, Bool.false_eq_true, if_false, raiseP]

/-- A once-per-issue instruction of format G that is ready has its effect. -/
theorem gRun_ready {causes : List Nat} {svc : Bool} {p : Option Prefix} {regs : List Nat} {s : State} {h : Here}
    (k : State → Here → Nat → State) (hl : Legal s h causes svc) (hf : RegsFree s h { sregs := regs }) :
    gRun causes svc p regs k s = .next (k s h (lenOf p)) := by
  rw [gRun, issue_here _ hl.1, checked_legal _ _ _ hl, withRegs_free _ hl.1 hf]

/-- A handler instruction that is ready, with a live handle, has its effect on that fibre. -/
theorem pkRun_ready {causes : List Nat} {f : GFmt} {handle : Byte} {regs : List Nat} {s : State} {h : Here} {gid fnum : Nat}
    (k : State → Here → Nat → Nat → Nat → State) (hl : ScalarReady s h causes { sregs := regs }) (hh : h.isHandler = true)
    (hv : liveHandle s h.cid (uniVal h.g f.pfx handle) = some (gid, fnum)) :
    pkRun causes f handle regs k s = .next (k s h (lenOf f.pfx) gid fnum) := by
  rw [pkRun, issue_here _ hl.1.1]
  rw [checked_legal _ _ _ hl.1, if_neg (by simp [hh]), withRegs_free _ hl.1.1 hl.2, hv]

/-- An instruction of the G format that waits for a release at block scope goes on where nothing is due. -/
theorem afterRelease_quiet {s : State} {h : Here} (k : State → Here → State) (e : s.here = some h) (q : Quiet s h) :
    afterRelease s h k = k s h := by
  simp [afterRelease, drainGroup_quiet q.1, q.2, e]

end Sys2Proof.Machine
end

