-- ==== Sys2Proof/Laws/State.lean ====
section
/-! SUPPORT. What each update of the state leaves of each of its fields. -/

namespace Sys2Proof.Machine

/-! `modGroup` writes `groups`. -/

@[simp] theorem modGroup_full (s : State) (i : Nat) (k : Group → Group) : (modGroup s i k).full = s.full := rfl
@[simp] theorem modGroup_time (s : State) (i : Nat) (k : Group → Group) : (modGroup s i k).time = s.time := rfl
@[simp] theorem modGroup_steps (s : State) (i : Nat) (k : Group → Group) : (modGroup s i k).steps = s.steps := rfl
@[simp] theorem modGroup_freeCtr (s : State) (i : Nat) (k : Group → Group) : (modGroup s i k).freeCtr = s.freeCtr := rfl
@[simp] theorem modGroup_agenda (s : State) (i : Nat) (k : Group → Group) : (modGroup s i k).agenda = s.agenda := rfl
@[simp] theorem modGroup_ready (s : State) (i : Nat) (k : Group → Group) : (modGroup s i k).ready = s.ready := rfl
@[simp] theorem modGroup_groups (s : State) (i : Nat) (k : Group → Group) : (modGroup s i k).groups = Tbl.modify s.groups i k := rfl
@[simp] theorem modGroup_blocks (s : State) (i : Nat) (k : Group → Group) : (modGroup s i k).blocks = s.blocks := rfl
@[simp] theorem modGroup_ctxs (s : State) (i : Nat) (k : Group → Group) : (modGroup s i k).ctxs = s.ctxs := rfl
@[simp] theorem modGroup_launches (s : State) (i : Nat) (k : Group → Group) : (modGroup s i k).launches = s.launches := rfl
@[simp] theorem modGroup_recs (s : State) (i : Nat) (k : Group → Group) : (modGroup s i k).recs = s.recs := rfl
@[simp] theorem modGroup_slots (s : State) (i : Nat) (k : Group → Group) : (modGroup s i k).slots = s.slots := rfl
@[simp] theorem modGroup_vfs (s : State) (i : Nat) (k : Group → Group) : (modGroup s i k).vfs = s.vfs := rfl
@[simp] theorem modGroup_claimq (s : State) (i : Nat) (k : Group → Group) : (modGroup s i k).claimq = s.claimq := rfl
@[simp] theorem modGroup_mem (s : State) (i : Nat) (k : Group → Group) : (modGroup s i k).mem = s.mem := rfl
@[simp] theorem modGroup_tables (s : State) (i : Nat) (k : Group → Group) : (modGroup s i k).tables = s.tables := rfl
@[simp] theorem modGroup_errs (s : State) (i : Nat) (k : Group → Group) : (modGroup s i k).errs = s.errs := rfl
@[simp] theorem modGroup_depc (s : State) (i : Nat) (k : Group → Group) : (modGroup s i k).depc = s.depc := rfl
@[simp] theorem modGroup_depcVf (s : State) (i : Nat) (k : Group → Group) : (modGroup s i k).depcVf = s.depcVf := rfl
@[simp] theorem modGroup_nextRec (s : State) (i : Nat) (k : Group → Group) : (modGroup s i k).nextRec = s.nextRec := rfl
@[simp] theorem modGroup_nextBsn (s : State) (i : Nat) (k : Group → Group) : (modGroup s i k).nextBsn = s.nextBsn := rfl
@[simp] theorem modGroup_nextLaunch (s : State) (i : Nat) (k : Group → Group) : (modGroup s i k).nextLaunch = s.nextLaunch := rfl
@[simp] theorem modGroup_wcs (s : State) (i : Nat) (k : Group → Group) : (modGroup s i k).wcs = s.wcs := rfl
@[simp] theorem modGroup_wcsUnits (s : State) (i : Nat) (k : Group → Group) : (modGroup s i k).wcsUnits = s.wcsUnits := rfl
@[simp] theorem modGroup_cores (s : State) (i : Nat) (k : Group → Group) : (modGroup s i k).cores = s.cores := rfl
@[simp] theorem modGroup_sealKeys (s : State) (i : Nat) (k : Group → Group) : (modGroup s i k).sealKeys = s.sealKeys := rfl
@[simp] theorem modGroup_pix (s : State) (i : Nat) (k : Group → Group) : (modGroup s i k).pix = s.pix := rfl
@[simp] theorem modGroup_saves (s : State) (i : Nat) (k : Group → Group) : (modGroup s i k).saves = s.saves := rfl
@[simp] theorem modGroup_clusters (s : State) (i : Nat) (k : Group → Group) : (modGroup s i k).clusters = s.clusters := rfl
@[simp] theorem modGroup_sys (s : State) (i : Nat) (k : Group → Group) : (modGroup s i k).sys = s.sys := rfl
@[simp] theorem modGroup_passes (s : State) (i : Nat) (k : Group → Group) : (modGroup s i k).passes = s.passes := rfl

/-! `modBlock` writes `blocks`. -/

@[simp] theorem modBlock_full (s : State) (i : Nat) (k : Block → Block) : (modBlock s i k).full = s.full := rfl
@[simp] theorem modBlock_time (s : State) (i : Nat) (k : Block → Block) : (modBlock s i k).time = s.time := rfl
@[simp] theorem modBlock_steps (s : State) (i : Nat) (k : Block → Block) : (modBlock s i k).steps = s.steps := rfl
@[simp] theorem modBlock_freeCtr (s : State) (i : Nat) (k : Block → Block) : (modBlock s i k).freeCtr = s.freeCtr := rfl
@[simp] theorem modBlock_agenda (s : State) (i : Nat) (k : Block → Block) : (modBlock s i k).agenda = s.agenda := rfl
@[simp] theorem modBlock_ready (s : State) (i : Nat) (k : Block → Block) : (modBlock s i k).ready = s.ready := rfl
@[simp] theorem modBlock_groups (s : State) (i : Nat) (k : Block → Block) : (modBlock s i k).groups = s.groups := rfl
@[simp] theorem modBlock_blocks (s : State) (i : Nat) (k : Block → Block) : (modBlock s i k).blocks = Tbl.modify s.blocks i k := rfl
@[simp] theorem modBlock_ctxs (s : State) (i : Nat) (k : Block → Block) : (modBlock s i k).ctxs = s.ctxs := rfl
@[simp] theorem modBlock_launches (s : State) (i : Nat) (k : Block → Block) : (modBlock s i k).launches = s.launches := rfl
@[simp] theorem modBlock_recs (s : State) (i : Nat) (k : Block → Block) : (modBlock s i k).recs = s.recs := rfl
@[simp] theorem modBlock_slots (s : State) (i : Nat) (k : Block → Block) : (modBlock s i k).slots = s.slots := rfl
@[simp] theorem modBlock_vfs (s : State) (i : Nat) (k : Block → Block) : (modBlock s i k).vfs = s.vfs := rfl
@[simp] theorem modBlock_claimq (s : State) (i : Nat) (k : Block → Block) : (modBlock s i k).claimq = s.claimq := rfl
@[simp] theorem modBlock_mem (s : State) (i : Nat) (k : Block → Block) : (modBlock s i k).mem = s.mem := rfl
@[simp] theorem modBlock_tables (s : State) (i : Nat) (k : Block → Block) : (modBlock s i k).tables = s.tables := rfl
@[simp] theorem modBlock_errs (s : State) (i : Nat) (k : Block → Block) : (modBlock s i k).errs = s.errs := rfl
@[simp] theorem modBlock_depc (s : State) (i : Nat) (k : Block → Block) : (modBlock s i k).depc = s.depc := rfl
@[simp] theorem modBlock_depcVf (s : State) (i : Nat) (k : Block → Block) : (modBlock s i k).depcVf = s.depcVf := rfl
@[simp] theorem modBlock_nextRec (s : State) (i : Nat) (k : Block → Block) : (modBlock s i k).nextRec = s.nextRec := rfl
@[simp] theorem modBlock_nextBsn (s : State) (i : Nat) (k : Block → Block) : (modBlock s i k).nextBsn = s.nextBsn := rfl
@[simp] theorem modBlock_nextLaunch (s : State) (i : Nat) (k : Block → Block) : (modBlock s i k).nextLaunch = s.nextLaunch := rfl
@[simp] theorem modBlock_wcs (s : State) (i : Nat) (k : Block → Block) : (modBlock s i k).wcs = s.wcs := rfl
@[simp] theorem modBlock_wcsUnits (s : State) (i : Nat) (k : Block → Block) : (modBlock s i k).wcsUnits = s.wcsUnits := rfl
@[simp] theorem modBlock_cores (s : State) (i : Nat) (k : Block → Block) : (modBlock s i k).cores = s.cores := rfl
@[simp] theorem modBlock_sealKeys (s : State) (i : Nat) (k : Block → Block) : (modBlock s i k).sealKeys = s.sealKeys := rfl
@[simp] theorem modBlock_pix (s : State) (i : Nat) (k : Block → Block) : (modBlock s i k).pix = s.pix := rfl
@[simp] theorem modBlock_saves (s : State) (i : Nat) (k : Block → Block) : (modBlock s i k).saves = s.saves := rfl
@[simp] theorem modBlock_clusters (s : State) (i : Nat) (k : Block → Block) : (modBlock s i k).clusters = s.clusters := rfl
@[simp] theorem modBlock_sys (s : State) (i : Nat) (k : Block → Block) : (modBlock s i k).sys = s.sys := rfl
@[simp] theorem modBlock_passes (s : State) (i : Nat) (k : Block → Block) : (modBlock s i k).passes = s.passes := rfl

/-! `modCtx` writes `ctxs`. -/

@[simp] theorem modCtx_full (s : State) (i : Nat) (k : Ctx → Ctx) : (modCtx s i k).full = s.full := rfl
@[simp] theorem modCtx_time (s : State) (i : Nat) (k : Ctx → Ctx) : (modCtx s i k).time = s.time := rfl
@[simp] theorem modCtx_steps (s : State) (i : Nat) (k : Ctx → Ctx) : (modCtx s i k).steps = s.steps := rfl
@[simp] theorem modCtx_freeCtr (s : State) (i : Nat) (k : Ctx → Ctx) : (modCtx s i k).freeCtr = s.freeCtr := rfl
@[simp] theorem modCtx_agenda (s : State) (i : Nat) (k : Ctx → Ctx) : (modCtx s i k).agenda = s.agenda := rfl
@[simp] theorem modCtx_ready (s : State) (i : Nat) (k : Ctx → Ctx) : (modCtx s i k).ready = s.ready := rfl
@[simp] theorem modCtx_groups (s : State) (i : Nat) (k : Ctx → Ctx) : (modCtx s i k).groups = s.groups := rfl
@[simp] theorem modCtx_blocks (s : State) (i : Nat) (k : Ctx → Ctx) : (modCtx s i k).blocks = s.blocks := rfl
@[simp] theorem modCtx_ctxs (s : State) (i : Nat) (k : Ctx → Ctx) : (modCtx s i k).ctxs = Tbl.modify s.ctxs i k := rfl
@[simp] theorem modCtx_launches (s : State) (i : Nat) (k : Ctx → Ctx) : (modCtx s i k).launches = s.launches := rfl
@[simp] theorem modCtx_recs (s : State) (i : Nat) (k : Ctx → Ctx) : (modCtx s i k).recs = s.recs := rfl
@[simp] theorem modCtx_slots (s : State) (i : Nat) (k : Ctx → Ctx) : (modCtx s i k).slots = s.slots := rfl
@[simp] theorem modCtx_vfs (s : State) (i : Nat) (k : Ctx → Ctx) : (modCtx s i k).vfs = s.vfs := rfl
@[simp] theorem modCtx_claimq (s : State) (i : Nat) (k : Ctx → Ctx) : (modCtx s i k).claimq = s.claimq := rfl
@[simp] theorem modCtx_mem (s : State) (i : Nat) (k : Ctx → Ctx) : (modCtx s i k).mem = s.mem := rfl
@[simp] theorem modCtx_tables (s : State) (i : Nat) (k : Ctx → Ctx) : (modCtx s i k).tables = s.tables := rfl
@[simp] theorem modCtx_errs (s : State) (i : Nat) (k : Ctx → Ctx) : (modCtx s i k).errs = s.errs := rfl
@[simp] theorem modCtx_depc (s : State) (i : Nat) (k : Ctx → Ctx) : (modCtx s i k).depc = s.depc := rfl
@[simp] theorem modCtx_depcVf (s : State) (i : Nat) (k : Ctx → Ctx) : (modCtx s i k).depcVf = s.depcVf := rfl
@[simp] theorem modCtx_nextRec (s : State) (i : Nat) (k : Ctx → Ctx) : (modCtx s i k).nextRec = s.nextRec := rfl
@[simp] theorem modCtx_nextBsn (s : State) (i : Nat) (k : Ctx → Ctx) : (modCtx s i k).nextBsn = s.nextBsn := rfl
@[simp] theorem modCtx_nextLaunch (s : State) (i : Nat) (k : Ctx → Ctx) : (modCtx s i k).nextLaunch = s.nextLaunch := rfl
@[simp] theorem modCtx_wcs (s : State) (i : Nat) (k : Ctx → Ctx) : (modCtx s i k).wcs = s.wcs := rfl
@[simp] theorem modCtx_wcsUnits (s : State) (i : Nat) (k : Ctx → Ctx) : (modCtx s i k).wcsUnits = s.wcsUnits := rfl
@[simp] theorem modCtx_cores (s : State) (i : Nat) (k : Ctx → Ctx) : (modCtx s i k).cores = s.cores := rfl
@[simp] theorem modCtx_sealKeys (s : State) (i : Nat) (k : Ctx → Ctx) : (modCtx s i k).sealKeys = s.sealKeys := rfl
@[simp] theorem modCtx_pix (s : State) (i : Nat) (k : Ctx → Ctx) : (modCtx s i k).pix = s.pix := rfl
@[simp] theorem modCtx_saves (s : State) (i : Nat) (k : Ctx → Ctx) : (modCtx s i k).saves = s.saves := rfl
@[simp] theorem modCtx_clusters (s : State) (i : Nat) (k : Ctx → Ctx) : (modCtx s i k).clusters = s.clusters := rfl
@[simp] theorem modCtx_sys (s : State) (i : Nat) (k : Ctx → Ctx) : (modCtx s i k).sys = s.sys := rfl
@[simp] theorem modCtx_passes (s : State) (i : Nat) (k : Ctx → Ctx) : (modCtx s i k).passes = s.passes := rfl

/-! `modCounts` writes `ctxs`. -/

@[simp] theorem modCounts_full (s : State) (i : Nat) (k : CtxCounts → CtxCounts) : (modCounts s i k).full = s.full := rfl
@[simp] theorem modCounts_time (s : State) (i : Nat) (k : CtxCounts → CtxCounts) : (modCounts s i k).time = s.time := rfl
@[simp] theorem modCounts_steps (s : State) (i : Nat) (k : CtxCounts → CtxCounts) : (modCounts s i k).steps = s.steps := rfl
@[simp] theorem modCounts_freeCtr (s : State) (i : Nat) (k : CtxCounts → CtxCounts) : (modCounts s i k).freeCtr = s.freeCtr := rfl
@[simp] theorem modCounts_agenda (s : State) (i : Nat) (k : CtxCounts → CtxCounts) : (modCounts s i k).agenda = s.agenda := rfl
@[simp] theorem modCounts_ready (s : State) (i : Nat) (k : CtxCounts → CtxCounts) : (modCounts s i k).ready = s.ready := rfl
@[simp] theorem modCounts_groups (s : State) (i : Nat) (k : CtxCounts → CtxCounts) : (modCounts s i k).groups = s.groups := rfl
@[simp] theorem modCounts_blocks (s : State) (i : Nat) (k : CtxCounts → CtxCounts) : (modCounts s i k).blocks = s.blocks := rfl
@[simp] theorem modCounts_launches (s : State) (i : Nat) (k : CtxCounts → CtxCounts) : (modCounts s i k).launches = s.launches := rfl
@[simp] theorem modCounts_recs (s : State) (i : Nat) (k : CtxCounts → CtxCounts) : (modCounts s i k).recs = s.recs := rfl
@[simp] theorem modCounts_slots (s : State) (i : Nat) (k : CtxCounts → CtxCounts) : (modCounts s i k).slots = s.slots := rfl
@[simp] theorem modCounts_vfs (s : State) (i : Nat) (k : CtxCounts → CtxCounts) : (modCounts s i k).vfs = s.vfs := rfl
@[simp] theorem modCounts_claimq (s : State) (i : Nat) (k : CtxCounts → CtxCounts) : (modCounts s i k).claimq = s.claimq := rfl
@[simp] theorem modCounts_mem (s : State) (i : Nat) (k : CtxCounts → CtxCounts) : (modCounts s i k).mem = s.mem := rfl
@[simp] theorem modCounts_tables (s : State) (i : Nat) (k : CtxCounts → CtxCounts) : (modCounts s i k).tables = s.tables := rfl
@[simp] theorem modCounts_errs (s : State) (i : Nat) (k : CtxCounts → CtxCounts) : (modCounts s i k).errs = s.errs := rfl
@[simp] theorem modCounts_depc (s : State) (i : Nat) (k : CtxCounts → CtxCounts) : (modCounts s i k).depc = s.depc := rfl
@[simp] theorem modCounts_depcVf (s : State) (i : Nat) (k : CtxCounts → CtxCounts) : (modCounts s i k).depcVf = s.depcVf := rfl
@[simp] theorem modCounts_nextRec (s : State) (i : Nat) (k : CtxCounts → CtxCounts) : (modCounts s i k).nextRec = s.nextRec := rfl
@[simp] theorem modCounts_nextBsn (s : State) (i : Nat) (k : CtxCounts → CtxCounts) : (modCounts s i k).nextBsn = s.nextBsn := rfl
@[simp] theorem modCounts_nextLaunch (s : State) (i : Nat) (k : CtxCounts → CtxCounts) : (modCounts s i k).nextLaunch = s.nextLaunch := rfl
@[simp] theorem modCounts_wcs (s : State) (i : Nat) (k : CtxCounts → CtxCounts) : (modCounts s i k).wcs = s.wcs := rfl
@[simp] theorem modCounts_wcsUnits (s : State) (i : Nat) (k : CtxCounts → CtxCounts) : (modCounts s i k).wcsUnits = s.wcsUnits := rfl
@[simp] theorem modCounts_cores (s : State) (i : Nat) (k : CtxCounts → CtxCounts) : (modCounts s i k).cores = s.cores := rfl
@[simp] theorem modCounts_sealKeys (s : State) (i : Nat) (k : CtxCounts → CtxCounts) : (modCounts s i k).sealKeys = s.sealKeys := rfl
@[simp] theorem modCounts_pix (s : State) (i : Nat) (k : CtxCounts → CtxCounts) : (modCounts s i k).pix = s.pix := rfl
@[simp] theorem modCounts_saves (s : State) (i : Nat) (k : CtxCounts → CtxCounts) : (modCounts s i k).saves = s.saves := rfl
@[simp] theorem modCounts_clusters (s : State) (i : Nat) (k : CtxCounts → CtxCounts) : (modCounts s i k).clusters = s.clusters := rfl
@[simp] theorem modCounts_sys (s : State) (i : Nat) (k : CtxCounts → CtxCounts) : (modCounts s i k).sys = s.sys := rfl
@[simp] theorem modCounts_passes (s : State) (i : Nat) (k : CtxCounts → CtxCounts) : (modCounts s i k).passes = s.passes := rfl

/-! `modRec` writes `recs`. -/

@[simp] theorem modRec_full (s : State) (i : Nat) (k : Rec → Rec) : (modRec s i k).full = s.full := rfl
@[simp] theorem modRec_time (s : State) (i : Nat) (k : Rec → Rec) : (modRec s i k).time = s.time := rfl
@[simp] theorem modRec_steps (s : State) (i : Nat) (k : Rec → Rec) : (modRec s i k).steps = s.steps := rfl
@[simp] theorem modRec_freeCtr (s : State) (i : Nat) (k : Rec → Rec) : (modRec s i k).freeCtr = s.freeCtr := rfl
@[simp] theorem modRec_agenda (s : State) (i : Nat) (k : Rec → Rec) : (modRec s i k).agenda = s.agenda := rfl
@[simp] theorem modRec_ready (s : State) (i : Nat) (k : Rec → Rec) : (modRec s i k).ready = s.ready := rfl
@[simp] theorem modRec_groups (s : State) (i : Nat) (k : Rec → Rec) : (modRec s i k).groups = s.groups := rfl
@[simp] theorem modRec_blocks (s : State) (i : Nat) (k : Rec → Rec) : (modRec s i k).blocks = s.blocks := rfl
@[simp] theorem modRec_ctxs (s : State) (i : Nat) (k : Rec → Rec) : (modRec s i k).ctxs = s.ctxs := rfl
@[simp] theorem modRec_launches (s : State) (i : Nat) (k : Rec → Rec) : (modRec s i k).launches = s.launches := rfl
@[simp] theorem modRec_recs (s : State) (i : Nat) (k : Rec → Rec) : (modRec s i k).recs = Tbl.modify s.recs i k := rfl
@[simp] theorem modRec_slots (s : State) (i : Nat) (k : Rec → Rec) : (modRec s i k).slots = s.slots := rfl
@[simp] theorem modRec_vfs (s : State) (i : Nat) (k : Rec → Rec) : (modRec s i k).vfs = s.vfs := rfl
@[simp] theorem modRec_claimq (s : State) (i : Nat) (k : Rec → Rec) : (modRec s i k).claimq = s.claimq := rfl
@[simp] theorem modRec_mem (s : State) (i : Nat) (k : Rec → Rec) : (modRec s i k).mem = s.mem := rfl
@[simp] theorem modRec_tables (s : State) (i : Nat) (k : Rec → Rec) : (modRec s i k).tables = s.tables := rfl
@[simp] theorem modRec_errs (s : State) (i : Nat) (k : Rec → Rec) : (modRec s i k).errs = s.errs := rfl
@[simp] theorem modRec_depc (s : State) (i : Nat) (k : Rec → Rec) : (modRec s i k).depc = s.depc := rfl
@[simp] theorem modRec_depcVf (s : State) (i : Nat) (k : Rec → Rec) : (modRec s i k).depcVf = s.depcVf := rfl
@[simp] theorem modRec_nextRec (s : State) (i : Nat) (k : Rec → Rec) : (modRec s i k).nextRec = s.nextRec := rfl
@[simp] theorem modRec_nextBsn (s : State) (i : Nat) (k : Rec → Rec) : (modRec s i k).nextBsn = s.nextBsn := rfl
@[simp] theorem modRec_nextLaunch (s : State) (i : Nat) (k : Rec → Rec) : (modRec s i k).nextLaunch = s.nextLaunch := rfl
@[simp] theorem modRec_wcs (s : State) (i : Nat) (k : Rec → Rec) : (modRec s i k).wcs = s.wcs := rfl
@[simp] theorem modRec_wcsUnits (s : State) (i : Nat) (k : Rec → Rec) : (modRec s i k).wcsUnits = s.wcsUnits := rfl
@[simp] theorem modRec_cores (s : State) (i : Nat) (k : Rec → Rec) : (modRec s i k).cores = s.cores := rfl
@[simp] theorem modRec_sealKeys (s : State) (i : Nat) (k : Rec → Rec) : (modRec s i k).sealKeys = s.sealKeys := rfl
@[simp] theorem modRec_pix (s : State) (i : Nat) (k : Rec → Rec) : (modRec s i k).pix = s.pix := rfl
@[simp] theorem modRec_saves (s : State) (i : Nat) (k : Rec → Rec) : (modRec s i k).saves = s.saves := rfl
@[simp] theorem modRec_clusters (s : State) (i : Nat) (k : Rec → Rec) : (modRec s i k).clusters = s.clusters := rfl
@[simp] theorem modRec_sys (s : State) (i : Nat) (k : Rec → Rec) : (modRec s i k).sys = s.sys := rfl
@[simp] theorem modRec_passes (s : State) (i : Nat) (k : Rec → Rec) : (modRec s i k).passes = s.passes := rfl

/-! `modLaunch` writes `launches`. -/

@[simp] theorem modLaunch_full (s : State) (i : Nat) (k : Launch → Launch) : (modLaunch s i k).full = s.full := rfl
@[simp] theorem modLaunch_time (s : State) (i : Nat) (k : Launch → Launch) : (modLaunch s i k).time = s.time := rfl
@[simp] theorem modLaunch_steps (s : State) (i : Nat) (k : Launch → Launch) : (modLaunch s i k).steps = s.steps := rfl
@[simp] theorem modLaunch_freeCtr (s : State) (i : Nat) (k : Launch → Launch) : (modLaunch s i k).freeCtr = s.freeCtr := rfl
@[simp] theorem modLaunch_agenda (s : State) (i : Nat) (k : Launch → Launch) : (modLaunch s i k).agenda = s.agenda := rfl
@[simp] theorem modLaunch_ready (s : State) (i : Nat) (k : Launch → Launch) : (modLaunch s i k).ready = s.ready := rfl
@[simp] theorem modLaunch_groups (s : State) (i : Nat) (k : Launch → Launch) : (modLaunch s i k).groups = s.groups := rfl
@[simp] theorem modLaunch_blocks (s : State) (i : Nat) (k : Launch → Launch) : (modLaunch s i k).blocks = s.blocks := rfl
@[simp] theorem modLaunch_ctxs (s : State) (i : Nat) (k : Launch → Launch) : (modLaunch s i k).ctxs = s.ctxs := rfl
@[simp] theorem modLaunch_launches (s : State) (i : Nat) (k : Launch → Launch) : (modLaunch s i k).launches = Tbl.modify s.launches i k := rfl
@[simp] theorem modLaunch_recs (s : State) (i : Nat) (k : Launch → Launch) : (modLaunch s i k).recs = s.recs := rfl
@[simp] theorem modLaunch_slots (s : State) (i : Nat) (k : Launch → Launch) : (modLaunch s i k).slots = s.slots := rfl
@[simp] theorem modLaunch_vfs (s : State) (i : Nat) (k : Launch → Launch) : (modLaunch s i k).vfs = s.vfs := rfl
@[simp] theorem modLaunch_claimq (s : State) (i : Nat) (k : Launch → Launch) : (modLaunch s i k).claimq = s.claimq := rfl
@[simp] theorem modLaunch_mem (s : State) (i : Nat) (k : Launch → Launch) : (modLaunch s i k).mem = s.mem := rfl
@[simp] theorem modLaunch_tables (s : State) (i : Nat) (k : Launch → Launch) : (modLaunch s i k).tables = s.tables := rfl
@[simp] theorem modLaunch_errs (s : State) (i : Nat) (k : Launch → Launch) : (modLaunch s i k).errs = s.errs := rfl
@[simp] theorem modLaunch_depc (s : State) (i : Nat) (k : Launch → Launch) : (modLaunch s i k).depc = s.depc := rfl
@[simp] theorem modLaunch_depcVf (s : State) (i : Nat) (k : Launch → Launch) : (modLaunch s i k).depcVf = s.depcVf := rfl
@[simp] theorem modLaunch_nextRec (s : State) (i : Nat) (k : Launch → Launch) : (modLaunch s i k).nextRec = s.nextRec := rfl
@[simp] theorem modLaunch_nextBsn (s : State) (i : Nat) (k : Launch → Launch) : (modLaunch s i k).nextBsn = s.nextBsn := rfl
@[simp] theorem modLaunch_nextLaunch (s : State) (i : Nat) (k : Launch → Launch) : (modLaunch s i k).nextLaunch = s.nextLaunch := rfl
@[simp] theorem modLaunch_wcs (s : State) (i : Nat) (k : Launch → Launch) : (modLaunch s i k).wcs = s.wcs := rfl
@[simp] theorem modLaunch_wcsUnits (s : State) (i : Nat) (k : Launch → Launch) : (modLaunch s i k).wcsUnits = s.wcsUnits := rfl
@[simp] theorem modLaunch_cores (s : State) (i : Nat) (k : Launch → Launch) : (modLaunch s i k).cores = s.cores := rfl
@[simp] theorem modLaunch_sealKeys (s : State) (i : Nat) (k : Launch → Launch) : (modLaunch s i k).sealKeys = s.sealKeys := rfl
@[simp] theorem modLaunch_pix (s : State) (i : Nat) (k : Launch → Launch) : (modLaunch s i k).pix = s.pix := rfl
@[simp] theorem modLaunch_saves (s : State) (i : Nat) (k : Launch → Launch) : (modLaunch s i k).saves = s.saves := rfl
@[simp] theorem modLaunch_clusters (s : State) (i : Nat) (k : Launch → Launch) : (modLaunch s i k).clusters = s.clusters := rfl
@[simp] theorem modLaunch_sys (s : State) (i : Nat) (k : Launch → Launch) : (modLaunch s i k).sys = s.sys := rfl
@[simp] theorem modLaunch_passes (s : State) (i : Nat) (k : Launch → Launch) : (modLaunch s i k).passes = s.passes := rfl

/-! `modPass` writes `passes`. -/

@[simp] theorem modPass_full (s : State) (i : Nat) (k : PassSt → PassSt) : (modPass s i k).full = s.full := rfl
@[simp] theorem modPass_time (s : State) (i : Nat) (k : PassSt → PassSt) : (modPass s i k).time = s.time := rfl
@[simp] theorem modPass_steps (s : State) (i : Nat) (k : PassSt → PassSt) : (modPass s i k).steps = s.steps := rfl
@[simp] theorem modPass_freeCtr (s : State) (i : Nat) (k : PassSt → PassSt) : (modPass s i k).freeCtr = s.freeCtr := rfl
@[simp] theorem modPass_agenda (s : State) (i : Nat) (k : PassSt → PassSt) : (modPass s i k).agenda = s.agenda := rfl
@[simp] theorem modPass_ready (s : State) (i : Nat) (k : PassSt → PassSt) : (modPass s i k).ready = s.ready := rfl
@[simp] theorem modPass_groups (s : State) (i : Nat) (k : PassSt → PassSt) : (modPass s i k).groups = s.groups := rfl
@[simp] theorem modPass_blocks (s : State) (i : Nat) (k : PassSt → PassSt) : (modPass s i k).blocks = s.blocks := rfl
@[simp] theorem modPass_ctxs (s : State) (i : Nat) (k : PassSt → PassSt) : (modPass s i k).ctxs = s.ctxs := rfl
@[simp] theorem modPass_launches (s : State) (i : Nat) (k : PassSt → PassSt) : (modPass s i k).launches = s.launches := rfl
@[simp] theorem modPass_recs (s : State) (i : Nat) (k : PassSt → PassSt) : (modPass s i k).recs = s.recs := rfl
@[simp] theorem modPass_slots (s : State) (i : Nat) (k : PassSt → PassSt) : (modPass s i k).slots = s.slots := rfl
@[simp] theorem modPass_vfs (s : State) (i : Nat) (k : PassSt → PassSt) : (modPass s i k).vfs = s.vfs := rfl
@[simp] theorem modPass_claimq (s : State) (i : Nat) (k : PassSt → PassSt) : (modPass s i k).claimq = s.claimq := rfl
@[simp] theorem modPass_mem (s : State) (i : Nat) (k : PassSt → PassSt) : (modPass s i k).mem = s.mem := rfl
@[simp] theorem modPass_tables (s : State) (i : Nat) (k : PassSt → PassSt) : (modPass s i k).tables = s.tables := rfl
@[simp] theorem modPass_errs (s : State) (i : Nat) (k : PassSt → PassSt) : (modPass s i k).errs = s.errs := rfl
@[simp] theorem modPass_depc (s : State) (i : Nat) (k : PassSt → PassSt) : (modPass s i k).depc = s.depc := rfl
@[simp] theorem modPass_depcVf (s : State) (i : Nat) (k : PassSt → PassSt) : (modPass s i k).depcVf = s.depcVf := rfl
@[simp] theorem modPass_nextRec (s : State) (i : Nat) (k : PassSt → PassSt) : (modPass s i k).nextRec = s.nextRec := rfl
@[simp] theorem modPass_nextBsn (s : State) (i : Nat) (k : PassSt → PassSt) : (modPass s i k).nextBsn = s.nextBsn := rfl
@[simp] theorem modPass_nextLaunch (s : State) (i : Nat) (k : PassSt → PassSt) : (modPass s i k).nextLaunch = s.nextLaunch := rfl
@[simp] theorem modPass_wcs (s : State) (i : Nat) (k : PassSt → PassSt) : (modPass s i k).wcs = s.wcs := rfl
@[simp] theorem modPass_wcsUnits (s : State) (i : Nat) (k : PassSt → PassSt) : (modPass s i k).wcsUnits = s.wcsUnits := rfl
@[simp] theorem modPass_cores (s : State) (i : Nat) (k : PassSt → PassSt) : (modPass s i k).cores = s.cores := rfl
@[simp] theorem modPass_sealKeys (s : State) (i : Nat) (k : PassSt → PassSt) : (modPass s i k).sealKeys = s.sealKeys := rfl
@[simp] theorem modPass_pix (s : State) (i : Nat) (k : PassSt → PassSt) : (modPass s i k).pix = s.pix := rfl
@[simp] theorem modPass_saves (s : State) (i : Nat) (k : PassSt → PassSt) : (modPass s i k).saves = s.saves := rfl
@[simp] theorem modPass_clusters (s : State) (i : Nat) (k : PassSt → PassSt) : (modPass s i k).clusters = s.clusters := rfl
@[simp] theorem modPass_sys (s : State) (i : Nat) (k : PassSt → PassSt) : (modPass s i k).sys = s.sys := rfl
@[simp] theorem modPass_passes (s : State) (i : Nat) (k : PassSt → PassSt) : (modPass s i k).passes = Tbl.modify s.passes i k := rfl

/-! `modSlot` writes `slots`. -/

@[simp] theorem modSlot_full (s : State) (i : Nat) (k : QSlot → QSlot) : (modSlot s i k).full = s.full := rfl
@[simp] theorem modSlot_time (s : State) (i : Nat) (k : QSlot → QSlot) : (modSlot s i k).time = s.time := rfl
@[simp] theorem modSlot_steps (s : State) (i : Nat) (k : QSlot → QSlot) : (modSlot s i k).steps = s.steps := rfl
@[simp] theorem modSlot_freeCtr (s : State) (i : Nat) (k : QSlot → QSlot) : (modSlot s i k).freeCtr = s.freeCtr := rfl
@[simp] theorem modSlot_agenda (s : State) (i : Nat) (k : QSlot → QSlot) : (modSlot s i k).agenda = s.agenda := rfl
@[simp] theorem modSlot_ready (s : State) (i : Nat) (k : QSlot → QSlot) : (modSlot s i k).ready = s.ready := rfl
@[simp] theorem modSlot_groups (s : State) (i : Nat) (k : QSlot → QSlot) : (modSlot s i k).groups = s.groups := rfl
@[simp] theorem modSlot_blocks (s : State) (i : Nat) (k : QSlot → QSlot) : (modSlot s i k).blocks = s.blocks := rfl
@[simp] theorem modSlot_ctxs (s : State) (i : Nat) (k : QSlot → QSlot) : (modSlot s i k).ctxs = s.ctxs := rfl
@[simp] theorem modSlot_launches (s : State) (i : Nat) (k : QSlot → QSlot) : (modSlot s i k).launches = s.launches := rfl
@[simp] theorem modSlot_recs (s : State) (i : Nat) (k : QSlot → QSlot) : (modSlot s i k).recs = s.recs := rfl
@[simp] theorem modSlot_slots (s : State) (i : Nat) (k : QSlot → QSlot) : (modSlot s i k).slots = Tbl.set s.slots i (k (slotOf s i)) := rfl
@[simp] theorem modSlot_vfs (s : State) (i : Nat) (k : QSlot → QSlot) : (modSlot s i k).vfs = s.vfs := rfl
@[simp] theorem modSlot_claimq (s : State) (i : Nat) (k : QSlot → QSlot) : (modSlot s i k).claimq = s.claimq := rfl
@[simp] theorem modSlot_mem (s : State) (i : Nat) (k : QSlot → QSlot) : (modSlot s i k).mem = s.mem := rfl
@[simp] theorem modSlot_tables (s : State) (i : Nat) (k : QSlot → QSlot) : (modSlot s i k).tables = s.tables := rfl
@[simp] theorem modSlot_errs (s : State) (i : Nat) (k : QSlot → QSlot) : (modSlot s i k).errs = s.errs := rfl
@[simp] theorem modSlot_depc (s : State) (i : Nat) (k : QSlot → QSlot) : (modSlot s i k).depc = s.depc := rfl
@[simp] theorem modSlot_depcVf (s : State) (i : Nat) (k : QSlot → QSlot) : (modSlot s i k).depcVf = s.depcVf := rfl
@[simp] theorem modSlot_nextRec (s : State) (i : Nat) (k : QSlot → QSlot) : (modSlot s i k).nextRec = s.nextRec := rfl
@[simp] theorem modSlot_nextBsn (s : State) (i : Nat) (k : QSlot → QSlot) : (modSlot s i k).nextBsn = s.nextBsn := rfl
@[simp] theorem modSlot_nextLaunch (s : State) (i : Nat) (k : QSlot → QSlot) : (modSlot s i k).nextLaunch = s.nextLaunch := rfl
@[simp] theorem modSlot_wcs (s : State) (i : Nat) (k : QSlot → QSlot) : (modSlot s i k).wcs = s.wcs := rfl
@[simp] theorem modSlot_wcsUnits (s : State) (i : Nat) (k : QSlot → QSlot) : (modSlot s i k).wcsUnits = s.wcsUnits := rfl
@[simp] theorem modSlot_cores (s : State) (i : Nat) (k : QSlot → QSlot) : (modSlot s i k).cores = s.cores := rfl
@[simp] theorem modSlot_sealKeys (s : State) (i : Nat) (k : QSlot → QSlot) : (modSlot s i k).sealKeys = s.sealKeys := rfl
@[simp] theorem modSlot_pix (s : State) (i : Nat) (k : QSlot → QSlot) : (modSlot s i k).pix = s.pix := rfl
@[simp] theorem modSlot_saves (s : State) (i : Nat) (k : QSlot → QSlot) : (modSlot s i k).saves = s.saves := rfl
@[simp] theorem modSlot_clusters (s : State) (i : Nat) (k : QSlot → QSlot) : (modSlot s i k).clusters = s.clusters := rfl
@[simp] theorem modSlot_sys (s : State) (i : Nat) (k : QSlot → QSlot) : (modSlot s i k).sys = s.sys := rfl
@[simp] theorem modSlot_passes (s : State) (i : Nat) (k : QSlot → QSlot) : (modSlot s i k).passes = s.passes := rfl

/-! `setVf` writes `vfs`. -/

@[simp] theorem setVf_full (s : State) (i : Nat) (k : VfSt → VfSt) : (setVf s i k).full = s.full := rfl
@[simp] theorem setVf_time (s : State) (i : Nat) (k : VfSt → VfSt) : (setVf s i k).time = s.time := rfl
@[simp] theorem setVf_steps (s : State) (i : Nat) (k : VfSt → VfSt) : (setVf s i k).steps = s.steps := rfl
@[simp] theorem setVf_freeCtr (s : State) (i : Nat) (k : VfSt → VfSt) : (setVf s i k).freeCtr = s.freeCtr := rfl
@[simp] theorem setVf_agenda (s : State) (i : Nat) (k : VfSt → VfSt) : (setVf s i k).agenda = s.agenda := rfl
@[simp] theorem setVf_ready (s : State) (i : Nat) (k : VfSt → VfSt) : (setVf s i k).ready = s.ready := rfl
@[simp] theorem setVf_groups (s : State) (i : Nat) (k : VfSt → VfSt) : (setVf s i k).groups = s.groups := rfl
@[simp] theorem setVf_blocks (s : State) (i : Nat) (k : VfSt → VfSt) : (setVf s i k).blocks = s.blocks := rfl
@[simp] theorem setVf_ctxs (s : State) (i : Nat) (k : VfSt → VfSt) : (setVf s i k).ctxs = s.ctxs := rfl
@[simp] theorem setVf_launches (s : State) (i : Nat) (k : VfSt → VfSt) : (setVf s i k).launches = s.launches := rfl
@[simp] theorem setVf_recs (s : State) (i : Nat) (k : VfSt → VfSt) : (setVf s i k).recs = s.recs := rfl
@[simp] theorem setVf_slots (s : State) (i : Nat) (k : VfSt → VfSt) : (setVf s i k).slots = s.slots := rfl
@[simp] theorem setVf_vfs (s : State) (i : Nat) (k : VfSt → VfSt) : (setVf s i k).vfs = Tbl.set s.vfs i (k (vfOf s i)) := rfl
@[simp] theorem setVf_claimq (s : State) (i : Nat) (k : VfSt → VfSt) : (setVf s i k).claimq = s.claimq := rfl
@[simp] theorem setVf_mem (s : State) (i : Nat) (k : VfSt → VfSt) : (setVf s i k).mem = s.mem := rfl
@[simp] theorem setVf_tables (s : State) (i : Nat) (k : VfSt → VfSt) : (setVf s i k).tables = s.tables := rfl
@[simp] theorem setVf_errs (s : State) (i : Nat) (k : VfSt → VfSt) : (setVf s i k).errs = s.errs := rfl
@[simp] theorem setVf_depc (s : State) (i : Nat) (k : VfSt → VfSt) : (setVf s i k).depc = s.depc := rfl
@[simp] theorem setVf_depcVf (s : State) (i : Nat) (k : VfSt → VfSt) : (setVf s i k).depcVf = s.depcVf := rfl
@[simp] theorem setVf_nextRec (s : State) (i : Nat) (k : VfSt → VfSt) : (setVf s i k).nextRec = s.nextRec := rfl
@[simp] theorem setVf_nextBsn (s : State) (i : Nat) (k : VfSt → VfSt) : (setVf s i k).nextBsn = s.nextBsn := rfl
@[simp] theorem setVf_nextLaunch (s : State) (i : Nat) (k : VfSt → VfSt) : (setVf s i k).nextLaunch = s.nextLaunch := rfl
@[simp] theorem setVf_wcs (s : State) (i : Nat) (k : VfSt → VfSt) : (setVf s i k).wcs = s.wcs := rfl
@[simp] theorem setVf_wcsUnits (s : State) (i : Nat) (k : VfSt → VfSt) : (setVf s i k).wcsUnits = s.wcsUnits := rfl
@[simp] theorem setVf_cores (s : State) (i : Nat) (k : VfSt → VfSt) : (setVf s i k).cores = s.cores := rfl
@[simp] theorem setVf_sealKeys (s : State) (i : Nat) (k : VfSt → VfSt) : (setVf s i k).sealKeys = s.sealKeys := rfl
@[simp] theorem setVf_pix (s : State) (i : Nat) (k : VfSt → VfSt) : (setVf s i k).pix = s.pix := rfl
@[simp] theorem setVf_saves (s : State) (i : Nat) (k : VfSt → VfSt) : (setVf s i k).saves = s.saves := rfl
@[simp] theorem setVf_clusters (s : State) (i : Nat) (k : VfSt → VfSt) : (setVf s i k).clusters = s.clusters := rfl
@[simp] theorem setVf_sys (s : State) (i : Nat) (k : VfSt → VfSt) : (setVf s i k).sys = s.sys := rfl
@[simp] theorem setVf_passes (s : State) (i : Nat) (k : VfSt → VfSt) : (setVf s i k).passes = s.passes := rfl

/-! `modCore` writes `cores`. -/

@[simp] theorem modCore_full (s : State) (i : Nat) (k : Core → Core) : (modCore s i k).full = s.full := rfl
@[simp] theorem modCore_time (s : State) (i : Nat) (k : Core → Core) : (modCore s i k).time = s.time := rfl
@[simp] theorem modCore_steps (s : State) (i : Nat) (k : Core → Core) : (modCore s i k).steps = s.steps := rfl
@[simp] theorem modCore_freeCtr (s : State) (i : Nat) (k : Core → Core) : (modCore s i k).freeCtr = s.freeCtr := rfl
@[simp] theorem modCore_agenda (s : State) (i : Nat) (k : Core → Core) : (modCore s i k).agenda = s.agenda := rfl
@[simp] theorem modCore_ready (s : State) (i : Nat) (k : Core → Core) : (modCore s i k).ready = s.ready := rfl
@[simp] theorem modCore_groups (s : State) (i : Nat) (k : Core → Core) : (modCore s i k).groups = s.groups := rfl
@[simp] theorem modCore_blocks (s : State) (i : Nat) (k : Core → Core) : (modCore s i k).blocks = s.blocks := rfl
@[simp] theorem modCore_ctxs (s : State) (i : Nat) (k : Core → Core) : (modCore s i k).ctxs = s.ctxs := rfl
@[simp] theorem modCore_launches (s : State) (i : Nat) (k : Core → Core) : (modCore s i k).launches = s.launches := rfl
@[simp] theorem modCore_recs (s : State) (i : Nat) (k : Core → Core) : (modCore s i k).recs = s.recs := rfl
@[simp] theorem modCore_slots (s : State) (i : Nat) (k : Core → Core) : (modCore s i k).slots = s.slots := rfl
@[simp] theorem modCore_vfs (s : State) (i : Nat) (k : Core → Core) : (modCore s i k).vfs = s.vfs := rfl
@[simp] theorem modCore_claimq (s : State) (i : Nat) (k : Core → Core) : (modCore s i k).claimq = s.claimq := rfl
@[simp] theorem modCore_mem (s : State) (i : Nat) (k : Core → Core) : (modCore s i k).mem = s.mem := rfl
@[simp] theorem modCore_tables (s : State) (i : Nat) (k : Core → Core) : (modCore s i k).tables = s.tables := rfl
@[simp] theorem modCore_errs (s : State) (i : Nat) (k : Core → Core) : (modCore s i k).errs = s.errs := rfl
@[simp] theorem modCore_depc (s : State) (i : Nat) (k : Core → Core) : (modCore s i k).depc = s.depc := rfl
@[simp] theorem modCore_depcVf (s : State) (i : Nat) (k : Core → Core) : (modCore s i k).depcVf = s.depcVf := rfl
@[simp] theorem modCore_nextRec (s : State) (i : Nat) (k : Core → Core) : (modCore s i k).nextRec = s.nextRec := rfl
@[simp] theorem modCore_nextBsn (s : State) (i : Nat) (k : Core → Core) : (modCore s i k).nextBsn = s.nextBsn := rfl
@[simp] theorem modCore_nextLaunch (s : State) (i : Nat) (k : Core → Core) : (modCore s i k).nextLaunch = s.nextLaunch := rfl
@[simp] theorem modCore_wcs (s : State) (i : Nat) (k : Core → Core) : (modCore s i k).wcs = s.wcs := rfl
@[simp] theorem modCore_wcsUnits (s : State) (i : Nat) (k : Core → Core) : (modCore s i k).wcsUnits = s.wcsUnits := rfl
@[simp] theorem modCore_cores (s : State) (i : Nat) (k : Core → Core) : (modCore s i k).cores = Tbl.set s.cores i (k (coreOf s i)) := rfl
@[simp] theorem modCore_sealKeys (s : State) (i : Nat) (k : Core → Core) : (modCore s i k).sealKeys = s.sealKeys := rfl
@[simp] theorem modCore_pix (s : State) (i : Nat) (k : Core → Core) : (modCore s i k).pix = s.pix := rfl
@[simp] theorem modCore_saves (s : State) (i : Nat) (k : Core → Core) : (modCore s i k).saves = s.saves := rfl
@[simp] theorem modCore_clusters (s : State) (i : Nat) (k : Core → Core) : (modCore s i k).clusters = s.clusters := rfl
@[simp] theorem modCore_sys (s : State) (i : Nat) (k : Core → Core) : (modCore s i k).sys = s.sys := rfl
@[simp] theorem modCore_passes (s : State) (i : Nat) (k : Core → Core) : (modCore s i k).passes = s.passes := rfl

/-! `modCluster` writes `clusters`. -/

@[simp] theorem modCluster_full (s : State) (i : Nat) (k : Cluster → Cluster) : (modCluster s i k).full = s.full := rfl
@[simp] theorem modCluster_time (s : State) (i : Nat) (k : Cluster → Cluster) : (modCluster s i k).time = s.time := rfl
@[simp] theorem modCluster_steps (s : State) (i : Nat) (k : Cluster → Cluster) : (modCluster s i k).steps = s.steps := rfl
@[simp] theorem modCluster_freeCtr (s : State) (i : Nat) (k : Cluster → Cluster) : (modCluster s i k).freeCtr = s.freeCtr := rfl
@[simp] theorem modCluster_agenda (s : State) (i : Nat) (k : Cluster → Cluster) : (modCluster s i k).agenda = s.agenda := rfl
@[simp] theorem modCluster_ready (s : State) (i : Nat) (k : Cluster → Cluster) : (modCluster s i k).ready = s.ready := rfl
@[simp] theorem modCluster_groups (s : State) (i : Nat) (k : Cluster → Cluster) : (modCluster s i k).groups = s.groups := rfl
@[simp] theorem modCluster_blocks (s : State) (i : Nat) (k : Cluster → Cluster) : (modCluster s i k).blocks = s.blocks := rfl
@[simp] theorem modCluster_ctxs (s : State) (i : Nat) (k : Cluster → Cluster) : (modCluster s i k).ctxs = s.ctxs := rfl
@[simp] theorem modCluster_launches (s : State) (i : Nat) (k : Cluster → Cluster) : (modCluster s i k).launches = s.launches := rfl
@[simp] theorem modCluster_recs (s : State) (i : Nat) (k : Cluster → Cluster) : (modCluster s i k).recs = s.recs := rfl
@[simp] theorem modCluster_slots (s : State) (i : Nat) (k : Cluster → Cluster) : (modCluster s i k).slots = s.slots := rfl
@[simp] theorem modCluster_vfs (s : State) (i : Nat) (k : Cluster → Cluster) : (modCluster s i k).vfs = s.vfs := rfl
@[simp] theorem modCluster_claimq (s : State) (i : Nat) (k : Cluster → Cluster) : (modCluster s i k).claimq = s.claimq := rfl
@[simp] theorem modCluster_mem (s : State) (i : Nat) (k : Cluster → Cluster) : (modCluster s i k).mem = s.mem := rfl
@[simp] theorem modCluster_tables (s : State) (i : Nat) (k : Cluster → Cluster) : (modCluster s i k).tables = s.tables := rfl
@[simp] theorem modCluster_errs (s : State) (i : Nat) (k : Cluster → Cluster) : (modCluster s i k).errs = s.errs := rfl
@[simp] theorem modCluster_depc (s : State) (i : Nat) (k : Cluster → Cluster) : (modCluster s i k).depc = s.depc := rfl
@[simp] theorem modCluster_depcVf (s : State) (i : Nat) (k : Cluster → Cluster) : (modCluster s i k).depcVf = s.depcVf := rfl
@[simp] theorem modCluster_nextRec (s : State) (i : Nat) (k : Cluster → Cluster) : (modCluster s i k).nextRec = s.nextRec := rfl
@[simp] theorem modCluster_nextBsn (s : State) (i : Nat) (k : Cluster → Cluster) : (modCluster s i k).nextBsn = s.nextBsn := rfl
@[simp] theorem modCluster_nextLaunch (s : State) (i : Nat) (k : Cluster → Cluster) : (modCluster s i k).nextLaunch = s.nextLaunch := rfl
@[simp] theorem modCluster_wcs (s : State) (i : Nat) (k : Cluster → Cluster) : (modCluster s i k).wcs = s.wcs := rfl
@[simp] theorem modCluster_wcsUnits (s : State) (i : Nat) (k : Cluster → Cluster) : (modCluster s i k).wcsUnits = s.wcsUnits := rfl
@[simp] theorem modCluster_cores (s : State) (i : Nat) (k : Cluster → Cluster) : (modCluster s i k).cores = s.cores := rfl
@[simp] theorem modCluster_sealKeys (s : State) (i : Nat) (k : Cluster → Cluster) : (modCluster s i k).sealKeys = s.sealKeys := rfl
@[simp] theorem modCluster_pix (s : State) (i : Nat) (k : Cluster → Cluster) : (modCluster s i k).pix = s.pix := rfl
@[simp] theorem modCluster_saves (s : State) (i : Nat) (k : Cluster → Cluster) : (modCluster s i k).saves = s.saves := rfl
@[simp] theorem modCluster_clusters (s : State) (i : Nat) (k : Cluster → Cluster) : (modCluster s i k).clusters = Tbl.set s.clusters i (k (clusterSt s i)) := rfl
@[simp] theorem modCluster_sys (s : State) (i : Nat) (k : Cluster → Cluster) : (modCluster s i k).sys = s.sys := rfl
@[simp] theorem modCluster_passes (s : State) (i : Nat) (k : Cluster → Cluster) : (modCluster s i k).passes = s.passes := rfl

/-! `modBox` writes `sys`. -/

@[simp] theorem modBox_full (s : State) (i : Nat) (k : Mailbox → Mailbox) : (modBox s i k).full = s.full := rfl
@[simp] theorem modBox_time (s : State) (i : Nat) (k : Mailbox → Mailbox) : (modBox s i k).time = s.time := rfl
@[simp] theorem modBox_steps (s : State) (i : Nat) (k : Mailbox → Mailbox) : (modBox s i k).steps = s.steps := rfl
@[simp] theorem modBox_freeCtr (s : State) (i : Nat) (k : Mailbox → Mailbox) : (modBox s i k).freeCtr = s.freeCtr := rfl
@[simp] theorem modBox_agenda (s : State) (i : Nat) (k : Mailbox → Mailbox) : (modBox s i k).agenda = s.agenda := rfl
@[simp] theorem modBox_ready (s : State) (i : Nat) (k : Mailbox → Mailbox) : (modBox s i k).ready = s.ready := rfl
@[simp] theorem modBox_groups (s : State) (i : Nat) (k : Mailbox → Mailbox) : (modBox s i k).groups = s.groups := rfl
@[simp] theorem modBox_blocks (s : State) (i : Nat) (k : Mailbox → Mailbox) : (modBox s i k).blocks = s.blocks := rfl
@[simp] theorem modBox_ctxs (s : State) (i : Nat) (k : Mailbox → Mailbox) : (modBox s i k).ctxs = s.ctxs := rfl
@[simp] theorem modBox_launches (s : State) (i : Nat) (k : Mailbox → Mailbox) : (modBox s i k).launches = s.launches := rfl
@[simp] theorem modBox_recs (s : State) (i : Nat) (k : Mailbox → Mailbox) : (modBox s i k).recs = s.recs := rfl
@[simp] theorem modBox_slots (s : State) (i : Nat) (k : Mailbox → Mailbox) : (modBox s i k).slots = s.slots := rfl
@[simp] theorem modBox_vfs (s : State) (i : Nat) (k : Mailbox → Mailbox) : (modBox s i k).vfs = s.vfs := rfl
@[simp] theorem modBox_claimq (s : State) (i : Nat) (k : Mailbox → Mailbox) : (modBox s i k).claimq = s.claimq := rfl
@[simp] theorem modBox_mem (s : State) (i : Nat) (k : Mailbox → Mailbox) : (modBox s i k).mem = s.mem := rfl
@[simp] theorem modBox_tables (s : State) (i : Nat) (k : Mailbox → Mailbox) : (modBox s i k).tables = s.tables := rfl
@[simp] theorem modBox_errs (s : State) (i : Nat) (k : Mailbox → Mailbox) : (modBox s i k).errs = s.errs := rfl
@[simp] theorem modBox_depc (s : State) (i : Nat) (k : Mailbox → Mailbox) : (modBox s i k).depc = s.depc := rfl
@[simp] theorem modBox_depcVf (s : State) (i : Nat) (k : Mailbox → Mailbox) : (modBox s i k).depcVf = s.depcVf := rfl
@[simp] theorem modBox_nextRec (s : State) (i : Nat) (k : Mailbox → Mailbox) : (modBox s i k).nextRec = s.nextRec := rfl
@[simp] theorem modBox_nextBsn (s : State) (i : Nat) (k : Mailbox → Mailbox) : (modBox s i k).nextBsn = s.nextBsn := rfl
@[simp] theorem modBox_nextLaunch (s : State) (i : Nat) (k : Mailbox → Mailbox) : (modBox s i k).nextLaunch = s.nextLaunch := rfl
@[simp] theorem modBox_wcs (s : State) (i : Nat) (k : Mailbox → Mailbox) : (modBox s i k).wcs = s.wcs := rfl
@[simp] theorem modBox_wcsUnits (s : State) (i : Nat) (k : Mailbox → Mailbox) : (modBox s i k).wcsUnits = s.wcsUnits := rfl
@[simp] theorem modBox_cores (s : State) (i : Nat) (k : Mailbox → Mailbox) : (modBox s i k).cores = s.cores := rfl
@[simp] theorem modBox_sealKeys (s : State) (i : Nat) (k : Mailbox → Mailbox) : (modBox s i k).sealKeys = s.sealKeys := rfl
@[simp] theorem modBox_pix (s : State) (i : Nat) (k : Mailbox → Mailbox) : (modBox s i k).pix = s.pix := rfl
@[simp] theorem modBox_saves (s : State) (i : Nat) (k : Mailbox → Mailbox) : (modBox s i k).saves = s.saves := rfl
@[simp] theorem modBox_clusters (s : State) (i : Nat) (k : Mailbox → Mailbox) : (modBox s i k).clusters = s.clusters := rfl
@[simp] theorem modBox_passes (s : State) (i : Nat) (k : Mailbox → Mailbox) : (modBox s i k).passes = s.passes := rfl

/-! `modSpdm` writes `sys`. -/

@[simp] theorem modSpdm_full (s : State) (i : Nat) (k : Spdm → Spdm) : (modSpdm s i k).full = s.full := rfl
@[simp] theorem modSpdm_time (s : State) (i : Nat) (k : Spdm → Spdm) : (modSpdm s i k).time = s.time := rfl
@[simp] theorem modSpdm_steps (s : State) (i : Nat) (k : Spdm → Spdm) : (modSpdm s i k).steps = s.steps := rfl
@[simp] theorem modSpdm_freeCtr (s : State) (i : Nat) (k : Spdm → Spdm) : (modSpdm s i k).freeCtr = s.freeCtr := rfl
@[simp] theorem modSpdm_agenda (s : State) (i : Nat) (k : Spdm → Spdm) : (modSpdm s i k).agenda = s.agenda := rfl
@[simp] theorem modSpdm_ready (s : State) (i : Nat) (k : Spdm → Spdm) : (modSpdm s i k).ready = s.ready := rfl
@[simp] theorem modSpdm_groups (s : State) (i : Nat) (k : Spdm → Spdm) : (modSpdm s i k).groups = s.groups := rfl
@[simp] theorem modSpdm_blocks (s : State) (i : Nat) (k : Spdm → Spdm) : (modSpdm s i k).blocks = s.blocks := rfl
@[simp] theorem modSpdm_ctxs (s : State) (i : Nat) (k : Spdm → Spdm) : (modSpdm s i k).ctxs = s.ctxs := rfl
@[simp] theorem modSpdm_launches (s : State) (i : Nat) (k : Spdm → Spdm) : (modSpdm s i k).launches = s.launches := rfl
@[simp] theorem modSpdm_recs (s : State) (i : Nat) (k : Spdm → Spdm) : (modSpdm s i k).recs = s.recs := rfl
@[simp] theorem modSpdm_slots (s : State) (i : Nat) (k : Spdm → Spdm) : (modSpdm s i k).slots = s.slots := rfl
@[simp] theorem modSpdm_vfs (s : State) (i : Nat) (k : Spdm → Spdm) : (modSpdm s i k).vfs = s.vfs := rfl
@[simp] theorem modSpdm_claimq (s : State) (i : Nat) (k : Spdm → Spdm) : (modSpdm s i k).claimq = s.claimq := rfl
@[simp] theorem modSpdm_mem (s : State) (i : Nat) (k : Spdm → Spdm) : (modSpdm s i k).mem = s.mem := rfl
@[simp] theorem modSpdm_tables (s : State) (i : Nat) (k : Spdm → Spdm) : (modSpdm s i k).tables = s.tables := rfl
@[simp] theorem modSpdm_errs (s : State) (i : Nat) (k : Spdm → Spdm) : (modSpdm s i k).errs = s.errs := rfl
@[simp] theorem modSpdm_depc (s : State) (i : Nat) (k : Spdm → Spdm) : (modSpdm s i k).depc = s.depc := rfl
@[simp] theorem modSpdm_depcVf (s : State) (i : Nat) (k : Spdm → Spdm) : (modSpdm s i k).depcVf = s.depcVf := rfl
@[simp] theorem modSpdm_nextRec (s : State) (i : Nat) (k : Spdm → Spdm) : (modSpdm s i k).nextRec = s.nextRec := rfl
@[simp] theorem modSpdm_nextBsn (s : State) (i : Nat) (k : Spdm → Spdm) : (modSpdm s i k).nextBsn = s.nextBsn := rfl
@[simp] theorem modSpdm_nextLaunch (s : State) (i : Nat) (k : Spdm → Spdm) : (modSpdm s i k).nextLaunch = s.nextLaunch := rfl
@[simp] theorem modSpdm_wcs (s : State) (i : Nat) (k : Spdm → Spdm) : (modSpdm s i k).wcs = s.wcs := rfl
@[simp] theorem modSpdm_wcsUnits (s : State) (i : Nat) (k : Spdm → Spdm) : (modSpdm s i k).wcsUnits = s.wcsUnits := rfl
@[simp] theorem modSpdm_cores (s : State) (i : Nat) (k : Spdm → Spdm) : (modSpdm s i k).cores = s.cores := rfl
@[simp] theorem modSpdm_sealKeys (s : State) (i : Nat) (k : Spdm → Spdm) : (modSpdm s i k).sealKeys = s.sealKeys := rfl
@[simp] theorem modSpdm_pix (s : State) (i : Nat) (k : Spdm → Spdm) : (modSpdm s i k).pix = s.pix := rfl
@[simp] theorem modSpdm_saves (s : State) (i : Nat) (k : Spdm → Spdm) : (modSpdm s i k).saves = s.saves := rfl
@[simp] theorem modSpdm_clusters (s : State) (i : Nat) (k : Spdm → Spdm) : (modSpdm s i k).clusters = s.clusters := rfl
@[simp] theorem modSpdm_passes (s : State) (i : Nat) (k : Spdm → Spdm) : (modSpdm s i k).passes = s.passes := rfl

/-! `modPq` writes `pix`. -/

@[simp] theorem modPq_full (s : State) (i : Nat) (k : PresQ → PresQ) : (modPq s i k).full = s.full := rfl
@[simp] theorem modPq_time (s : State) (i : Nat) (k : PresQ → PresQ) : (modPq s i k).time = s.time := rfl
@[simp] theorem modPq_steps (s : State) (i : Nat) (k : PresQ → PresQ) : (modPq s i k).steps = s.steps := rfl
@[simp] theorem modPq_freeCtr (s : State) (i : Nat) (k : PresQ → PresQ) : (modPq s i k).freeCtr = s.freeCtr := rfl
@[simp] theorem modPq_agenda (s : State) (i : Nat) (k : PresQ → PresQ) : (modPq s i k).agenda = s.agenda := rfl
@[simp] theorem modPq_ready (s : State) (i : Nat) (k : PresQ → PresQ) : (modPq s i k).ready = s.ready := rfl
@[simp] theorem modPq_groups (s : State) (i : Nat) (k : PresQ → PresQ) : (modPq s i k).groups = s.groups := rfl
@[simp] theorem modPq_blocks (s : State) (i : Nat) (k : PresQ → PresQ) : (modPq s i k).blocks = s.blocks := rfl
@[simp] theorem modPq_ctxs (s : State) (i : Nat) (k : PresQ → PresQ) : (modPq s i k).ctxs = s.ctxs := rfl
@[simp] theorem modPq_launches (s : State) (i : Nat) (k : PresQ → PresQ) : (modPq s i k).launches = s.launches := rfl
@[simp] theorem modPq_recs (s : State) (i : Nat) (k : PresQ → PresQ) : (modPq s i k).recs = s.recs := rfl
@[simp] theorem modPq_slots (s : State) (i : Nat) (k : PresQ → PresQ) : (modPq s i k).slots = s.slots := rfl
@[simp] theorem modPq_vfs (s : State) (i : Nat) (k : PresQ → PresQ) : (modPq s i k).vfs = s.vfs := rfl
@[simp] theorem modPq_claimq (s : State) (i : Nat) (k : PresQ → PresQ) : (modPq s i k).claimq = s.claimq := rfl
@[simp] theorem modPq_mem (s : State) (i : Nat) (k : PresQ → PresQ) : (modPq s i k).mem = s.mem := rfl
@[simp] theorem modPq_tables (s : State) (i : Nat) (k : PresQ → PresQ) : (modPq s i k).tables = s.tables := rfl
@[simp] theorem modPq_errs (s : State) (i : Nat) (k : PresQ → PresQ) : (modPq s i k).errs = s.errs := rfl
@[simp] theorem modPq_depc (s : State) (i : Nat) (k : PresQ → PresQ) : (modPq s i k).depc = s.depc := rfl
@[simp] theorem modPq_depcVf (s : State) (i : Nat) (k : PresQ → PresQ) : (modPq s i k).depcVf = s.depcVf := rfl
@[simp] theorem modPq_nextRec (s : State) (i : Nat) (k : PresQ → PresQ) : (modPq s i k).nextRec = s.nextRec := rfl
@[simp] theorem modPq_nextBsn (s : State) (i : Nat) (k : PresQ → PresQ) : (modPq s i k).nextBsn = s.nextBsn := rfl
@[simp] theorem modPq_nextLaunch (s : State) (i : Nat) (k : PresQ → PresQ) : (modPq s i k).nextLaunch = s.nextLaunch := rfl
@[simp] theorem modPq_wcs (s : State) (i : Nat) (k : PresQ → PresQ) : (modPq s i k).wcs = s.wcs := rfl
@[simp] theorem modPq_wcsUnits (s : State) (i : Nat) (k : PresQ → PresQ) : (modPq s i k).wcsUnits = s.wcsUnits := rfl
@[simp] theorem modPq_cores (s : State) (i : Nat) (k : PresQ → PresQ) : (modPq s i k).cores = s.cores := rfl
@[simp] theorem modPq_sealKeys (s : State) (i : Nat) (k : PresQ → PresQ) : (modPq s i k).sealKeys = s.sealKeys := rfl
@[simp] theorem modPq_saves (s : State) (i : Nat) (k : PresQ → PresQ) : (modPq s i k).saves = s.saves := rfl
@[simp] theorem modPq_clusters (s : State) (i : Nat) (k : PresQ → PresQ) : (modPq s i k).clusters = s.clusters := rfl
@[simp] theorem modPq_sys (s : State) (i : Nat) (k : PresQ → PresQ) : (modPq s i k).sys = s.sys := rfl
@[simp] theorem modPq_passes (s : State) (i : Nat) (k : PresQ → PresQ) : (modPq s i k).passes = s.passes := rfl

/-! `pushPend` writes `mem`. -/

@[simp] theorem pushPend_full (s : State) (l : List Pend) : (pushPend s l).full = s.full := rfl
@[simp] theorem pushPend_time (s : State) (l : List Pend) : (pushPend s l).time = s.time := rfl
@[simp] theorem pushPend_steps (s : State) (l : List Pend) : (pushPend s l).steps = s.steps := rfl
@[simp] theorem pushPend_freeCtr (s : State) (l : List Pend) : (pushPend s l).freeCtr = s.freeCtr := rfl
@[simp] theorem pushPend_agenda (s : State) (l : List Pend) : (pushPend s l).agenda = s.agenda := rfl
@[simp] theorem pushPend_ready (s : State) (l : List Pend) : (pushPend s l).ready = s.ready := rfl
@[simp] theorem pushPend_groups (s : State) (l : List Pend) : (pushPend s l).groups = s.groups := rfl
@[simp] theorem pushPend_blocks (s : State) (l : List Pend) : (pushPend s l).blocks = s.blocks := rfl
@[simp] theorem pushPend_ctxs (s : State) (l : List Pend) : (pushPend s l).ctxs = s.ctxs := rfl
@[simp] theorem pushPend_launches (s : State) (l : List Pend) : (pushPend s l).launches = s.launches := rfl
@[simp] theorem pushPend_recs (s : State) (l : List Pend) : (pushPend s l).recs = s.recs := rfl
@[simp] theorem pushPend_slots (s : State) (l : List Pend) : (pushPend s l).slots = s.slots := rfl
@[simp] theorem pushPend_vfs (s : State) (l : List Pend) : (pushPend s l).vfs = s.vfs := rfl
@[simp] theorem pushPend_claimq (s : State) (l : List Pend) : (pushPend s l).claimq = s.claimq := rfl
@[simp] theorem pushPend_mem (s : State) (l : List Pend) : (pushPend s l).mem = { s.mem with pend := s.mem.pend ++ l } := rfl
@[simp] theorem pushPend_tables (s : State) (l : List Pend) : (pushPend s l).tables = s.tables := rfl
@[simp] theorem pushPend_errs (s : State) (l : List Pend) : (pushPend s l).errs = s.errs := rfl
@[simp] theorem pushPend_depc (s : State) (l : List Pend) : (pushPend s l).depc = s.depc := rfl
@[simp] theorem pushPend_depcVf (s : State) (l : List Pend) : (pushPend s l).depcVf = s.depcVf := rfl
@[simp] theorem pushPend_nextRec (s : State) (l : List Pend) : (pushPend s l).nextRec = s.nextRec := rfl
@[simp] theorem pushPend_nextBsn (s : State) (l : List Pend) : (pushPend s l).nextBsn = s.nextBsn := rfl
@[simp] theorem pushPend_nextLaunch (s : State) (l : List Pend) : (pushPend s l).nextLaunch = s.nextLaunch := rfl
@[simp] theorem pushPend_wcs (s : State) (l : List Pend) : (pushPend s l).wcs = s.wcs := rfl
@[simp] theorem pushPend_wcsUnits (s : State) (l : List Pend) : (pushPend s l).wcsUnits = s.wcsUnits := rfl
@[simp] theorem pushPend_cores (s : State) (l : List Pend) : (pushPend s l).cores = s.cores := rfl
@[simp] theorem pushPend_sealKeys (s : State) (l : List Pend) : (pushPend s l).sealKeys = s.sealKeys := rfl
@[simp] theorem pushPend_pix (s : State) (l : List Pend) : (pushPend s l).pix = s.pix := rfl
@[simp] theorem pushPend_saves (s : State) (l : List Pend) : (pushPend s l).saves = s.saves := rfl
@[simp] theorem pushPend_clusters (s : State) (l : List Pend) : (pushPend s l).clusters = s.clusters := rfl
@[simp] theorem pushPend_sys (s : State) (l : List Pend) : (pushPend s l).sys = s.sys := rfl
@[simp] theorem pushPend_passes (s : State) (l : List Pend) : (pushPend s l).passes = s.passes := rfl

/-! `setPot` writes `tables`. -/

@[simp] theorem setPot_full (s : State) (i : Nat) (e : PotEntry) : (setPot s i e).full = s.full := rfl
@[simp] theorem setPot_time (s : State) (i : Nat) (e : PotEntry) : (setPot s i e).time = s.time := rfl
@[simp] theorem setPot_steps (s : State) (i : Nat) (e : PotEntry) : (setPot s i e).steps = s.steps := rfl
@[simp] theorem setPot_freeCtr (s : State) (i : Nat) (e : PotEntry) : (setPot s i e).freeCtr = s.freeCtr := rfl
@[simp] theorem setPot_agenda (s : State) (i : Nat) (e : PotEntry) : (setPot s i e).agenda = s.agenda := rfl
@[simp] theorem setPot_ready (s : State) (i : Nat) (e : PotEntry) : (setPot s i e).ready = s.ready := rfl
@[simp] theorem setPot_groups (s : State) (i : Nat) (e : PotEntry) : (setPot s i e).groups = s.groups := rfl
@[simp] theorem setPot_blocks (s : State) (i : Nat) (e : PotEntry) : (setPot s i e).blocks = s.blocks := rfl
@[simp] theorem setPot_ctxs (s : State) (i : Nat) (e : PotEntry) : (setPot s i e).ctxs = s.ctxs := rfl
@[simp] theorem setPot_launches (s : State) (i : Nat) (e : PotEntry) : (setPot s i e).launches = s.launches := rfl
@[simp] theorem setPot_recs (s : State) (i : Nat) (e : PotEntry) : (setPot s i e).recs = s.recs := rfl
@[simp] theorem setPot_slots (s : State) (i : Nat) (e : PotEntry) : (setPot s i e).slots = s.slots := rfl
@[simp] theorem setPot_vfs (s : State) (i : Nat) (e : PotEntry) : (setPot s i e).vfs = s.vfs := rfl
@[simp] theorem setPot_claimq (s : State) (i : Nat) (e : PotEntry) : (setPot s i e).claimq = s.claimq := rfl
@[simp] theorem setPot_mem (s : State) (i : Nat) (e : PotEntry) : (setPot s i e).mem = s.mem := rfl
@[simp] theorem setPot_tables (s : State) (i : Nat) (e : PotEntry) : (setPot s i e).tables = { s.tables with pot := Tbl.set s.tables.pot i e } := rfl
@[simp] theorem setPot_errs (s : State) (i : Nat) (e : PotEntry) : (setPot s i e).errs = s.errs := rfl
@[simp] theorem setPot_depc (s : State) (i : Nat) (e : PotEntry) : (setPot s i e).depc = s.depc := rfl
@[simp] theorem setPot_depcVf (s : State) (i : Nat) (e : PotEntry) : (setPot s i e).depcVf = s.depcVf := rfl
@[simp] theorem setPot_nextRec (s : State) (i : Nat) (e : PotEntry) : (setPot s i e).nextRec = s.nextRec := rfl
@[simp] theorem setPot_nextBsn (s : State) (i : Nat) (e : PotEntry) : (setPot s i e).nextBsn = s.nextBsn := rfl
@[simp] theorem setPot_nextLaunch (s : State) (i : Nat) (e : PotEntry) : (setPot s i e).nextLaunch = s.nextLaunch := rfl
@[simp] theorem setPot_wcs (s : State) (i : Nat) (e : PotEntry) : (setPot s i e).wcs = s.wcs := rfl
@[simp] theorem setPot_wcsUnits (s : State) (i : Nat) (e : PotEntry) : (setPot s i e).wcsUnits = s.wcsUnits := rfl
@[simp] theorem setPot_cores (s : State) (i : Nat) (e : PotEntry) : (setPot s i e).cores = s.cores := rfl
@[simp] theorem setPot_sealKeys (s : State) (i : Nat) (e : PotEntry) : (setPot s i e).sealKeys = s.sealKeys := rfl
@[simp] theorem setPot_pix (s : State) (i : Nat) (e : PotEntry) : (setPot s i e).pix = s.pix := rfl
@[simp] theorem setPot_saves (s : State) (i : Nat) (e : PotEntry) : (setPot s i e).saves = s.saves := rfl
@[simp] theorem setPot_clusters (s : State) (i : Nat) (e : PotEntry) : (setPot s i e).clusters = s.clusters := rfl
@[simp] theorem setPot_sys (s : State) (i : Nat) (e : PotEntry) : (setPot s i e).sys = s.sys := rfl
@[simp] theorem setPot_passes (s : State) (i : Nat) (e : PotEntry) : (setPot s i e).passes = s.passes := rfl

/-! `setTd` writes `ctxs`. -/

@[simp] theorem setTd_full (s : State) (i : Nat) (k : SMap 512 → SMap 512) : (setTd s i k).full = s.full := rfl
@[simp] theorem setTd_time (s : State) (i : Nat) (k : SMap 512 → SMap 512) : (setTd s i k).time = s.time := rfl
@[simp] theorem setTd_steps (s : State) (i : Nat) (k : SMap 512 → SMap 512) : (setTd s i k).steps = s.steps := rfl
@[simp] theorem setTd_freeCtr (s : State) (i : Nat) (k : SMap 512 → SMap 512) : (setTd s i k).freeCtr = s.freeCtr := rfl
@[simp] theorem setTd_agenda (s : State) (i : Nat) (k : SMap 512 → SMap 512) : (setTd s i k).agenda = s.agenda := rfl
@[simp] theorem setTd_ready (s : State) (i : Nat) (k : SMap 512 → SMap 512) : (setTd s i k).ready = s.ready := rfl
@[simp] theorem setTd_groups (s : State) (i : Nat) (k : SMap 512 → SMap 512) : (setTd s i k).groups = s.groups := rfl
@[simp] theorem setTd_blocks (s : State) (i : Nat) (k : SMap 512 → SMap 512) : (setTd s i k).blocks = s.blocks := rfl
@[simp] theorem setTd_launches (s : State) (i : Nat) (k : SMap 512 → SMap 512) : (setTd s i k).launches = s.launches := rfl
@[simp] theorem setTd_recs (s : State) (i : Nat) (k : SMap 512 → SMap 512) : (setTd s i k).recs = s.recs := rfl
@[simp] theorem setTd_slots (s : State) (i : Nat) (k : SMap 512 → SMap 512) : (setTd s i k).slots = s.slots := rfl
@[simp] theorem setTd_vfs (s : State) (i : Nat) (k : SMap 512 → SMap 512) : (setTd s i k).vfs = s.vfs := rfl
@[simp] theorem setTd_claimq (s : State) (i : Nat) (k : SMap 512 → SMap 512) : (setTd s i k).claimq = s.claimq := rfl
@[simp] theorem setTd_mem (s : State) (i : Nat) (k : SMap 512 → SMap 512) : (setTd s i k).mem = s.mem := rfl
@[simp] theorem setTd_tables (s : State) (i : Nat) (k : SMap 512 → SMap 512) : (setTd s i k).tables = s.tables := rfl
@[simp] theorem setTd_errs (s : State) (i : Nat) (k : SMap 512 → SMap 512) : (setTd s i k).errs = s.errs := rfl
@[simp] theorem setTd_depc (s : State) (i : Nat) (k : SMap 512 → SMap 512) : (setTd s i k).depc = s.depc := rfl
@[simp] theorem setTd_depcVf (s : State) (i : Nat) (k : SMap 512 → SMap 512) : (setTd s i k).depcVf = s.depcVf := rfl
@[simp] theorem setTd_nextRec (s : State) (i : Nat) (k : SMap 512 → SMap 512) : (setTd s i k).nextRec = s.nextRec := rfl
@[simp] theorem setTd_nextBsn (s : State) (i : Nat) (k : SMap 512 → SMap 512) : (setTd s i k).nextBsn = s.nextBsn := rfl
@[simp] theorem setTd_nextLaunch (s : State) (i : Nat) (k : SMap 512 → SMap 512) : (setTd s i k).nextLaunch = s.nextLaunch := rfl
@[simp] theorem setTd_wcs (s : State) (i : Nat) (k : SMap 512 → SMap 512) : (setTd s i k).wcs = s.wcs := rfl
@[simp] theorem setTd_wcsUnits (s : State) (i : Nat) (k : SMap 512 → SMap 512) : (setTd s i k).wcsUnits = s.wcsUnits := rfl
@[simp] theorem setTd_cores (s : State) (i : Nat) (k : SMap 512 → SMap 512) : (setTd s i k).cores = s.cores := rfl
@[simp] theorem setTd_sealKeys (s : State) (i : Nat) (k : SMap 512 → SMap 512) : (setTd s i k).sealKeys = s.sealKeys := rfl
@[simp] theorem setTd_pix (s : State) (i : Nat) (k : SMap 512 → SMap 512) : (setTd s i k).pix = s.pix := rfl
@[simp] theorem setTd_saves (s : State) (i : Nat) (k : SMap 512 → SMap 512) : (setTd s i k).saves = s.saves := rfl
@[simp] theorem setTd_clusters (s : State) (i : Nat) (k : SMap 512 → SMap 512) : (setTd s i k).clusters = s.clusters := rfl
@[simp] theorem setTd_sys (s : State) (i : Nat) (k : SMap 512 → SMap 512) : (setTd s i k).sys = s.sys := rfl
@[simp] theorem setTd_passes (s : State) (i : Nat) (k : SMap 512 → SMap 512) : (setTd s i k).passes = s.passes := rfl

/-! `modBind` writes `ctxs`. -/

@[simp] theorem modBind_full (s : State) (i : Nat) (k : SMap 64 → SMap 64) : (modBind s i k).full = s.full := rfl
@[simp] theorem modBind_time (s : State) (i : Nat) (k : SMap 64 → SMap 64) : (modBind s i k).time = s.time := rfl
@[simp] theorem modBind_steps (s : State) (i : Nat) (k : SMap 64 → SMap 64) : (modBind s i k).steps = s.steps := rfl
@[simp] theorem modBind_freeCtr (s : State) (i : Nat) (k : SMap 64 → SMap 64) : (modBind s i k).freeCtr = s.freeCtr := rfl
@[simp] theorem modBind_agenda (s : State) (i : Nat) (k : SMap 64 → SMap 64) : (modBind s i k).agenda = s.agenda := rfl
@[simp] theorem modBind_ready (s : State) (i : Nat) (k : SMap 64 → SMap 64) : (modBind s i k).ready = s.ready := rfl
@[simp] theorem modBind_groups (s : State) (i : Nat) (k : SMap 64 → SMap 64) : (modBind s i k).groups = s.groups := rfl
@[simp] theorem modBind_blocks (s : State) (i : Nat) (k : SMap 64 → SMap 64) : (modBind s i k).blocks = s.blocks := rfl
@[simp] theorem modBind_launches (s : State) (i : Nat) (k : SMap 64 → SMap 64) : (modBind s i k).launches = s.launches := rfl
@[simp] theorem modBind_recs (s : State) (i : Nat) (k : SMap 64 → SMap 64) : (modBind s i k).recs = s.recs := rfl
@[simp] theorem modBind_slots (s : State) (i : Nat) (k : SMap 64 → SMap 64) : (modBind s i k).slots = s.slots := rfl
@[simp] theorem modBind_vfs (s : State) (i : Nat) (k : SMap 64 → SMap 64) : (modBind s i k).vfs = s.vfs := rfl
@[simp] theorem modBind_claimq (s : State) (i : Nat) (k : SMap 64 → SMap 64) : (modBind s i k).claimq = s.claimq := rfl
@[simp] theorem modBind_mem (s : State) (i : Nat) (k : SMap 64 → SMap 64) : (modBind s i k).mem = s.mem := rfl
@[simp] theorem modBind_tables (s : State) (i : Nat) (k : SMap 64 → SMap 64) : (modBind s i k).tables = s.tables := rfl
@[simp] theorem modBind_errs (s : State) (i : Nat) (k : SMap 64 → SMap 64) : (modBind s i k).errs = s.errs := rfl
@[simp] theorem modBind_depc (s : State) (i : Nat) (k : SMap 64 → SMap 64) : (modBind s i k).depc = s.depc := rfl
@[simp] theorem modBind_depcVf (s : State) (i : Nat) (k : SMap 64 → SMap 64) : (modBind s i k).depcVf = s.depcVf := rfl
@[simp] theorem modBind_nextRec (s : State) (i : Nat) (k : SMap 64 → SMap 64) : (modBind s i k).nextRec = s.nextRec := rfl
@[simp] theorem modBind_nextBsn (s : State) (i : Nat) (k : SMap 64 → SMap 64) : (modBind s i k).nextBsn = s.nextBsn := rfl
@[simp] theorem modBind_nextLaunch (s : State) (i : Nat) (k : SMap 64 → SMap 64) : (modBind s i k).nextLaunch = s.nextLaunch := rfl
@[simp] theorem modBind_wcs (s : State) (i : Nat) (k : SMap 64 → SMap 64) : (modBind s i k).wcs = s.wcs := rfl
@[simp] theorem modBind_wcsUnits (s : State) (i : Nat) (k : SMap 64 → SMap 64) : (modBind s i k).wcsUnits = s.wcsUnits := rfl
@[simp] theorem modBind_cores (s : State) (i : Nat) (k : SMap 64 → SMap 64) : (modBind s i k).cores = s.cores := rfl
@[simp] theorem modBind_sealKeys (s : State) (i : Nat) (k : SMap 64 → SMap 64) : (modBind s i k).sealKeys = s.sealKeys := rfl
@[simp] theorem modBind_pix (s : State) (i : Nat) (k : SMap 64 → SMap 64) : (modBind s i k).pix = s.pix := rfl
@[simp] theorem modBind_saves (s : State) (i : Nat) (k : SMap 64 → SMap 64) : (modBind s i k).saves = s.saves := rfl
@[simp] theorem modBind_clusters (s : State) (i : Nat) (k : SMap 64 → SMap 64) : (modBind s i k).clusters = s.clusters := rfl
@[simp] theorem modBind_sys (s : State) (i : Nat) (k : SMap 64 → SMap 64) : (modBind s i k).sys = s.sys := rfl
@[simp] theorem modBind_passes (s : State) (i : Nat) (k : SMap 64 → SMap 64) : (modBind s i k).passes = s.passes := rfl

/-! `setWorld` writes `sys`. -/

@[simp] theorem setWorld_full (s : State) (i : Nat) (x : World) : (setWorld s i x).full = s.full := rfl
@[simp] theorem setWorld_time (s : State) (i : Nat) (x : World) : (setWorld s i x).time = s.time := rfl
@[simp] theorem setWorld_steps (s : State) (i : Nat) (x : World) : (setWorld s i x).steps = s.steps := rfl
@[simp] theorem setWorld_freeCtr (s : State) (i : Nat) (x : World) : (setWorld s i x).freeCtr = s.freeCtr := rfl
@[simp] theorem setWorld_agenda (s : State) (i : Nat) (x : World) : (setWorld s i x).agenda = s.agenda := rfl
@[simp] theorem setWorld_ready (s : State) (i : Nat) (x : World) : (setWorld s i x).ready = s.ready := rfl
@[simp] theorem setWorld_groups (s : State) (i : Nat) (x : World) : (setWorld s i x).groups = s.groups := rfl
@[simp] theorem setWorld_blocks (s : State) (i : Nat) (x : World) : (setWorld s i x).blocks = s.blocks := rfl
@[simp] theorem setWorld_ctxs (s : State) (i : Nat) (x : World) : (setWorld s i x).ctxs = s.ctxs := rfl
@[simp] theorem setWorld_launches (s : State) (i : Nat) (x : World) : (setWorld s i x).launches = s.launches := rfl
@[simp] theorem setWorld_recs (s : State) (i : Nat) (x : World) : (setWorld s i x).recs = s.recs := rfl
@[simp] theorem setWorld_slots (s : State) (i : Nat) (x : World) : (setWorld s i x).slots = s.slots := rfl
@[simp] theorem setWorld_vfs (s : State) (i : Nat) (x : World) : (setWorld s i x).vfs = s.vfs := rfl
@[simp] theorem setWorld_claimq (s : State) (i : Nat) (x : World) : (setWorld s i x).claimq = s.claimq := rfl
@[simp] theorem setWorld_mem (s : State) (i : Nat) (x : World) : (setWorld s i x).mem = s.mem := rfl
@[simp] theorem setWorld_tables (s : State) (i : Nat) (x : World) : (setWorld s i x).tables = s.tables := rfl
@[simp] theorem setWorld_errs (s : State) (i : Nat) (x : World) : (setWorld s i x).errs = s.errs := rfl
@[simp] theorem setWorld_depc (s : State) (i : Nat) (x : World) : (setWorld s i x).depc = s.depc := rfl
@[simp] theorem setWorld_depcVf (s : State) (i : Nat) (x : World) : (setWorld s i x).depcVf = s.depcVf := rfl
@[simp] theorem setWorld_nextRec (s : State) (i : Nat) (x : World) : (setWorld s i x).nextRec = s.nextRec := rfl
@[simp] theorem setWorld_nextBsn (s : State) (i : Nat) (x : World) : (setWorld s i x).nextBsn = s.nextBsn := rfl
@[simp] theorem setWorld_nextLaunch (s : State) (i : Nat) (x : World) : (setWorld s i x).nextLaunch = s.nextLaunch := rfl
@[simp] theorem setWorld_wcs (s : State) (i : Nat) (x : World) : (setWorld s i x).wcs = s.wcs := rfl
@[simp] theorem setWorld_wcsUnits (s : State) (i : Nat) (x : World) : (setWorld s i x).wcsUnits = s.wcsUnits := rfl
@[simp] theorem setWorld_cores (s : State) (i : Nat) (x : World) : (setWorld s i x).cores = s.cores := rfl
@[simp] theorem setWorld_sealKeys (s : State) (i : Nat) (x : World) : (setWorld s i x).sealKeys = s.sealKeys := rfl
@[simp] theorem setWorld_pix (s : State) (i : Nat) (x : World) : (setWorld s i x).pix = s.pix := rfl
@[simp] theorem setWorld_saves (s : State) (i : Nat) (x : World) : (setWorld s i x).saves = s.saves := rfl
@[simp] theorem setWorld_clusters (s : State) (i : Nat) (x : World) : (setWorld s i x).clusters = s.clusters := rfl
@[simp] theorem setWorld_passes (s : State) (i : Nat) (x : World) : (setWorld s i x).passes = s.passes := rfl

/-! `setMig` writes `sys`. -/

@[simp] theorem setMig_full (s : State) (i : Nat) (x : Mig) : (setMig s i x).full = s.full := rfl
@[simp] theorem setMig_time (s : State) (i : Nat) (x : Mig) : (setMig s i x).time = s.time := rfl
@[simp] theorem setMig_steps (s : State) (i : Nat) (x : Mig) : (setMig s i x).steps = s.steps := rfl
@[simp] theorem setMig_freeCtr (s : State) (i : Nat) (x : Mig) : (setMig s i x).freeCtr = s.freeCtr := rfl
@[simp] theorem setMig_agenda (s : State) (i : Nat) (x : Mig) : (setMig s i x).agenda = s.agenda := rfl
@[simp] theorem setMig_ready (s : State) (i : Nat) (x : Mig) : (setMig s i x).ready = s.ready := rfl
@[simp] theorem setMig_groups (s : State) (i : Nat) (x : Mig) : (setMig s i x).groups = s.groups := rfl
@[simp] theorem setMig_blocks (s : State) (i : Nat) (x : Mig) : (setMig s i x).blocks = s.blocks := rfl
@[simp] theorem setMig_ctxs (s : State) (i : Nat) (x : Mig) : (setMig s i x).ctxs = s.ctxs := rfl
@[simp] theorem setMig_launches (s : State) (i : Nat) (x : Mig) : (setMig s i x).launches = s.launches := rfl
@[simp] theorem setMig_recs (s : State) (i : Nat) (x : Mig) : (setMig s i x).recs = s.recs := rfl
@[simp] theorem setMig_slots (s : State) (i : Nat) (x : Mig) : (setMig s i x).slots = s.slots := rfl
@[simp] theorem setMig_vfs (s : State) (i : Nat) (x : Mig) : (setMig s i x).vfs = s.vfs := rfl
@[simp] theorem setMig_claimq (s : State) (i : Nat) (x : Mig) : (setMig s i x).claimq = s.claimq := rfl
@[simp] theorem setMig_mem (s : State) (i : Nat) (x : Mig) : (setMig s i x).mem = s.mem := rfl
@[simp] theorem setMig_tables (s : State) (i : Nat) (x : Mig) : (setMig s i x).tables = s.tables := rfl
@[simp] theorem setMig_errs (s : State) (i : Nat) (x : Mig) : (setMig s i x).errs = s.errs := rfl
@[simp] theorem setMig_depc (s : State) (i : Nat) (x : Mig) : (setMig s i x).depc = s.depc := rfl
@[simp] theorem setMig_depcVf (s : State) (i : Nat) (x : Mig) : (setMig s i x).depcVf = s.depcVf := rfl
@[simp] theorem setMig_nextRec (s : State) (i : Nat) (x : Mig) : (setMig s i x).nextRec = s.nextRec := rfl
@[simp] theorem setMig_nextBsn (s : State) (i : Nat) (x : Mig) : (setMig s i x).nextBsn = s.nextBsn := rfl
@[simp] theorem setMig_nextLaunch (s : State) (i : Nat) (x : Mig) : (setMig s i x).nextLaunch = s.nextLaunch := rfl
@[simp] theorem setMig_wcs (s : State) (i : Nat) (x : Mig) : (setMig s i x).wcs = s.wcs := rfl
@[simp] theorem setMig_wcsUnits (s : State) (i : Nat) (x : Mig) : (setMig s i x).wcsUnits = s.wcsUnits := rfl
@[simp] theorem setMig_cores (s : State) (i : Nat) (x : Mig) : (setMig s i x).cores = s.cores := rfl
@[simp] theorem setMig_sealKeys (s : State) (i : Nat) (x : Mig) : (setMig s i x).sealKeys = s.sealKeys := rfl
@[simp] theorem setMig_pix (s : State) (i : Nat) (x : Mig) : (setMig s i x).pix = s.pix := rfl
@[simp] theorem setMig_saves (s : State) (i : Nat) (x : Mig) : (setMig s i x).saves = s.saves := rfl
@[simp] theorem setMig_clusters (s : State) (i : Nat) (x : Mig) : (setMig s i x).clusters = s.clusters := rfl
@[simp] theorem setMig_passes (s : State) (i : Nat) (x : Mig) : (setMig s i x).passes = s.passes := rfl

/-! `setVreg` writes `regs` of a group. -/

@[simp] theorem setVreg_w (g : Group) (r l : Nat) (v : W32) : (setVreg g r l v).w = g.w := rfl
@[simp] theorem setVreg_total (g : Group) (r l : Nat) (v : W32) : (setVreg g r l v).total = g.total := rfl
@[simp] theorem setVreg_base (g : Group) (r l : Nat) (v : W32) : (setVreg g r l v).base = g.base := rfl
@[simp] theorem setVreg_ext (g : Group) (r l : Nat) (v : W32) : (setVreg g r l v).ext = g.ext := rfl
@[simp] theorem setVreg_gang (g : Group) (r l : Nat) (v : W32) : (setVreg g r l v).gang = g.gang := rfl
@[simp] theorem setVreg_fibres (g : Group) (r l : Nat) (v : W32) : (setVreg g r l v).fibres = g.fibres := rfl
@[simp] theorem setVreg_cur (g : Group) (r l : Nat) (v : W32) : (setVreg g r l v).cur = g.cur := rfl
@[simp] theorem setVreg_starved (g : Group) (r l : Nat) (v : W32) : (setVreg g r l v).starved = g.starved := rfl
@[simp] theorem setVreg_frames (g : Group) (r l : Nat) (v : W32) : (setVreg g r l v).frames = g.frames := rfl
@[simp] theorem setVreg_wait (g : Group) (r l : Nat) (v : W32) : (setVreg g r l v).wait = g.wait := rfl
@[simp] theorem setVreg_eng (g : Group) (r l : Nat) (v : W32) : (setVreg g r l v).eng = g.eng := rfl
@[simp] theorem setVreg_tc (g : Group) (r l : Nat) (v : W32) : (setVreg g r l v).tc = g.tc := rfl
@[simp] theorem setVreg_contrib (g : Group) (r l : Nat) (v : W32) : (setVreg g r l v).contrib = g.contrib := rfl
@[simp] theorem setVreg_place (g : Group) (r l : Nat) (v : W32) : (setVreg g r l v).place = g.place := rfl
@[simp] theorem setVreg_readyAt (g : Group) (r l : Nat) (v : W32) : (setVreg g r l v).readyAt = g.readyAt := rfl
@[simp] theorem setVreg_handler (g : Group) (r l : Nat) (v : W32) : (setVreg g r l v).handler = g.handler := rfl
@[simp] theorem setVreg_frag (g : Group) (r l : Nat) (v : W32) : (setVreg g r l v).frag = g.frag := rfl

/-! `setSreg` writes `regs` of a group. -/

@[simp] theorem setSreg_w (g : Group) (r : Nat) (v : W64) : (setSreg g r v).w = g.w := rfl
@[simp] theorem setSreg_total (g : Group) (r : Nat) (v : W64) : (setSreg g r v).total = g.total := rfl
@[simp] theorem setSreg_base (g : Group) (r : Nat) (v : W64) : (setSreg g r v).base = g.base := rfl
@[simp] theorem setSreg_ext (g : Group) (r : Nat) (v : W64) : (setSreg g r v).ext = g.ext := rfl
@[simp] theorem setSreg_gang (g : Group) (r : Nat) (v : W64) : (setSreg g r v).gang = g.gang := rfl
@[simp] theorem setSreg_fibres (g : Group) (r : Nat) (v : W64) : (setSreg g r v).fibres = g.fibres := rfl
@[simp] theorem setSreg_cur (g : Group) (r : Nat) (v : W64) : (setSreg g r v).cur = g.cur := rfl
@[simp] theorem setSreg_starved (g : Group) (r : Nat) (v : W64) : (setSreg g r v).starved = g.starved := rfl
@[simp] theorem setSreg_frames (g : Group) (r : Nat) (v : W64) : (setSreg g r v).frames = g.frames := rfl
@[simp] theorem setSreg_wait (g : Group) (r : Nat) (v : W64) : (setSreg g r v).wait = g.wait := rfl
@[simp] theorem setSreg_eng (g : Group) (r : Nat) (v : W64) : (setSreg g r v).eng = g.eng := rfl
@[simp] theorem setSreg_tc (g : Group) (r : Nat) (v : W64) : (setSreg g r v).tc = g.tc := rfl
@[simp] theorem setSreg_contrib (g : Group) (r : Nat) (v : W64) : (setSreg g r v).contrib = g.contrib := rfl
@[simp] theorem setSreg_place (g : Group) (r : Nat) (v : W64) : (setSreg g r v).place = g.place := rfl
@[simp] theorem setSreg_readyAt (g : Group) (r : Nat) (v : W64) : (setSreg g r v).readyAt = g.readyAt := rfl
@[simp] theorem setSreg_handler (g : Group) (r : Nat) (v : W64) : (setSreg g r v).handler = g.handler := rfl
@[simp] theorem setSreg_frag (g : Group) (r : Nat) (v : W64) : (setSreg g r v).frag = g.frag := rfl

/-! `setHv` writes `regs` of a group. -/

@[simp] theorem setHv_w (g : Group) (r l : Nat) (v : W64) : (setHv g r l v).w = g.w := rfl
@[simp] theorem setHv_total (g : Group) (r l : Nat) (v : W64) : (setHv g r l v).total = g.total := rfl
@[simp] theorem setHv_base (g : Group) (r l : Nat) (v : W64) : (setHv g r l v).base = g.base := rfl
@[simp] theorem setHv_ext (g : Group) (r l : Nat) (v : W64) : (setHv g r l v).ext = g.ext := rfl
@[simp] theorem setHv_gang (g : Group) (r l : Nat) (v : W64) : (setHv g r l v).gang = g.gang := rfl
@[simp] theorem setHv_fibres (g : Group) (r l : Nat) (v : W64) : (setHv g r l v).fibres = g.fibres := rfl
@[simp] theorem setHv_cur (g : Group) (r l : Nat) (v : W64) : (setHv g r l v).cur = g.cur := rfl
@[simp] theorem setHv_starved (g : Group) (r l : Nat) (v : W64) : (setHv g r l v).starved = g.starved := rfl
@[simp] theorem setHv_frames (g : Group) (r l : Nat) (v : W64) : (setHv g r l v).frames = g.frames := rfl
@[simp] theorem setHv_wait (g : Group) (r l : Nat) (v : W64) : (setHv g r l v).wait = g.wait := rfl
@[simp] theorem setHv_eng (g : Group) (r l : Nat) (v : W64) : (setHv g r l v).eng = g.eng := rfl
@[simp] theorem setHv_tc (g : Group) (r l : Nat) (v : W64) : (setHv g r l v).tc = g.tc := rfl
@[simp] theorem setHv_contrib (g : Group) (r l : Nat) (v : W64) : (setHv g r l v).contrib = g.contrib := rfl
@[simp] theorem setHv_place (g : Group) (r l : Nat) (v : W64) : (setHv g r l v).place = g.place := rfl
@[simp] theorem setHv_readyAt (g : Group) (r l : Nat) (v : W64) : (setHv g r l v).readyAt = g.readyAt := rfl
@[simp] theorem setHv_handler (g : Group) (r l : Nat) (v : W64) : (setHv g r l v).handler = g.handler := rfl
@[simp] theorem setHv_frag (g : Group) (r l : Nat) (v : W64) : (setHv g r l v).frag = g.frag := rfl

/-! `setMask` writes `regs` of a group. -/

@[simp] theorem setMask_w (g : Group) (r : Nat) (v : W64) : (setMask g r v).w = g.w := rfl
@[simp] theorem setMask_total (g : Group) (r : Nat) (v : W64) : (setMask g r v).total = g.total := rfl
@[simp] theorem setMask_base (g : Group) (r : Nat) (v : W64) : (setMask g r v).base = g.base := rfl
@[simp] theorem setMask_ext (g : Group) (r : Nat) (v : W64) : (setMask g r v).ext = g.ext := rfl
@[simp] theorem setMask_gang (g : Group) (r : Nat) (v : W64) : (setMask g r v).gang = g.gang := rfl
@[simp] theorem setMask_fibres (g : Group) (r : Nat) (v : W64) : (setMask g r v).fibres = g.fibres := rfl
@[simp] theorem setMask_cur (g : Group) (r : Nat) (v : W64) : (setMask g r v).cur = g.cur := rfl
@[simp] theorem setMask_starved (g : Group) (r : Nat) (v : W64) : (setMask g r v).starved = g.starved := rfl
@[simp] theorem setMask_frames (g : Group) (r : Nat) (v : W64) : (setMask g r v).frames = g.frames := rfl
@[simp] theorem setMask_wait (g : Group) (r : Nat) (v : W64) : (setMask g r v).wait = g.wait := rfl
@[simp] theorem setMask_eng (g : Group) (r : Nat) (v : W64) : (setMask g r v).eng = g.eng := rfl
@[simp] theorem setMask_tc (g : Group) (r : Nat) (v : W64) : (setMask g r v).tc = g.tc := rfl
@[simp] theorem setMask_contrib (g : Group) (r : Nat) (v : W64) : (setMask g r v).contrib = g.contrib := rfl
@[simp] theorem setMask_place (g : Group) (r : Nat) (v : W64) : (setMask g r v).place = g.place := rfl
@[simp] theorem setMask_readyAt (g : Group) (r : Nat) (v : W64) : (setMask g r v).readyAt = g.readyAt := rfl
@[simp] theorem setMask_handler (g : Group) (r : Nat) (v : W64) : (setMask g r v).handler = g.handler := rfl
@[simp] theorem setMask_frag (g : Group) (r : Nat) (v : W64) : (setMask g r v).frag = g.frag := rfl

/-! `modFibre` writes `fibres` of a group. -/

@[simp] theorem modFibre_w (g : Group) (i : Nat) (k : Fibre → Fibre) : (modFibre g i k).w = g.w := rfl
@[simp] theorem modFibre_total (g : Group) (i : Nat) (k : Fibre → Fibre) : (modFibre g i k).total = g.total := rfl
@[simp] theorem modFibre_base (g : Group) (i : Nat) (k : Fibre → Fibre) : (modFibre g i k).base = g.base := rfl
@[simp] theorem modFibre_ext (g : Group) (i : Nat) (k : Fibre → Fibre) : (modFibre g i k).ext = g.ext := rfl
@[simp] theorem modFibre_gang (g : Group) (i : Nat) (k : Fibre → Fibre) : (modFibre g i k).gang = g.gang := rfl
@[simp] theorem modFibre_regs (g : Group) (i : Nat) (k : Fibre → Fibre) : (modFibre g i k).regs = g.regs := rfl
@[simp] theorem modFibre_fibres (g : Group) (i : Nat) (k : Fibre → Fibre) : (modFibre g i k).fibres = Tbl.modify g.fibres i k := rfl
@[simp] theorem modFibre_cur (g : Group) (i : Nat) (k : Fibre → Fibre) : (modFibre g i k).cur = g.cur := rfl
@[simp] theorem modFibre_starved (g : Group) (i : Nat) (k : Fibre → Fibre) : (modFibre g i k).starved = g.starved := rfl
@[simp] theorem modFibre_frames (g : Group) (i : Nat) (k : Fibre → Fibre) : (modFibre g i k).frames = g.frames := rfl
@[simp] theorem modFibre_wait (g : Group) (i : Nat) (k : Fibre → Fibre) : (modFibre g i k).wait = g.wait := rfl
@[simp] theorem modFibre_eng (g : Group) (i : Nat) (k : Fibre → Fibre) : (modFibre g i k).eng = g.eng := rfl
@[simp] theorem modFibre_tc (g : Group) (i : Nat) (k : Fibre → Fibre) : (modFibre g i k).tc = g.tc := rfl
@[simp] theorem modFibre_contrib (g : Group) (i : Nat) (k : Fibre → Fibre) : (modFibre g i k).contrib = g.contrib := rfl
@[simp] theorem modFibre_place (g : Group) (i : Nat) (k : Fibre → Fibre) : (modFibre g i k).place = g.place := rfl
@[simp] theorem modFibre_readyAt (g : Group) (i : Nat) (k : Fibre → Fibre) : (modFibre g i k).readyAt = g.readyAt := rfl
@[simp] theorem modFibre_handler (g : Group) (i : Nat) (k : Fibre → Fibre) : (modFibre g i k).handler = g.handler := rfl
@[simp] theorem modFibre_frag (g : Group) (i : Nat) (k : Fibre → Fibre) : (modFibre g i k).frag = g.frag := rfl

end Sys2Proof.Machine
end

