-- ==== Sys2Proof/Laws/Units.lean ====
section
/-! SUPPORT. The shared operations of the act-once, engine and micro-op instructions, at a state where their preconditions hold. -/

namespace Sys2Proof.Machine

/-- A format G instruction that is ready has its own effect. -/
theorem gRun_pair {s : State} {h : Here} {c : List Nat} {b : Bool} {f : GFmt} (k : State → Here → Nat → State) (e : PairReady s h c b f) :
    gRun c b f.pfx (abRegs f) k s = .next (k s h (lenOf f.pfx)) :=
  gRun_ready k e.1 e.2

/-- A group that is quiet has no access to be performed. -/
theorem noneDue_quiet {s : State} {h : Here} (q : Quiet s h) : inFlight s (fun a => a.gid == h.gid && a.val.isNone) = false := by
  have q := q.1
  simp only [inFlight, Bool.or_eq_false_iff, List.any_eq_false] at q ⊢
  refine ⟨fun x hx => ?_, fun x hx => ?_⟩
  · have := q.1 x hx
    simp at this ⊢
    exact fun h => absurd h this
  · have := q.2 x hx
    cases x <;> simp at this ⊢
    · exact fun h => absurd h this
    · exact fun a ha h => absurd h (this a ha)

/-- What waits for a group's stores goes on at once in a group that is still. -/
theorem afterStores_still {s : State} {h : Here} (q : Still s h) (e : s.here = some h) (k : State → Here → State) :
    afterStores s h k = k s h := by
  have h1 : accStoresDue s h.gid = false := by
    have := q.1.2
    simp [releaseDue] at this
    exact this.1.1.2
  simp [afterStores, drainGroup_quiet q.1.1, h1, noneDue_quiet q.1, q.2.1, q.2.2, e]

/-- What waits for a group's acknowledgements as well goes on at once in a quiet group with none due. -/
theorem afterDevice_quiet {s : State} {h : Here} (k : State → Here → State) (e : s.here = some h) (q : Quiet s h)
    (g : groupOnFabric s h.gid = false) : afterDevice s h k = k s h := by
  simp [afterDevice, drainGroup_quiet q.1, q.2, g, e]

/-- A frontier instruction goes on with the pages that it needs resident (R252, R257). -/
theorem withPages_in {s t : State} {lid : Nat} {l m : Launch} {pages : List Nat} (h : Here) (k : State → Here → Launch → State)
    (e : PagesIn s lid l pages t m) : withPages s h lid l pages k = k t h m := by
  unfold withPages
  unfold PagesIn at e
  split at e
  · rename_i c; rw [if_pos c, e.1, e.2]
  · rename_i c; rw [if_neg c, e.1]; simp [e.2]

/-- An accumulator instruction that is ready, of a context that owns its core's units, has its own effect. -/
theorem accRun_ready {s : State} {h : Here} {c : List Nat} {f : GFmt} (k : State → Here → Nat → State) (e : PairReady s h c true f)
    (u : UnitsReady s h) : accRun c f k s = .next (k s h (lenOf f.pfx)) := by
  rw [accRun, issue_here _ e.1.1, checked_legal _ _ _ e.1, useUnits]
  rw [if_neg (by simp [u.1]), if_neg (by simp [u.2])]
  exact congrArg _ (withRegs_free _ e.1.1 e.2)

/-- An operation of one core that is ready enters the engine queue. -/
theorem soloIssue_ready {s : State} {h : Here} {k : MashKind} (len : Nat) (x y : List Nat) (e : SoloReady s h k) :
    soloIssue s h len k x y = s.queues h k x y len := by
  rw [soloIssue, if_neg]; rfl
  have := e.1
  simp [e.2]; omega

/-- A micro-op that is ready has its own effect. -/
theorem uopRun_ready {s : State} {u : UHere} (k : State → UHere → State) (e : UopReady s u) : uopRun s k = .next (k s u) := by
  obtain ⟨h1, h2, h3, h4, h5, h6⟩ := e
  cases u with
  | mk h m en =>
    simp only at *
    simp only [uopRun, h1, h2, h6, Bool.false_eq_true, if_false]
    rw [if_neg]
    · rw [h3]
    · rw [← h3, h4, h5]; simp

end Sys2Proof.Machine
end

