-- ==== Sys2Proof/Tests/Slice0.lean ====
section
/-! SUPPORT. Small tests: ill-formed terms, decoding, single steps, and a state that meets the hypotheses of each obligation. The expected
values are worked out by hand from the rules named. -/

open Sys2Proof Sys2Proof.Machine

namespace Sys2Proof.Tests

set_option maxRecDepth 20000
set_option Elab.async false

/-! A small machine: one context of the PF, one block of a launch's point, one group of 16 lanes with 32 vector registers. -/

/-- Page tables at 0x80000: 0x8000 executable, 0x10000 loose, 0x18000 strong, 0x20000 release, all but the first writable. -/
def pages : SMap 8 :=
  wrNat (wrNat (wrNat (wrNat (wrNat (wrNat (wrNat [] 0x80000 8 0x81001) 0x81000 8 0x82001) 0x82000 8 0x83001)
    0x83008 8 0x88113) 0x83010 8 0x9010B) 0x83018 8 0x9800B) 0x83020 8 0xA008B

def foot : Foot :=
  { groups := 1, w := 16, base := 32, pool := 64, scratch := 4096, shared := 1024, tlines := 16, tways := 4, bcores := 1 }

def krec : KRec :=
  { entry := 0, width := 16, vregs := 32, pool := 64, scratch := 4096, shared := 1024, bcores := 1, bgrp := 1, ndim := 1, threads := 0, ext := (4, 1, 1),
    tlines := 16, tways := 4, dep := [] }

def desc : Desc := { kr := krec, code := 0x8000, cca := 0, logb := 0x10000, logsz := 4096, arg0 := 0, arg1 := 0, arg2 := 0 }

def hk : HandlerKernel := { entry := 0x8000, width := 16, vregs := 8, pool := 0, scratch := 0, shared := 0, tlines := 0, tways := 0 }

def ctx : Ctx :=
  { newCtx { vf := 0, world := 0, oid := 0, u := 64, cores := [0], handler := some hk, saveArea := 0, frontierBytes := 0 } with tbase := 0x80000 }

def blk : Block := newBlock 0 (.point 0 0) (0, 0, 0) none foot [0]

def grp (sc : SMap 64) (vr : SMap 32) : Group :=
  let g := { newGroup 16 32 0x8000 (lanesOf 16) [] { core := 0, part := 0, slot := some 0 } 0 with cur := some 0 }
  { g with regs := { g.regs with sreg := sc, vreg := vr } }

def pot (n : Nat) : Tbl PotEntry := (List.range n).map fun k => (k, { vf := 0, state := 1, world := 0 })

def mk (g : Group) : State :=
  { State.reset with
    full := true, ready := [256], groups := [(256, g)], blocks := [(1, blk)], ctxs := [(0, ctx)], nextBsn := 2,
    launches := [(0, newLaunch 0 0 0 0 desc 0 none [])], nextLaunch := 1,
    mem := { Mem.reset with loc := pages }, tables := { State.reset.tables with pot := pot 24 } }

/-- Scalars s4 on and vector registers: v1 = (0xFFFFFFFF, 7, 0, …), v2 = (2, 3, 0, …), v3 = (1.0, 1.5, 0, …), v4 = (2.0, −3.0, 0, …). -/
def vr : SMap 32 :=
  [(64, 0xFFFFFFFF), (65, 7), (128, 2), (129, 3), (192, 0x3F800000), (193, 0x3FC00000), (256, 0x40000000), (257, 0xC0400000)]

/-- s4 = 2⁶⁴ − 1, s5 = 3, s6 = 0x10000, s7 = 0x8000 0000, s8 = 64. -/
def sc : SMap 64 := [(4, BitVec.allOnes 64), (5, 3), (6, 0x10000), (7, 0x80000000), (8, 64)]

def g0 : Group := grp sc vr
def s0 : State := mk g0

/-- The issuing fibre of a state. -/
def at0 (s : State) : Here :=
  s.here.getD { gid := 0, g := g0, fid := 0, f := newFibre 0 0 0, b := blk, cid := 0, c := ctx }

/-- The state after an instruction, or the state itself where there is none. -/
def aft (i : Instr) (s : State) : State := match exec i s with | .next t => t | _ => State.reset

/-- Lane `l` of a register, a scalar, a mask and the pc of the issuing fibre after an instruction. -/
def lane (i : Instr) (s : State) (r l : Nat) : Nat := ((at0 (aft i s)).g.regs.vec r l).toNat
def scal (i : Instr) (s : State) (n : Nat) : Nat := (SMap.get (at0 (aft i s)).g.regs.sreg n).toNat
def mask (i : Instr) (s : State) (k : Nat) : Nat := (SMap.get (at0 (aft i s)).g.regs.kreg k).toNat
def pcOf (i : Instr) (s : State) : Nat := (at0 (aft i s)).f.pc.toNat

def vf (a b : Byte) : VFmt := { pfx := none, b := b, a := a, nw := false, vd := 9 }
def uf (a : Byte) : UFmt := { pfx := none, a := a, nw := false, vd := 9 }
def sf (a b : Byte) : SFmt := { pfx := none, b := b, a := a, sd := 9 }
def gf (a b : Byte) : GFmt := { pfx := none, b := b, a := a }
/-- A prefix that changes nothing. -/
def px : Prefix := { d := 0x85, rnd := 0, msk := 0, zro := false, sb := 0, typ := 0, af := false, ahi := 0 }

/-! Ill-formed terms (R48, R54, R58, R324). -/

theorem test_wf_reserved_operand : (Instr.vadd (vf 0xC0 0x85)).wf = true ∧ (Instr.vadd (vf 0xFE 0x88)).wf = true
    ∧ (Instr.sadd (sf 0x01 0xC1)).wf = false := by decide +kernel
theorem test_wf_type : (Instr.vadd { vf 1 2 with pfx := some { px with typ := 14 } }).wf = false := by decide +kernel
theorem test_wf_rounding : (Instr.vfadd { vf 3 4 with pfx := some { px with rnd := 6 } }).wf = false := by decide +kernel
theorem test_wf_reserved_bits : (Instr.kand { pfx := none, s := 4, ka := 3, rsv := 1, kd := 2 }).wf = false
    ∧ (Instr.xop { pfx := none, b := 7, a := 3, xi := 5, rsv := 1 }).wf = false
    ∧ (Instr.vcmp { pfx := none, b := 2, a := 1, cc := 2, rsv := true, kd := 3 }).wf = false := by decide +kernel
theorem test_wf_condition : (Instr.vcmp { pfx := none, b := 2, a := 1, cc := 15, rsv := false, kd := 3 }).wf = false := by decide +kernel
theorem test_wf_mask_write_k0 : (Instr.kand { pfx := none, s := 4, ka := 3, rsv := 0, kd := 0 }).wf = false := by decide +kernel
theorem test_wf_unused_operand : (Instr.fibExit (gf 0x85 0x84)).wf = false ∧ (Instr.fibExit (gf 0x85 0x85)).wf = true := by decide +kernel

/-! Decoding: the words of the spec's worked examples, and one of each other family written out from its encoding (R39 to R57). -/

theorem test_decode_examples : Obligations.ExampleWords := by unfold Obligations.ExampleWords; decide +kernel
theorem test_decode_vrq : decodeTableWord 64 0x0201062D030000FD = some (.vrq
    { pfx := some { px with d := 0x03 }, b := 2, a := 1, nw := false, vd := 6 }) := by decide +kernel
theorem test_decode_vcvt : decodeTableWord 32 0xB905024B = some (.vcvt { pfx := none, fn := 0xB9, a := 5, nw := false, vd := 2 }) := by decide +kernel
theorem test_decode_vshf : decodeTableWord 32 0x43010451 = some (.vshf { pfx := none, fn := 0x43, a := 1, nw := false, vd := 4 }) := by decide +kernel
theorem test_decode_srdl : decodeTableWord 32 0x95090781 = some (.srdl { pfx := none, b := 0x95, a := 9, sd := 7 }) := by decide +kernel
theorem test_decode_ktos : decodeTableWord 32 0xC93B008F = some (.ktos { pfx := none, s := 0xC9, ka := 3, rsv := 0, kd := 0 }) := by decide +kernel
theorem test_decode_nop : decodeTableWord 32 0x858506BF = some (.nop (gf 0x85 0x85)) := by decide +kernel
theorem test_decode_prefix : decodeTableWord 64 0x80018037C64AC8FD = some (.vfma
    { pfx := some { d := 0xC6, rnd := 2, msk := 2, zro := true, sb := 1, typ := 9, af := false, ahi := 0 },
      b := 0x80, a := 1, nw := true, vd := 0 }) := by decide +kernel
theorem test_decode_short : decodeTableWord 16 0x007E = some (.cAdd { vd := 0, b := 63 }) := by decide +kernel
theorem test_decode_zero_halfword_refused : decodeTableWord 16 0x0000 = none := by decide +kernel


/-! Single steps: lane instructions (R97 to R114). Lane 0 has −1 and 2, lane 1 has 7 and 3; in floating point 1.0 and 2.0, 1.5 and −3.0. -/

def v12 : VFmt := vf 1 2
def f34 : VFmt := vf 3 4

theorem test_vadd : lane (.vadd v12) s0 9 0 = 1 ∧ lane (.vadd v12) s0 9 1 = 10 ∧ pcOf (.vadd v12) s0 = 0x8004 := by decide +kernel
theorem test_vsub : lane (.vsub v12) s0 9 0 = 0xFFFFFFFD ∧ lane (.vsub v12) s0 9 1 = 4 := by decide +kernel
theorem test_vmul : lane (.vmul v12) s0 9 0 = 0xFFFFFFFE ∧ lane (.vmul v12) s0 9 1 = 21 := by decide +kernel
theorem test_vmulh : lane (.vmulh v12) s0 9 0 = 0xFFFFFFFF ∧ lane (.vmulh v12) s0 9 1 = 0 := by decide +kernel
theorem test_vmin_vmax : lane (.vmin v12) s0 9 0 = 0xFFFFFFFF ∧ lane (.vmax v12) s0 9 0 = 2 := by decide +kernel
theorem test_vabsd : lane (.vabsd v12) s0 9 0 = 3 ∧ lane (.vabsd v12) s0 9 1 = 4 := by decide +kernel
theorem test_logic : lane (.vand v12) s0 9 1 = 3 ∧ lane (.vor v12) s0 9 0 = 0xFFFFFFFF ∧ lane (.vxor v12) s0 9 1 = 4 ∧ lane (.vandn v12) s0 9 1 = 4 := by
  decide +kernel
theorem test_shifts : lane (.vshl v12) s0 9 0 = 0xFFFFFFFC ∧ lane (.vshr v12) s0 9 0 = 0x3FFFFFFF ∧ lane (.vsra v12) s0 9 0 = 0xFFFFFFFF
    ∧ lane (.vrot v12) s0 9 1 = 56 := by decide +kernel
theorem test_saturate : lane (.vadds (vf 0xC7 1)) s0 9 0 = 0x80000000 ∧ lane (.vsubs (vf 0xC7 1)) s0 9 1 = 0x80000000 := by decide +kernel
theorem test_vmad : lane (.vmad { v12 with vd := 2 }) s0 2 1 = 24 ∧ lane (.vmad { v12 with vd := 2 }) s0 2 0 = 0 := by decide +kernel
/-- `.n8` elements: 7 + 3 in the lowest of four. -/
theorem test_packed : lane (.vadd { v12 with pfx := some { px with typ := 5 } }) s0 9 0 = 0xFFFFFF01 := by decide +kernel
theorem test_masked_zero : lane (.vadd { v12 with pfx := some { px with msk := 1, zro := true }, vd := 1 }) s0 1 1 = 0
    ∧ pcOf (.vadd { v12 with pfx := some { px with msk := 1 } }) s0 = 0x8008 := by decide +kernel
theorem test_vcmp : mask (.vcmp { pfx := none, b := 2, a := 1, cc := 2, rsv := false, kd := 3 }) s0 3 = 1
    ∧ mask (.vfcmp { pfx := none, b := 4, a := 3, cc := 2, rsv := false, kd := 3 }) s0 3 = 1 := by decide +kernel
theorem test_vsel : lane (.vsel { v12 with pfx := some { px with msk := 1 } }) s0 9 1 = 3 := by decide +kernel
theorem test_float : lane (.vfadd f34) s0 9 0 = 0x40400000 ∧ lane (.vfadd f34) s0 9 1 = 0xBFC00000 ∧ lane (.vfsub f34) s0 9 0 = 0xBF800000
    ∧ lane (.vfmul f34) s0 9 1 = 0xC0900000 ∧ lane (.vfdiv f34) s0 9 0 = 0x3F000000 := by decide +kernel
theorem test_float_minmax : lane (.vfmin f34) s0 9 1 = 0xC0400000 ∧ lane (.vfmax f34) s0 9 1 = 0x3FC00000 ∧ lane (.vfsgn f34) s0 9 1 = 0xBFC00000 := by
  decide +kernel
theorem test_vfma : lane (.vfma { f34 with vd := 3 }) s0 3 0 = 0x40400000 ∧ lane (.vfma { f34 with vd := 3 }) s0 3 1 = 0xC0400000 := by decide +kernel
theorem test_fdiv_zero : lane (.vfdiv (vf 3 0x85)) s0 9 0 = 0x7F800000 := by decide +kernel
theorem test_unary : lane (.vnot (uf 1)) s0 9 1 = 0xFFFFFFF8 ∧ lane (.vneg (uf 1)) s0 9 1 = 0xFFFFFFF9 ∧ lane (.vabs (uf 1)) s0 9 0 = 1
    ∧ lane (.vmov (uf 1)) s0 9 1 = 7 := by decide +kernel
theorem test_bits : lane (.vpopc (uf 1)) s0 9 1 = 3 ∧ lane (.vclz (uf 1)) s0 9 1 = 29 ∧ lane (.vctz (uf 2)) s0 9 0 = 1
    ∧ lane (.vctz (uf 1)) s0 9 2 = 32 ∧ lane (.vbrev (uf 1)) s0 9 1 = 0xE0000000 := by decide +kernel
theorem test_float_unary : lane (.vfneg (uf 3)) s0 9 0 = 0xBF800000 ∧ lane (.vfabs (uf 4)) s0 9 1 = 0x40400000
    ∧ lane (.vfsqrt (uf 4)) s0 9 0 = 0x3FB504F3 ∧ lane (.vfrnd (uf 3)) s0 9 1 = 0x40000000 := by decide +kernel
theorem test_sfu : lane (.vsfuExp2 (uf 3)) s0 9 0 = 0x40000000 ∧ lane (.vsfuLog2 (uf 4)) s0 9 0 = 0x3F800000
    ∧ lane (.vsfuRcp (uf 4)) s0 9 0 = 0x3F000000 ∧ lane (.vsfuRsqrt (uf 3)) s0 9 0 = 0x3F800000 := by decide +kernel
theorem test_sfu_trig : lane (.vsfuSin (uf 3)) s0 9 2 = 0 ∧ lane (.vsfuCos (uf 3)) s0 9 2 = 0x3F800000 := by decide +kernel
theorem test_vperm : lane (.vperm (vf 1 0x91)) s0 9 5 = 7 := by decide +kernel
/-- R113: mode 1 exchanges lanes whose numbers differ by W / 2⁴ = 1. -/
theorem test_vshf : lane (.vshf { pfx := none, fn := 0x44, a := 1, nw := false, vd := 9 }) s0 9 0 = 7 := by decide +kernel
theorem test_vred : lane (.vredSum (uf 3)) s0 9 7 = 0x40200000 ∧ lane (.vredMax (uf 3)) s0 9 7 = 0x3FC00000 ∧ lane (.vredMin (uf 4)) s0 9 7 = 0xC0400000 := by
  decide +kernel
/-- `vcvt.i32.f32` of 7 (R110: source code 3, destination code 11). -/
theorem test_vcvt : lane (.vcvt { pfx := none, fn := 0x3B, a := 1, nw := false, vd := 9 }) s0 9 1 = 0x40E00000 := by decide +kernel
theorem test_short : lane (.cAdd { vd := 1, b := 2 }) s0 1 1 = 10 ∧ lane (.cMov { vd := 9, b := 63 }) s0 9 0 = 11
    ∧ pcOf (.cSub { vd := 1, b := 2 }) s0 = 0x8002 := by decide +kernel

/-! Scalars and masks (R104, R116 to R119). -/

theorem test_sadd : scal (.sadd (sf 0xC4 0x91)) s0 9 = 0 ∧ scal (.sadd (sf 0xC5 0x92)) s0 9 = 5 := by decide +kernel
theorem test_smul_smulh : scal (.smul (sf 0xC4 0xC5)) s0 9 = 2 ^ 64 - 3 ∧ scal (.smulh (sf 0xC4 0xC5)) s0 9 = 2 ^ 64 - 1 := by decide +kernel
theorem test_scalar_shift : scal (.sshl (sf 0xC5 0x92)) s0 9 = 12 ∧ scal (.ssra (sf 0xC4 0x92)) s0 9 = 2 ^ 64 - 1
    ∧ scal (.sshr (sf 0xC4 0x92)) s0 9 = 2 ^ 62 - 1 := by decide +kernel
theorem test_scalar_compare : scal (.sslt (sf 0xC4 0xC5)) s0 9 = 1 ∧ scal (.sseq (sf 0xC5 0xC5)) s0 9 = 1 ∧ scal (.smax (sf 0xC4 0xC5)) s0 9 = 3 := by
  decide +kernel
/-- A 32-bit type zero- or sign-extends its result (R79). -/
theorem test_scalar_32 : scal (.sadd { sf 0xC7 0x85 with pfx := some { px with typ := 3 } }) s0 9 = 0xFFFFFFFF80000000
    ∧ scal (.sadd { sf 0xC7 0x85 with pfx := some { px with typ := 7 } }) s0 9 = 0x80000000 := by decide +kernel
theorem test_scalar_unary : scal (.snot { pfx := none, a := 0xC5, sd := 9 }) s0 9 = 2 ^ 64 - 4 ∧ scal (.sneg { pfx := none, a := 0xC5, sd := 9 }) s0 9 = 2 ^ 64 - 3
    ∧ scal (.spopc { pfx := none, a := 0xC4, sd := 9 }) s0 9 = 64 ∧ scal (.sctz { pfx := none, a := 0xC6, sd := 9 }) s0 9 = 16 := by decide +kernel
/-- R118's example, its first two steps. -/
theorem test_sli_slih : scal (.sli { imm := 0x0012, sd := 5 }) s0 5 = 0x12 ∧ scal (.sli { imm := 0xFFFE, sd := 5 }) s0 5 = 2 ^ 64 - 2
    ∧ scal (.slih { imm := 0x3456, sd := 5 }) (mk (grp [(5, 0x12)] vr)) 5 = 0x123456 := by decide +kernel
theorem test_srdl_swrl : scal (.srdl (sf 1 0x91)) s0 9 = 7 ∧ lane (.swrl { vf 0xC5 0x92 with vd := 9 }) s0 9 2 = 3
    ∧ lane (.swrl { vf 0xC5 0x92 with vd := 9 }) s0 9 1 = 0 := by decide +kernel
theorem test_masks : mask (.kxor { pfx := none, s := 0, ka := 0, rsv := 0, kd := 2 }) s0 2 = 0 ∧ mask (.kand { pfx := none, s := 0, ka := 0, rsv := 0, kd := 2 }) s0 2 = 0xFFFF
    ∧ mask (.kfromv { pfx := none, s := 1, ka := 0, rsv := 0, kd := 2 }) s0 2 = 3 ∧ scal (.ktos { pfx := none, s := 0xC9, ka := 0, rsv := 0, kd := 0 }) s0 9 = 0xFFFF := by
  decide +kernel

/-! Memory, control flow, traps. -/

/-- Run instructions one after the other. -/
def runs (l : List Instr) (s : State) : State := l.foldl (fun s i => aft i s) s

def mf (a b : Byte) (vd : BitVec 7) : MFmt := { pfx := none, b := b, a := a, sp := false, vd := vd }

/-- A store changes its byte when it is performed, not at issue (R163, R167). -/
theorem test_st : SMap.get (aft (.st (mf 0xC6 0x90 1)) s0).mem.loc 0x90000 = 0
    ∧ SMap.get (runs [.st (mf 0xC6 0x90 1), .memoryAccessPerform 15] s0).mem.loc 0x90000 = 0
    ∧ (aft (.st (mf 0xC6 0x90 1)) s0).mem.pend.length = 16
    ∧ SMap.get (runs [.st { mf 0xC6 0x84 1 with pfx := some { px with msk := 1 } }, .memoryAccessPerform 0] s0).mem.loc 0x90000 = 0 := by decide +kernel
/-- `ld` of what `sst` stored, once its data has come back (R166, R169). -/
theorem test_ld : ((at0 (runs [.sst { pfx := none, b := 0x85, a := 0xC6, sd := 8 }, .memoryAccessPerform 0, .ld (mf 0xC6 0x90 9), .memoryAccessPerform 0,
    .loadDataReturn 256] s0)).g.regs.vec 9 0).toNat = 64 := by decide +kernel
theorem test_scratch : ((at0 (runs [.st { mf 0x85 0x90 1 with sp := true }, .ld { mf 0x85 0x90 9 with sp := true }] s0)).g.regs.vec 9 3).toNat = 0 := by decide +kernel
/-- −1 + 2 = 1 in lane 0, then lane 1 adds 7 …: every lane of v1 is added to one word of the scratchpad (R170). -/
theorem test_atomic : ((at0 (runs [.atmAdd { mf 0x85 0x90 1 with sp := true }, .ld { mf 0x85 0x90 9 with sp := true }] s0)).g.regs.vec 9 3).toNat = 6 := by
  decide +kernel
theorem test_ld_fault : (at0 (aft (.ld (mf 0x85 0x90 9)) s0)).c.queues.trapq = [] ∧ ((Tbl.get? (aft (.ld (mf 0xC7 0x90 9)) s0).ctxs 0).map (fun c =>
    c.queues.trapq.map fun r => (r.cause, r.addr))) = some [(0x0000000102200002, 0x80000000)] := by decide +kernel
theorem test_br : pcOf (.br { pfx := none, off := 8, c := 0x86 }) s0 = 0x8010 ∧ pcOf (.br { pfx := none, off := 0xFFFF, c := 0x86 }) s0 = 0x7FFE
    ∧ pcOf (.brn { pfx := none, off := 8, c := 0x86 }) s0 = 0x8004 := by decide +kernel
/-- Lanes 0 and 1 of v1 are not 0: they take a new fibre (R125). -/
theorem test_br_split : ((Tbl.get? (aft (.br { pfx := none, off := 8, c := 1 }) s0).groups 256).map fun g =>
    g.fibres.map fun e => (e.1, e.2.pc, e.2.pred)) = some [(0, 0x8004, 0xFFFC), (1, 0x8010, 3)] := by decide +kernel
theorem test_call_ret : pcOf (.call { pfx := none, off := 8, c := 0 }) s0 = 0x8010 ∧ lane (.call { pfx := none, off := 8, c := 0 }) s0 0 0 = 0x8004
    ∧ pcOf (.ret (gf 0xC6 0x90)) s0 = 0x10000 := by decide +kernel
theorem test_nop : pcOf (.nop (gf 0x85 0x85)) s0 = 0x8004 := by decide +kernel
theorem test_fork_join : ((Tbl.get? (runs [.fibFork { pfx := none, off := 8, c := 1 }, .fibJoin (gf 0x85 0x85)] s0).groups 256).map fun g =>
    (g.frames.map fun e => e.2.mem, g.frames.map fun e => e.2.arr)) = some ([0xFFFF], [0xFFFC]) := by decide +kernel
/-- The group's last lanes exit: the group ends (R130). -/
theorem test_exit : ((Tbl.get? (aft (.fibExit (gf 0x85 0x85)) s0).groups 256)).isNone = true := by decide +kernel
/-- R151: class 2, code N; TRAPPC the trap's address; the fibre parked at the next instruction. -/
theorem test_trap : let t := aft (.trap { pfx := none, sys := 0x12, fn := 0, a := 0xC5 }) s0
    ((Tbl.get? t.ctxs 0).map fun c => c.queues.trapq.map fun r => (r.cause, r.pc, r.addr)) = some [(0x0000000201200000, 0x8000, 3)]
    ∧ ((Tbl.get? t.groups 256).map fun g => g.fibres.map fun e => (e.2.pc, e.2.st == .parked)) = some [(0x8004, true)] := by decide +kernel
theorem test_sysrd : scal (.sysRd { pfx := none, sys := 0x000, fn := 0, a := 0xC9 }) s0 9 = 16 := by decide +kernel
theorem test_claim : let t := aft (.vClaim (gf 0xC9 0x91)) s0
    (Tbl.get? t.groups 256).map (fun g => (g.total, SMap.get g.regs.sreg 9)) = some (40, 0x3800280020) ∧ (Tbl.get? t.blocks 1).map (fun b => SMap.get b.free 0) = some 56 := by
  decide +kernel
theorem test_bar_sync : (at0 (aft (.barSync (gf 0x85 0x92)) s0)).b.bars.map (fun e => (e.1, e.2.gen, e.2.arr)) = [(2, 1, 0)] := by decide +kernel
/-- R343: EXPECT posted is what is pending. -/
theorem test_bar_post : barPend (barObject (aft (.barPost (gf 0xC9 0x92)) s0) 256 0) = 2 := by decide +kernel
theorem test_sig : (aft (.sig { pfx := none, sys := 0xFFF, fn := 0, a := 0xC5 }) s0).mem.pend.length = 1
    ∧ ((Tbl.get? (runs [.sig { pfx := none, sys := 0xFFF, fn := 0, a := 0xC5 }, .signalDelivery 0] s0).ctxs 0).map fun c => c.counts.mgmt) = some 3 := by decide +kernel
theorem test_td : scal (.tdGet (gf 0xC9 0x85)) s0 9 = 0 := by decide +kernel
/-- TYP 14 in a lane instruction raises illegal-instruction, subcode 4, at its own address (R58). -/
theorem test_illegal : ((Tbl.get? (aft (.vadd { v12 with pfx := some { px with typ := 14 } }) s0).ctxs 0).map fun c => c.queues.trapq.map fun r => (r.cause, r.pc)) =
    some [(0x0000000100100004, 0x8000)] := by decide +kernel
/-- The fetched `nop` runs: the PC of the placed group moves 4 bytes on (log 6). -/
theorem test_fetch : (match step (State.reset.withFetchWord 32 0x858506BF) with | .next t => (at0 t).f.pc == 0x8004 | _ => false) = true := by decide +kernel

/-- R102's table, C = 0x0302 and 0x0382: a in v1, B = 2³⁰ in v2, C in v3. -/
def rq (a c : W32) : Nat := lane (.vrq { vf 1 2 with vd := 3 }) (mk (grp [] [(64, a), (128, 0x40000000), (192, c)])) 3 0
theorem test_vrq_table : [1000, -1000, 20, -20, 7].map (rq · 0x302) = [0x7F, 0xFFFFFF86, 6, 0, 4] ∧
    [1000, -1000, 20, -20, 7].map (rq · 0x382) = [7, 0xFFFFFFF8, 6, 0, 4] := by decide +kernel

/-! A state and operands that meet the hypotheses of each obligation, clause by clause. -/

def h0 : Here := at0 s0

theorem witness_IntegerLanes : ∀ sp ∈ [intI, intN, madSpec, bfxSpec, bfiSpec], LaneReady (jobV sp v12) true s0 h0 := by decide +kernel
theorem witness_SelectAddressRequantise : LaneReady { jobV selSpec { v12 with pfx := some { px with msk := 1 } } with sel := true } true s0 h0
    ∧ LaneReady { jobV addrSpec { vf 2 4 with vd := 10 } with tb := .i32 } true s0 h0
    ∧ LaneReady { jobV rqSpec v12 with ta := .i32, tb := .i32, tc := .i32, nb := .i32, td := .i32 } true s0 h0 := by
  refine ⟨?_, ?_, ?_⟩ <;> decide +kernel
theorem witness_IntegerUnary : ∀ sp ∈ [movSpec, intN, negSpec], LaneReady (jobU sp (uf 1)) true s0 h0 := by decide +kernel
theorem witness_FloatLanes : (∀ sp ∈ [fpR, fpX, fmaSpec], LaneReady (jobV sp f34) true s0 h0) ∧ (∀ sp ∈ [fpX, fpR, sfuSpec], LaneReady (jobU sp (uf 3)) true s0 h0)
    ∧ LaneReady { jobV dp2Spec f34 with ta := .bf16, tb := .bf16, nb := .bf16, tc := .f32, td := .f32 } true s0 h0 := by
  refine ⟨?_, ?_⟩ <;> decide +kernel
theorem witness_ShortForms :
    (∀ e ∈ [(0, intI), (1, intI), (2, intI), (3, intN), (4, intN), (5, intN), (6, intN), (7, intN), (9, fpR), (10, fpR), (11, fpR), (12, fpX), (13, fpX),
      (14, intI), (15, intI)], LaneReady { jobV e.2 (cAsV { vd := 1, b := 2 }) with causes := cCauses e.1 { vd := 1, b := 2 }, len := 2 } true s0 h0)
    ∧ LaneReady { jobU movSpec (cAsU { vd := 1, b := 2 }) with causes := cCauses 8 { vd := 1, b := 2 }, len := 2 } true s0 h0 := by
  refine ⟨?_, ?_⟩ <;> decide +kernel

def fShf : UNFmt := { pfx := none, fn := 0x44, a := 1, nw := false, vd := 9 }
theorem witness_CrossLanes : LaneReady (jobV permSpec v12) true s0 h0 ∧ (LaneReady (jobShf fShf) true s0 h0 ∧ h0.g.w / 2 ^ (fShf.fn.toNat % 8) ≠ 0)
    ∧ (let f := { fShf with fn := 0x45 }
       s0.here = some h0 ∧ h0.g.w / 2 ^ (f.fn.toNat % 8) = 0 ∧ shfCauses f = [])
    ∧ (LaneReady (jobU redSpec (uf 3)) true s0 h0 ∧ h0.g.w = 2 ^ 4) := by
  refine ⟨?_, ?_, ?_, ?_⟩ <;> decide +kernel

def fCvt (fn : Byte) : UNFmt := { pfx := none, fn := fn, a := 1, nw := false, vd := 9 }
/-- Tensor record 0 with scale mode 1 and its scale at 0x10000 (R306). -/
def tdScaled : BitVec 512 := BitVec.ofNat 512 (0x10000 * 2 ^ 320)
def isOk {α β : Type} : Checked α × β → Bool
  | (.ok _, _) => true
  | _ => false
def okBytes : Checked (List Byte) × State → List Byte
  | (.ok b, _) => b
  | _ => []

def withTd (n : Nat) (r : BitVec 512) : State := { s0 with ctxs := [(0, { ctx with tabs := { ctx.tabs with td := [(n, r)] } })] }
/-- The integer image of 8 bits (R24), unscaled, and with scale mode 1 and its scale at 0x10000 (R306). -/
def img8 : Nat := 0x00E1C000 * 2 ^ 80
def sPlain : State := withTd 0 (BitVec.ofNat 512 img8)
def sScaled : State := withTd 0 (BitVec.ofNat 512 (0x10000 * 2 ^ 112 + img8 + 1))
theorem witness_Conversions : LaneReady (jobCvt (fCvt 0x3B)) true s0 h0
    ∧ (let s := sPlain
       LaneReady (jobCvt (fCvt 0xDB)) true s (at0 s) ∧ cvtImage (at0 s) = none ∧ tdSmode (td0 (at0 s)) = 0)
    ∧ (let s := sScaled
       let r := readNow s (at0 s) (tdSbase (td0 (at0 s))) 4
       LaneReady (jobCvt (fCvt 0xDB)) true s (at0 s) ∧ cvtImage (at0 s) = none ∧ tdSmode (td0 (at0 s)) ≠ 0 ∧ (at0 s).act 0 ≠ 0 ∧ isOk r = true
         ∧ r.2.here = some (at0 s))
    ∧ (∀ e ∈ [(0, false), (2, true), (1, true)], let s := withTd 0 (BitVec.ofNat 512 (0x10001 * 2 ^ 112 + (if e.2 then img8 else 0) + e.1))
       LaneReady (jobCvt (fCvt 0xDB)) true s (at0 s) ∧ imgLegal (tdFmt (td0 (at0 s))) = e.2 ∧ tdSmode (td0 (at0 s)) = e.1
         ∧ tdSbase (td0 (at0 s)) % 4 ≠ 0) := by
  refine ⟨?_, ?_, ?_, ?_⟩ <;> decide +kernel
/-- An image of a policy (R24, R25). -/
def im (bias pol sgn ew mw : Nat) : W32 := BitVec.ofNat 32 (bias * 2 ^ 24 + pol * 2 ^ 22 + sgn * 2 ^ 21 + ew * 2 ^ 18 + mw * 2 ^ 14)
/-- 1.0, the infinity and a NaN of E4M3 under policy 0, the NaN of policy 1, zeros and ends under each: every case has a code or a source (R25, R27). -/
theorem witness_Conversions_values : (∀ p ∈ [(7, 0, 4, 3), (7, 1, 4, 3), (1, 2, 2, 1), (0, 3, 0, 7)], imgLegal (im p.1 p.2.1 1 p.2.2.1 p.2.2.2) = true)
    ∧ narrowFinite (im 7 0 1 4 3) 0x38 ∧ (0x78 / 2 ^ imgMw (im 7 0 1 4 3) % 2 ^ imgEw (im 7 0 1 4 3) = 2 ^ imgEw (im 7 0 1 4 3) - 1)
    ∧ ¬narrowFinite (im 7 1 1 4 3) 0x80 ∧ narrowFinite (im 7 1 1 4 3) 0x7F
    ∧ (fmt32.isNan 0x7FC00000 = true ∧ fmt32.isNan 0x3F800000 = false ∧ fmt32.isNan 0x7F800000 = false)
    ∧ (Ty.i8.isInt = true ∧ Ty.f32.isInt = false ∧ Ty.i8 ≠ .q ∧ Ty.f32 ≠ .q) := by
  unfold narrowFinite; refine ⟨?_, ?_, ?_, ?_, ?_, ?_, ?_⟩ <;> decide +kernel
/-- Sources of `vfdp2` with no NaN and with one (R107). -/
theorem witness_FloatLanes_values : [packedAt 16 0 0x3C003C00, packedAt 16 1 0x3C003C00].find? fmt16.isNan = none
    ∧ [packedAt 16 0 0x7E003C00, packedAt 16 1 0x7E003C00].find? fmt16.isNan = some 0x7E00 ∧ (0x7E003C00 : Nat) < 2 ^ 32 := by decide +kernel

theorem witness_Compares : LaneReady (jobVC cmpSpec 5 { pfx := none, b := 2, a := 1, cc := 5, rsv := false, kd := 7 }) false s0 h0
    ∧ LaneReady (jobVC fcmpSpec 7 { pfx := none, b := 4, a := 3, cc := 7, rsv := false, kd := 1 }) false s0 h0 := by
  refine ⟨?_, ?_⟩ <;> decide +kernel
theorem witness_ScalarArithmetic : ∀ sp ∈ [scI, scN], ScalarReady s0 h0 (sCauses sp (sf 0xC4 0x91)) { sregs := [9, 4] } := by decide +kernel
theorem witness_ScalarUnaryAndMoves : (∀ sp ∈ [scI, scN], ScalarReady s0 h0 (suCauses sp { pfx := none, a := 0xC4, sd := 9 }) { sregs := [9, 4] })
    ∧ ScalarReady s0 h0 (siCauses { imm := 0xFFFF, sd := 9 }) { sregs := [9] }
    ∧ OnceReady s0 h0 (srdlCauses rdlSpec (sf 1 0x91)) ((nameSel h0 none (tyOf rdlSpec.dflt none).wide 1).and { sregs := [9] })
    ∧ LaneReady (jobV swrlSpec (vf 0xC5 0x92)) true s0 h0 := by
  refine ⟨?_, ?_, ?_, ?_⟩ <;> decide +kernel

def kf (s : Byte) : KFmt := { pfx := none, s := s, ka := 0, rsv := 0, kd := 7 }
theorem witness_Masks : (∀ n ∈ [0, 1, 2, 3], OnceReady s0 h0 (kCauses n (kf 7)) {}) ∧ OnceReady s0 h0 (kCauses 4 (kf 0)) {}
    ∧ OnceReady s0 h0 (kCauses 5 (kf 1)) (nameSel h0 none false 1) ∧ OnceReady s0 h0 (kCauses 6 (kf 0xC5)) { sregs := [5] }
    ∧ ScalarReady s0 h0 (kCauses 7 { kf 0xC9 with kd := 0 }) { sregs := [9] } := by
  refine ⟨?_, ?_, ?_⟩ <;> decide +kernel

/-! Memory. Each lane's offset is 0 but that of lane 0, −1 in v1, or of v5, 4 × lane. -/

def vrM : SMap 32 := SMap.setList vr 320 ((List.range 16).map fun l => BitVec.ofNat 32 (4 * l))
def sM : State := mk (grp sc vrM)
def hM : Here := at0 sM
def mp (a b : Byte) : MFmt := { pfx := none, b := b, a := a, sp := true, vd := 9 }
theorem witness_EffectiveAddresses : let j := jobM ldSpec (mf 0xC6 5 9) false true false true
    (j.scan sM hM).wait = false ∧ (j.scan sM hM).bads = [] ∧ (j.scan sM hM).oks.map (·.ea) = (List.range 16).map fun l => 0x10000 + 4 * l := by
  decide +kernel
theorem witness_EffectiveAddresses_odd : isZero (mf 0x85 5 9).a = true ∧ isVec (mf 0x85 5 9).b = true ∧ (mf 0x85 5 9).b.toNat % 2 = 1 := by
  decide
theorem witness_Loads : (let j := jobM ldSpec (mf 0xC6 5 9) false true false true
      MemReady j j.ty.needsFull sM hM ∧ inFlight sM (fun a => (j.scan sM hM).oks.any fun l => mustPrecede hM l a) = false)
    ∧ (let j := jobM ldSpec (mp 0x85 0x90) false true false true
      MemReady j j.ty.needsFull sM hM) := by
  refine ⟨?_, ?_⟩ <;> decide +kernel
theorem witness_Stores : ∀ f ∈ [mf 0xC6 5 9, mp 0x85 0x90], let j := jobM stSpec f false false true true
    MemReady j j.ty.needsFull sM hM := by decide +kernel
theorem witness_Atomics : ∀ sp ∈ [atmSpec, xchgSpec, faddSpec], ∀ f ∈ [mf 0xC6 5 9, mp 0x85 0x90], let j := jobM sp f true true true true
    MemReady j j.ty.needsFull sM hM := by decide +kernel
theorem witness_Atomics_cas : ∀ f ∈ [mf 0xC6 0x90 10, mp 0x85 0x90], let j := jobM casSpec { f with vd := 10 } true true true true
    MemReady j j.ty.needsFull sM hM := by decide +kernel
theorem witness_AtomicValues : Ty.i32 ∈ wordTys ∧ (0xFFFFFFFF : Nat) < 2 ^ Ty.i32.width ∧ 0 < 2 ^ Ty.i32.width := by decide +kernel
/-- s6, s7 of `sMc`: the base, and a multicast word with its operation, stride and number of destinations less one (R175). -/
def sMc (w : Nat) : State := mk (grp (SMap.set (SMap.set sc 6 0x10000) 7 (BitVec.ofNat 64 w)) vrM)
/-- The scan of a multicast: destination `i` of lane `l` is number 8 × l + i. -/
def mcScan (red : Bool) (sp : MemSpec) (f : MFmt) (w : Nat) : Scan :=
  let s := sMc w
  let h := at0 s
  let j := jobM sp f red red true true
  let stride : Int := if w / 2 ^ 63 % 2 = 1 then ((w / 2 ^ 24 % 2 ^ 40 : Nat) : Int) - 2 ^ 40 else ((w / 2 ^ 24 % 2 ^ 40 : Nat) : Int)
  scanLanes h false red red true j.ty.bytes (fun k => (((j.ea h (k / 8) : Int) + ((k % 8 : Nat) : Int) * stride) % 2 ^ 64).toNat)
    ((laneList (h.act j.msk)).flatMap fun l => (List.range (w % 8 + 1)).map fun i => 8 * l + i) { s := s, oks := [], bads := [], wait := false }
/-- Two destinations 0x8000 bytes apart, and two of which the second lies where no page is; the stride 0xC0000 leaves the tables. -/
theorem witness_DeterministicAndMulticast : (∀ e ∈ [(false, stMcSpec), (true, stRedSpec)], let f := mf 0xC6 5 9
      let h := at0 (sMc 1)
      let j := jobM e.2 f e.1 e.1 true true
      let n := (j.named h).and { sregs := [7] }
      scalarNo f.pfx f.a + 1 = 7 ∧ Legal (sMc 1) h j.causes j.ty.needsFull ∧ InReach h n ∧ RegsFree (sMc 1) h n ∧ j.ty.isFp = false
        ∧ (let x := mcScan e.1 e.2 f (1 + 0x8000 * 2 ^ 24)
           x.wait = false ∧ x.bads = [] ∧ x.oks.length = 32)
        ∧ (let x := mcScan e.1 e.2 f (1 + 0xC0000 * 2 ^ 24)
           x.wait = false ∧ x.bads.length = 16 ∧ x.oks.length = 16)
        ∧ rangeBusy (sMc 1) h [(false, 0x10000, j.ty.bytes)] = false)
    ∧ ((1 + 2 ^ 24 * 0x8000) / 2 ^ 8 % 2 ^ 16 = 0 ∧ (1 + 2 ^ 24 * 0x8000) / 8 % 8 = 0 ∧ (8 : Nat) / 8 % 8 ≠ 0) := by
  refine ⟨?_, ?_⟩ <;> decide +kernel
/-- Records of 16 lanes in a log of 4096 bytes, and a log of no record (R172). -/
theorem witness_DeterministicAndMulticast_log : (let j := jobM detSpec (mf 0xC6 5 9) true false true true
      let x := j.scan sM hM
      let recs := x.oks.flatMap fun k => (k.parts.take 1).map fun p => (k.lane, ({
        prank := 0, lrank := k.lane, seq := (SMap.get hM.g.contrib k.lane).toNat, pa := p.pa, peer := none, host := false, world := p.world, f64 := false,
        value := 0, vpa := p.vpa } : Contrib))
      Legal sM hM j.causes j.ty.needsFull ∧ InReach hM (j.named hM) ∧ RegsFree sM hM (j.named hM) ∧ x.wait = false ∧ x.bads = []
        ∧ rangeBusy sM hM (j.touches hM) = false ∧ hM.b.of = .point 0 0 ∧ ((Tbl.get? sM.launches 0).map fun l => decide (32 * (l.log.length + x.oks.length) ≤ l.desc.logsz)) = some true
        ∧ x.oks.all (fun k => decide (SMap.get hM.g.contrib k.lane < 262143)) = true ∧ recs.length = 16 ∧ (logsTo x.s hM 0x10000 0 recs).isSome = true)
    ∧ (let s := { sM with launches := [(0, newLaunch 0 0 0 0 { desc with logsz := 0 } 0 none [])] }
       let j := jobM detSpec (mf 0xC6 5 9) true false true true
       at0 s = hM ∧ (j.scan s hM).bads = [] ∧ ((j.scan s hM).oks.map fun x => (⟨x.lane, 0x026, 0, x.ea⟩ : LaneBad)).length = 16) := by
  refine ⟨?_, ?_⟩ <;> decide +kernel
/-- Lanes 8 and on of v5 lie past the last page under the base 0x27FE0: those fail, the others go on (R164). -/
def sTrap : State := mk (grp (SMap.set sc 6 0x27FE0) vrM)
def hTrap : Here := at0 sTrap
theorem witness_InstructionFaults_memory : (∀ e ∈ [(ldSpec, false, true, false, true), (stSpec, false, false, true, true), (atmSpec, true, true, true, true)],
      let j := jobM e.1 (mf 0xC6 5 9) e.2.1 e.2.2.1 e.2.2.2.1 e.2.2.2.2
      MemIssues j j.ty.needsFull sTrap hTrap ∧ (j.scan sTrap hTrap).bads.length = 8 ∧ (j.scan sTrap hTrap).oks.length = 8)
    ∧ (let j := jobM stSpec (mp 0x85 0xC6) false false true true
       MemIssues j j.ty.needsFull sTrap hTrap ∧ (j.scan sTrap hTrap).bads.length = 16) := by
  refine ⟨?_, ?_⟩ <;> decide +kernel
/-- Addresses of each case of the check: outside and inside the scratchpad, misaligned, in a bad word, past 2^48, on no page, on a page that may not be
written, and on one that may (R157, R158, R264, R271). -/
theorem witness_InstructionFaults_address : (¬(0xFFE + 4 ≤ h0.b.foot.scratch) ∧ 0xFFC + 4 ≤ h0.b.foot.scratch ∧ 0xFFD % 2 ≠ 0)
    ∧ (let b := { blk with bad := (wordKey blk 256 0).toList }
       badHere b 256 0 4 = true ∧ badHere b 256 8 4 = false)
    ∧ (∀ ea ∈ [0x8000, 0x10000, 0x28000, 2 ^ 48], tlbFind (tlbOf s0 0) 0 ea = none)
    ∧ (let go := fun ea => walkFrom s0 ctx ea ctx.tbase.toNat 3
       (match go 0x8000 with | .leaf e _ => e / 8 % 2 == 0 && e / 32 % 4 == 0 | _ => false) = true
         ∧ (match go 0x10000 with | .leaf e _ => e / 8 % 2 == 1 && e / 32 % 4 == 0 && pteAddr e == 0x90000 | _ => false) = true
         ∧ (match go 0x28000 with | .fault _ _ => true | _ => false) = true)
    ∧ ((frameEntry s0 0 18).1 = 1 ∧ (potEntry s0 (frameEntry s0 0 18).2).state = 1 ∧ (frameEntry s0 1 3).1 = 0
      ∧ saveFrame s0 0 18 = false ∧ (potEntry s0 24).state ≠ 1)
    ∧ ((rdNat s0.mem.loc 0x80000 8) % 2 = 1 ∧ malformed (rdNat s0.mem.loc 0x80000 8) 3 = false ∧ (rdNat s0.mem.loc 0x80008 8) % 2 = 0
      ∧ malformed 0x81041 3 = true) := by
  refine ⟨?_, ?_, ?_, ?_, ?_, ?_⟩ <;> decide +kernel
theorem witness_ScalarAccessPrefetchFence : (let f := sf 0xC6 0x90
      let r := checkVirtual sM hM.core hM.cid hM.c 0x10000 (tyOf scMem.dflt none).bytes
      ScalarReady sM hM (sCauses scMem f) { sregs := [9, 6] } ∧ (uniVal hM.g none 0xC6 + uniVal hM.g none 0x90).toNat = 0x10000
        ∧ rangeBusy sM hM [(false, 0x10000, (tyOf scMem.dflt none).bytes)] = false ∧ isOk (r true false) = true
        ∧ (∀ ps ∈ (match (r true false).1 with | .ok ps => [ps] | _ => []), inFlight (r true false).2 (fun a => mustPrecede hM ⟨0, 0x10000, ps⟩ a) = false)
        ∧ isOk (r false true) = true)
    ∧ (let j := jobM pfSpec (mf 0xC6 5 0) false false false false
      Legal sM hM j.causes j.ty.needsFull ∧ InReach hM (j.named hM) ∧ RegsFree sM hM (j.named hM)
        ∧ rangeBusy sM hM ((laneList (hM.act j.msk)).map fun l => (false, j.ea hM l, j.ty.bytes)) = false)
    ∧ (let f : YFmt := { pfx := none, sys := 0, fn := 3, a := 0x85 }
      Legal sM hM (fenceCauses f) false ∧ inFlight sM (fun a => a.gid == hM.gid) = false ∧ accStoresDue sM hM.gid = false ∧ entriesDue sM hM.gid = false ∧ hM.c.counts.ack = 0) := by
  refine ⟨?_, ?_, ?_⟩ <;> decide +kernel

/-! Tags, control flow, traps, system registers. -/

def setTags (s : State) (l : List (Nat × Nat)) : State :=
  modBlock s 1 fun b => l.foldl (fun b e => setTag b 0 e.1 { key := BitVec.ofNat 64 e.2, age := 0, v := true }) b
/-- The first slot of the set of key 0x10000 holds it. -/
def keyed : State := setTags s0 [(4 * tagSet blk 0x10000, 0x10000)]
theorem witness_TagTable : (ScalarReady keyed (at0 keyed) (spLookCauses (sf 0xC6 0x85)) { sregs := [9, 10, 6] } ∧ (at0 keyed).b.foot.tlines ≠ 0
      ∧ tagHit (at0 keyed).b 0 0x10000 = some (4 * tagSet blk 0x10000) ∧ (uniVal (at0 keyed).g none 0xC6).toNat / 256 * 256 = 0x10000)
    ∧ (ScalarReady s0 h0 (spLookCauses (sf 0xC6 0x85)) { sregs := [9, 10, 6] } ∧ tagHit h0.b 0 0x10000 = none)
    ∧ (let s := mk (grp [(4, BitVec.ofNat 64 (4 * tagSet blk 0x10000 + 3)), (5, 0x10000)] [])
       let slot := (uniVal (at0 s).g none 0xC4).toNat % 4096
       ScalarReady s (at0 s) (spSetCauses (gf 0xC4 0xC5)) { sregs := [4, 5] } ∧ slot < (at0 s).b.foot.tlines
         ∧ slot / (at0 s).b.foot.tways = tagSet (at0 s).b 0x10000 ∧ tagHit (at0 s).b 0 0x10000 = none
         ∧ (tagHit (at0 (setTags s [(4 * tagSet blk 0x10000, 0x10000)])).b 0 0x10000).isSome = true)
    ∧ ScalarReady s0 h0 (spInvCauses (gf 0x86 0x85)) {}
    ∧ (ScalarReady s0 h0 (spInvCauses (gf 0xC9 0x85)) { sregs := [9] } ∧ isOnes 0xC9 = false ∧ (uniVal h0.g none 0xC9).toNat % 4096 < h0.b.foot.tlines) := by
  refine ⟨?_, ?_, ?_, ?_, ?_⟩ <;> decide +kernel

def jf (c : Byte) : JFmt := { pfx := none, off := 8, c := c }
def full16 : State := mk { g0 with frames := (List.range 16).map fun k => (k, { mem := 0xFFFF, arr := 0, js := false, jpc := 0, jwb := 0, seq := k }) }
theorem witness_Branches : (OnceReady s0 h0 (jCauses (jf 1)) (nameSel h0 none false 1) ∧ h0.g.frames.length < 16)
    ∧ (OnceReady full16 (at0 full16) (jCauses (jf 1)) (nameSel (at0 full16) none false 1) ∧ 16 ≤ (at0 full16).g.frames.length) := by
  refine ⟨?_, ?_⟩ <;> decide +kernel
theorem witness_CallsAndIndirect_range : (OnceReady s0 h0 (jCauses (jf 0xFF)) {} ∧ (h0.f.wb : Int) + (0xFF : Byte).toInt < 0)
    ∧ (OnceReady s0 h0 (jCauses (jf 4)) {} ∧ (h0.g.total : Int) - 8 < 8 * (h0.f.wb + (4 : Byte).toInt))
    ∧ (OnceReady s0 h0 (retCauses (gf 0xC6 0x91)) (nameSel h0 none true 0xC6) ∧ (h0.f.wb : Int) - (uniVal h0.g none 0x91).toInt < 0)
    ∧ (OnceReady s0 h0 (callIndCauses (gf 0xC6 0x94)) (nameSel h0 none true 0xC6) ∧ (h0.g.total : Int) - 8 < 8 * (h0.f.wb + (uniVal h0.g none 0x94).toInt)) := by
  refine ⟨?_, ?_, ?_, ?_⟩ <;> decide +kernel
theorem witness_CallsAndIndirect : (OnceReady s0 h0 (jCauses (jf 3)) { vregs := [24, 25] } ∧ (0 : Int) ≤ h0.f.wb + 3 ∧ (8 * 3 : Int) ≤ h0.g.total - 8)
    ∧ (OnceReady s0 h0 (brIndCauses (gf 0xC6 0x85)) (nameSel h0 none true 0xC6) ∧ indTargets h0 none 0xC6 = [0x10000])
    ∧ (OnceReady s0 h0 (retCauses (gf 0xC6 0x90)) (nameSel h0 none true 0xC6) ∧ (0 : Int) ≤ h0.f.wb - (uniVal h0.g none 0x90).toInt)
    ∧ (OnceReady s0 h0 (callIndCauses (gf 2 0x93)) ((nameSel h0 none true 2).and { vregs := [24, 25] }) ∧ (8 * 3 : Int) ≤ h0.g.total - 8
      ∧ (indTargets h0 none 2).length = 3 ∧ (uniVal h0.g none 0x93).toInt = 3)
    ∧ Legal s0 h0 (nopCauses (gf 0x85 0x85)) false := by refine ⟨?_, ?_, ?_, ?_, ?_⟩ <;> decide +kernel
/-- A second fibre waits at the frame with another address (R129). -/
def joined : State := mk { g0 with frames := [(0, { mem := 0xFFFF, arr := 0, js := true, jpc := 0x9000, jwb := 0, seq := 0 })] }
theorem witness_FibreInstructions : (ScalarReady s0 h0 (fibJoinCauses (gf 0x85 0x85)) {} ∧ joinRefused h0.g h0.f = false)
    ∧ (ScalarReady joined (at0 joined) (fibJoinCauses (gf 0x85 0x85)) {} ∧ joinRefused (at0 joined).g (at0 joined).f = true)
    ∧ ScalarReady s0 h0 (fibExitCauses (gf 0x85 0x85)) {} ∧ ScalarReady s0 h0 (fibYieldCauses (gf 0x85 0x85)) {} := by
  refine ⟨?_, ?_, ?_, ?_⟩ <;> decide +kernel

theorem witness_TrapEntry : s0.here = some h0 ∧ inFlight s0 (fun a => a.gid == h0.gid) = false ∧ (h0.isHandler && (1 == 1)) = false
    ∧ h0.c.handler.isSome = true ∧ h0.c.queues.trapq.length + inService s0 h0.cid < 256 := by decide +kernel
def reduced : State := { s0 with full := false }
theorem witness_InstructionFaults :
    (let f := { v12 with pfx := some { px with typ := 14, rnd := 7 } }
     minCause (vCauses intI f ++ cause ((tyOf intI.dflt f.pfx).needsFull && !s0.full) 8) = some 4)
    ∧ (let f := { vf 2 4 with vd := 6, pfx := some { px with typ := 12 } }
       reduced.here = some (at0 reduced) ∧ (minCause (vCauses intI f ++ cause ((tyOf intI.dflt f.pfx).needsFull && !reduced.full) 8)).isSome = true)
    ∧ minCause (sCauses scI (sf 1 0xC1)) = some 4
    ∧ (let f := { mf 0xC6 5 9 with pfx := some { px with typ := 15 } }
       (minCause (mCauses ldSpec f ++ cause ((tyOf ldSpec.dflt f.pfx).needsFull && !s0.full) 8)) = some 4)
    ∧ (let j := jobV intI { v12 with vd := 32 }
       Legal s0 h0 j.causes j.svc ∧ outOfWindow h0 (j.named h0 true) = true)
    ∧ (let j := jobV intI (vf 1 0x83)
       Legal s0 h0 j.causes j.svc ∧ outOfWindow h0 (j.named h0 true) = false ∧ badLatch h0 (j.named h0 true) = true) := by
  refine ⟨?_, ?_, ?_, ?_, ?_, ?_⟩ <;> decide +kernel

def yf (n : BitVec 12) (a : Byte) : YFmt := { pfx := none, sys := n, fn := 0, a := a }
def tr : TrapRec := { handle := 0x10001, cause := 0x100100004, pc := 0x8000, addr := 0, time := 0, pt := (0, 0, 0), slot := some 3, since := none }
/-- The group runs a handler, and a parked fibre of group 257 is live under the handle in s4. -/
def sHdl : State :=
  { mk { grp (SMap.set (SMap.set sc 4 0x10101) 5 0xF) vr with handler := some tr } with
    groups := [(256, { grp (SMap.set (SMap.set sc 4 0x10101) 5 0xF) vr with handler := some tr }),
      (257, { g0 with fibres := [(1, { newFibre 0x9000 0xFFFF 0 with st := .parked })], cur := none, place := { g0.place with slot := none } })] }
def hHdl : Here := at0 sHdl
theorem witness_SystemRegisterReads : readSys s0 h0 0x000 = some 16 ∧ ScalarReady s0 h0 (sysRdCauses (yf 0 0xC9)) { sregs := [9] }
    ∧ (Legal s0 h0 (sysRdCauses (yf 0x010 0xC9)) false ∧ readSys s0 h0 0x010 = none) ∧ h0.g.handler = none ∧ hHdl.g.handler = some tr := by decide +kernel
def sSlot : State := modBlock { s0 with slots := [(3, { QSlot.reset with st := 1, vf := 0, ctx := 0 })] } 1 fun b => { b with slot := some 3 }
theorem witness_SystemWritesAndSignals : (ScalarReady sSlot (at0 sSlot) (sysWrCauses (yf 4 0xC5)) { sregs := [5] } ∧ (at0 sSlot).wakeSlot = some 3)
    ∧ (ScalarReady s0 h0 (sysWrCauses (yf 4 0xC5)) { sregs := [5] } ∧ h0.wakeSlot = none)
    ∧ (ScalarReady s0 h0 (sysWrCauses (yf 1 0xC5)) { sregs := [5] } ∧ (uniVal h0.g none 0xC5).toNat / 2 ^ 51 = 0 ∧ (uniVal h0.g none 0xC5).toNat / 2 ^ 48 ≤ 6)
    ∧ ScalarReady s0 h0 (sysWrCauses (yf 0 0xC5)) { sregs := [5] }
    ∧ ScalarReady s0 h0 (sigCauses (yf 0xFFF 0xC5)) { sregs := [5] }
    ∧ (ScalarReady sSlot (at0 sSlot) (sigCauses (yf 3 0xC5)) { sregs := [5] } ∧ slotOfVf sSlot 3 (at0 sSlot).c.vf = true)
    ∧ (ScalarReady s0 h0 (sigCauses (yf 0x3FF 0xC5)) { sregs := [5] } ∧ slotOfVf s0 0x3FF h0.c.vf = false) := by
  refine ⟨?_, ?_, ?_, ?_, ?_, ?_, ?_⟩ <;> decide +kernel
theorem witness_SoftwareTrap : ScalarReady s0 h0 (trapCauses (yf 0xFFF 0xC5)) { sregs := [5] } := by decide +kernel
theorem witness_HandlerInstructions : (ScalarReady sHdl hHdl (pkRdCauses (gf 0xC9 0xC4)) { sregs := [9, 10, 11, 4] } ∧ hHdl.isHandler = true
      ∧ liveHandle sHdl hHdl.cid (uniVal hHdl.g none 0xC4) = some (257, 1) ∧ (fibreAt sHdl 257 1).isSome = true)
    ∧ (ScalarReady sHdl hHdl (pkMaskCauses (gf 0xC4 0xC5)) { sregs := [4, 5] } ∧ (uniVal hHdl.g none 0xC5) &&& ~~~(0xFFFF : W64) = 0 ∧ uniVal hHdl.g none 0xC5 ≠ 0xFFFF)
    ∧ (ScalarReady sHdl hHdl (pkMaskCauses (gf 0xC4 0xC6)) { sregs := [4, 6] } ∧ (uniVal hHdl.g none 0xC6) &&& ~~~(0xFFFF : W64) ≠ 0)
    ∧ ScalarReady sHdl hHdl (pkPcCauses (gf 0xC4 0xC5)) { sregs := [4, 5] } ∧ ScalarReady sHdl hHdl (pkResumeCauses (gf 0xC4 0x85)) { sregs := [4] }
    ∧ ScalarReady sHdl hHdl (pkKillCauses (gf 0xC4 0x85)) { sregs := [4] } ∧ Legal sHdl hHdl (hdlRetCauses (gf 0x85 0x85)) false
    ∧ (Legal s0 h0 (pkRdCauses (gf 0xC9 0xC4)) false ∧ Legal s0 h0 (pkMaskCauses (gf 0xC4 0xC5)) false ∧ Legal s0 h0 (hdlRetCauses (gf 0x85 0x85)) false
      ∧ h0.isHandler = false)
    ∧ (∀ e ∈ [(pkRdCauses (gf 0xC9 0xC6), [9, 10, 11, 6]), (pkMaskCauses (gf 0xC6 0xC5), [6, 5]), (pkPcCauses (gf 0xC6 0xC5), [6, 5]),
        (pkResumeCauses (gf 0xC6 0x85), [6]), (pkKillCauses (gf 0xC6 0x85), [6])],
       Legal sHdl hHdl e.1 false ∧ RegsFree sHdl hHdl { sregs := e.2 } ∧ liveHandle sHdl hHdl.cid (uniVal hHdl.g none 0xC6) = none) := by
  refine ⟨?_, ?_, ?_, ?_, ?_, ?_, ?_, ?_, ?_⟩ <;> decide +kernel

/-! Registers, barriers, timelines, queues, the frontier, copies. -/

def sFree0 : State := modBlock s0 1 fun b => { b with free := [] }
def sBig : State := modBlock (mk { g0 with total := 40 }) 1 fun b => { b with free := [(0, 56)] }
theorem witness_RegisterAllocation : (PairReady sFree0 (at0 sFree0) (vClaimCauses (gf 0xC9 0x91)) false (gf 0xC9 0x91) ∧ claimsOf sFree0 0 = []
      ∧ freeOf (at0 sFree0).b 256 < 8 * 1)
    ∧ (PairReady s0 h0 (vClaimCauses (gf 0xC9 0x98)) false (gf 0xC9 0x98) ∧ (uniVal h0.g none 0x98).toNat = 8 ∧ h0.g.total + 8 * 8 ≤ 256
      ∧ 8 * 8 ≤ h0.b.foot.pool ∧ claimsOf s0 0 = [] ∧ 8 * 8 ≤ freeOf h0.b h0.gid ∧ h0.f.st = .runnable)
    ∧ (let h := at0 sBig
       PairReady sBig h (vRelCauses (gf 0xC9 0x91)) false (gf 0xC9 0x91) ∧ 8 * 1 ≤ h.g.total - h.g.base
         ∧ h.g.fibres.any (fun e => decide (h.g.total < 8 * e.2.wb + 8 * 1 + 8)) = false
         ∧ RegsFree sBig h { vregs := (List.range 8).map fun k => h.g.total - 8 + k } ∧ claimsOf sBig 0 = [] ∧ freeOf h.b h.gid + 8 ≤ 4096)
    ∧ (PairReady s0 h0 (winSetCauses (gf 0xC9 0x93)) false (gf 0xC9 0x93) ∧ (8 * 3 : Int) ≤ h0.g.total - 8 ∧ (uniVal h0.g none 0x93).toNat = 3
      ∧ (h0.g.total : Int) - 8 < 8 * 4 ∧ (uniVal h0.g none 0x94).toNat = 4)
    ∧ (PairReady s0 h0 (winAddCauses (gf 0xC9 0x8F)) false (gf 0xC9 0x8F) ∧ (h0.f.wb : Int) + (uniVal h0.g none 0x8F).toInt < 0)
    ∧ (∀ b ∈ [0xC9, 0xC8], PairReady s0 h0 (vClaimCauses (gf 0xC9 b)) false (gf 0xC9 b) ∧ ((uniVal h0.g none b).toNat < 1 ∨ 31 < (uniVal h0.g none b).toNat))
    ∧ (PairReady s0 h0 (vClaimCauses (gf 0xC9 0x99)) false (gf 0xC9 0x99) ∧ h0.b.foot.pool < 8 * (uniVal h0.g none 0x99).toNat
      ∧ (let s := mk { g0 with total := 256 }
         PairReady s (at0 s) (vClaimCauses (gf 0xC9 0x91)) false (gf 0xC9 0x91) ∧ 256 < (at0 s).g.total + 8))
    ∧ (PairReady s0 h0 (vRelCauses (gf 0xC9 0x91)) false (gf 0xC9 0x91) ∧ h0.g.total - h0.g.base < 8
      ∧ PairReady s0 h0 (vRelCauses (gf 0xC9 0xC9)) false (gf 0xC9 0xC9) ∧ (uniVal h0.g none 0xC9).toNat < 1
      ∧ (let s := mk { g0 with total := 40, fibres := Tbl.modify g0.fibres 0 fun f => { f with wb := 4 } }
         PairReady s (at0 s) (vRelCauses (gf 0xC9 0x91)) false (gf 0xC9 0x91) ∧ (at0 s).g.fibres.any (fun e => decide ((at0 s).g.total < 8 * e.2.wb + 8 * 1 + 8)) = true)) := by
  refine ⟨?_, ?_, ?_, ?_, ?_, ?_, ?_, ?_⟩ <;> decide +kernel

/-- Two groups of one block; group 257 waits at block barrier 3. -/
def sTwo (w : Option Wait) : State :=
  { modBlock s0 1 (fun b => { b with foot := { foot with groups := 2 } }) with
    groups := [(256, g0), (257, { g0 with wait := w, place := { g0.place with slot := none } })] }
def wait3 : Wait := { kind := .barSync 3, fib := 0, len := 4, dst := none }
theorem witness_Barriers : (let s := sTwo none
      ScalarReady s (at0 s) (barSyncCauses (gf 0x85 0x93)) {} ∧ Quiet s (at0 s) ∧ (barOf (at0 s).b none 3).arr + 1 ≠ liveOf s 1 (at0 s).b none)
    ∧ (let s := setBar (sTwo (some wait3)) 1 none 3 ⟨0xFF, 1⟩
      ScalarReady s (at0 s) (barSyncCauses (gf 0x85 0x93)) {} ∧ Quiet s (at0 s) ∧ (barOf (at0 s).b none 3).arr + 1 = liveOf s 1 (at0 s).b none
        ∧ (at0 s).g.wait = none ∧ (s.groups.any fun e => waitsAt (at0 s).b none 3 e.1 e.2) = true)
    ∧ (let s := sTwo none
      ScalarReady s (at0 s) (barTeamCauses (gf 0x85 0x93)) {} ∧ (barOf (at0 s).b (some 0) 3).arr + 1 ≠ liveOf s 1 (at0 s).b (some 0)
        ∧ (barOf h0.b (some 0) 3).arr + 1 = liveOf s0 1 h0.b (some 0) ∧ ScalarReady s0 h0 (barTeamCauses (gf 0x85 0x93)) {} ∧ Quiet s0 h0) := by
  refine ⟨?_, ?_, ?_⟩ <;> decide +kernel

def mashOf (k : MashKind) : MashOp := { kind := k, members := [256], ctx := 0, slotsA := [], slotsB := [], after := [], out := none }
def sAccSt : State := modCore s0 0 fun c => { c with mashq := [mashOf (.st 0 [])] }
def sObj (v : Nat) : State := writeScratch s0 256 0 (natLE 8 v)
theorem witness_BarrierObjects_bad : let s := modBlock s0 1 fun b => { b with bad := (wordKey b 256 0).toList }
    badHere (at0 s).b (at0 s).gid 0 8 = true ∧ barAddrFault (at0 s).b 0 = none ∧ PairReady s (at0 s) (barArriveCauses (gf 0xC9 0x91)) false (gf 0xC9 0x91)
      ∧ PairReady s (at0 s) (barPostCauses (gf 0xC9 0x90)) false (gf 0xC9 0x90) ∧ PairReady s (at0 s) (barWaitCauses (gf 0xC9 0x90)) false (gf 0xC9 0x90)
      ∧ badHere h0.b 256 0 8 = false := by decide +kernel
/-- PEND below the count that arrives, and a post that leaves it at 0, below it and above it (R344). -/
theorem witness_BarrierObjects_counts : (let x := 2 ^ 62 + 3
      barPosted x = true ∧ barOvf x = false ∧ barPend x < ((4 : Nat) : Int) ∧ barPend x = ((3 : Nat) : Int))
    ∧ (let x := 2 ^ 40 - 5
      barOvf x = false ∧ barPend x = -5 ∧ barPend x + ((5 : Nat) : Int) ≤ 0 ∧ barPend x + ((4 : Nat) : Int) < 0 ∧ 0 < barPend x + ((6 : Nat) : Int)) := by
  refine ⟨?_, ?_⟩ <;> decide +kernel
theorem witness_BarrierObjects : (PairReady s0 h0 (barArriveCauses (gf 0xC9 0x91)) false (gf 0xC9 0x91) ∧ barAddrFault h0.b 0 = none ∧ Quiet s0 h0)
    ∧ (PairReady s0 h0 (barPostCauses (gf 0xC9 0x90)) false (gf 0xC9 0x90) ∧ (uniVal h0.g none 0xC9).toNat = 0)
    ∧ (PairReady sAccSt (at0 sAccSt) (barPostCauses (gf 0xC9 0x90)) false (gf 0xC9 0x90) ∧ releaseDue (drainGroup sAccSt 256) 256 = true)
    ∧ ((barAddrFault h0.b 3).isSome = true ∧ (uniVal h0.g none 0xC5).toNat = 3 ∧ PairReady s0 h0 (barArriveCauses (gf 0xC5 0x91)) false (gf 0xC5 0x91))
    ∧ (barOvf 0 = false ∧ barPosted 0 = false ∧ 0 ≤ barPend 0)
    ∧ (let x := 2 ^ 62 + 2 ^ 39 - 1
       barPosted x = true ∧ barOvf x = false ∧ ((1 : Nat) : Int) < barPend x ∧ barPend x = ((2 ^ 39 - 1 : Nat) : Int))
    ∧ (let s := sObj (2 ^ 63)
       PairReady s (at0 s) (barWaitCauses (gf 0xC9 0x90)) false (gf 0xC9 0x90) ∧ barAddrFault (at0 s).b 0 = none
         ∧ barPhase (barObject s 256 0) ≠ ((0 : Nat) == 1) ∧ barOvf (barObject s 256 0) = false ∧ barPhase (barObject s 256 0) = ((1 : Nat) == 1))
    ∧ (let s := sObj (2 ^ 63 + 2 ^ 61)
       barPhase (barObject s 256 0) ≠ ((0 : Nat) == 1) ∧ barOvf (barObject s 256 0) = true) := by
  refine ⟨?_, ?_, ?_, ?_, ?_, ?_, ?_, ?_⟩ <;> decide +kernel

theorem witness_TimelinesAndCounters : (timelineOf s0 h0 0 = .ok 1 0 ∧ (uniVal h0.g none 0xC9).toNat = 0)
    ∧ (PairReady s0 h0 (tlRdCauses (gf 0xC9 0x85)) false (gf 0xC9 0x85) ∧ PairReady s0 h0 (tlWaitCauses (gf 0xC9 0x90)) false (gf 0xC9 0x90)
      ∧ PairReady s0 h0 (tlWaitCauses (gf 0xC9 0x91)) false (gf 0xC9 0x91) ∧ timelineVal s0 h0.cid 1 0 = 0)
    ∧ timelineOf s0 h0 0x10000 = .bad 0x006 ∧ (PairReady s0 h0 (tlRdCauses (gf 0xC6 0x85)) false (gf 0xC6 0x85))
    ∧ PairReady s0 h0 (cntRdCauses (gf 0xC9 0x90)) false (gf 0xC9 0x90) ∧ PairReady s0 h0 (cntRdCauses (gf 0xC9 0x91)) false (gf 0xC9 0x91) := by
  refine ⟨?_, ?_, ?_, ?_, ?_, ?_⟩ <;> decide +kernel

/-- Numbers of (offset, width, value) written at an address. -/
def bytesAt (m : SMap 8) (a : Nat) (l : List (Nat × Nat × Nat)) : SMap 8 := l.foldl (fun m e => wrNat m (a + e.1) e.2.1 e.2.2) m
/-- A launch descriptor at a physical address: KIND 1, width 16, 32 registers, one core, one group, one dimension of extent 1 (R75, R221). -/
def descAt (m : SMap 8) (a : Nat) : SMap 8 :=
  bytesAt m a [(0, 1, 1), (16, 1, 16), (17, 1, 32), (29, 1, 1), (31, 1, 1), (34, 2, 1), (36, 4, 1), (40, 4, 1), (44, 4, 1), (72, 8, 0x8000)]
def sDesc : State := { s0 with mem := { s0.mem with loc := descAt pages 0x90000 } }

/-- A launch with the dependence vector (1, 0, 0) over 70 points: point 1 runs, as rank 1; 0 is retired, 2 in flight. -/
def frtLaunch : Launch :=
  { newLaunch 0 0 0 0 { desc with kr := { krec with ext := (70, 1, 1), dep := [(1, 0, 0)] } } 0 none [] with
    flying := [1, 2], rows := [(0, { pfx := 1, win := 0 })], retn := 1 }
def sFrt (rank : Nat) (l : Launch) (v : W64) : State :=
  { modBlock (mk (grp [(4, v)] [])) 1 (fun b => { b with of := .point 0 rank }) with launches := [(0, l)] }
def cutLaunch : Launch := { frtLaunch with cut := true }
theorem witness_QueueInstructions : (let h := at0 sDesc
      let r := readRun sDesc h 0x10000 16
      PairReady sDesc h (qTailCauses (gf 0xC6 0x85)) true (gf 0xC6 0x85) ∧ h.isHandler = false ∧ (uniVal h.g none 0xC6).toNat = 0x10000 ∧ Quiet sDesc h
        ∧ isOk r = true ∧ fld (okBytes r) 0 1 = 1 ∧ descErr r.2 h.c (okBytes r) .launch = none ∧ fld (okBytes r) 80 8 = 0 ∧ pointOf h.b = some (0, 0)
        ∧ (match objRefOf r.2 h.cid h.c 0 with | .ok none => true | _ => false) = true
        ∧ ((Tbl.get? r.2.launches 0).map fun l => decide (l.tails.length < 16)) = some true ∧ tailsOf r.2 h.cid < 4096)
    ∧ (PairReady s0 h0 (qCancelCauses (gf 0x85 0x90)) false (gf 0x85 0x90) ∧ isZero 0x85 = true ∧ immOf 0x90 = 0 ∧ h0.isHandler = false
      ∧ pointOf h0.b = some (0, 0))
    ∧ (PairReady sSlot (at0 sSlot) (qCancelCauses (gf 0xC5 0x91)) false (gf 0xC5 0x91) ∧ isZero 0xC5 = false ∧ (uniVal (at0 sSlot).g none 0xC5).toNat = 3
      ∧ (slotOf sSlot 3).st ≠ 0 ∧ (slotOf sSlot 3).ctx = 0 ∧ recsOf sSlot 3 = [])
    ∧ (PairReady s0 h0 (qCancelCauses (gf 0xC5 0x91)) false (gf 0xC5 0x91) ∧ (slotOf s0 3).st = 0)
    ∧ PairReady s0 h0 (qEvtCauses (gf 0xC5 0x90)) false (gf 0xC5 0x90) := by refine ⟨?_, ?_, ?_, ?_, ?_⟩ <;> decide +kernel

/-- With the pages of a point's row and of its dependences resident (R252). -/
def pagesOf (l : Launch) (r : Nat) (s : State) : State := (needPages s 0 (pointPages l.desc r) (pointPages l.desc r)).getD s
def launch0 (s : State) : Launch := (Tbl.get? s.launches 0).getD frtLaunch
theorem witness_FrontierInstructions_pages : pointPages frtLaunch.desc 65 = [pageOf (65 / frtLaunch.desc.ni)]
    ∧ (∀ e ∈ [(1, frtLaunch, 0), (1, frtLaunch, 65), (1, frtLaunch, 66), (3, frtLaunch, 2), (1, cutLaunch, 0)], let s := sFrt e.1 e.2.1 (BitVec.ofNat 64 e.2.2)
       ∀ u ∈ [s, loseLatches s 256], let t := if e.2.1.cut then u else pagesOf e.2.1 e.2.2 u
         PagesIn u 0 e.2.1 (pointPages e.2.1.desc e.2.2) t (launch0 t))
    ∧ (let s := sFrt 1 frtLaunch 65
       let t := pagesOf frtLaunch 65 s
       let m := launch0 t
       isRetired m 65 = false ∧ m.flying.contains 65 = false ∧ m.cut = false ∧ 65 % m.desc.ni ≤ (rowAt m (65 / m.desc.ni)).pfx + 64 ∧ Quiet t (at0 s)
         ∧ groupOnFabric t 256 = false ∧ t.here = some (at0 s) ∧ isRetired m 0 = true ∧ m.flying.contains 2 = true ∧ isRetired m 2 = false
         ∧ isRetired m 66 = false ∧ m.flying.contains 66 = false ∧ (rowAt m 0).pfx + 64 < 66) := by
  refine ⟨?_, ?_, ?_⟩ <;> decide +kernel
theorem witness_FrontierInstructions :
    (let s := sFrt 1 frtLaunch 70
     (at0 s).frontier s = some (0, 1, frtLaunch) ∧ PairReady s (at0 s) (frtRetireCauses (gf 0xC4 0x85)) true (gf 0xC4 0x85)
       ∧ rankIn frtLaunch.desc (70, 0, 0) = none ∧ coordOf 70 = some (70, 0, 0) ∧ PairReady s (at0 s) (frtYieldCauses (gf 0xC4 0x85)) true (gf 0xC4 0x85))
    ∧ (isRetired frtLaunch 0 = true ∧ frtLaunch.flying.contains 2 = true ∧ cutLaunch.cut = true ∧ rankIn frtLaunch.desc (0, 0, 0) = some 0)
    ∧ (isRetired frtLaunch 66 = false ∧ (rowAt frtLaunch 0).pfx + 64 < 66 ∧ rankIn frtLaunch.desc (66, 0, 0) = some 66)
    ∧ (let s := sFrt 1 frtLaunch 65
       rankIn frtLaunch.desc (65, 0, 0) = some 65 ∧ isRetired frtLaunch 65 = false ∧ frtLaunch.flying.contains 65 = false ∧ frtLaunch.cut = false
         ∧ 65 ≤ (rowAt frtLaunch 0).pfx + 64 ∧ Quiet s (at0 s) ∧ groupOnFabric s 256 = false ∧ frtLaunch.desc.vectors = true ∧ frtLaunch.desc.ni = 70)
    ∧ ((let s := sFrt 3 frtLaunch 2
        PairReady s (at0 s) (frtYieldCauses (gf 0xC4 0x85)) true (gf 0xC4 0x85) ∧ coordOf 2 = some (2, 0, 0) ∧ rankIn frtLaunch.desc (2, 0, 0) = some 2)
       ∧ isRetired frtLaunch 2 = false ∧ rankIn frtLaunch.desc (3, 0, 0) = some 3 ∧ isRetired frtLaunch 3 = false ∧ frtLaunch.flying.contains 3 = false)
    ∧ (let s := sFrt 1 frtLaunch 0
       (∀ b ∈ [0x90, 0x91, 0x92], PairReady s (at0 s) (frtQueryCauses (gf 0xC4 b)) true (gf 0xC4 b)) ∧ isImm 0 0 0x90 = true ∧ isImm 1 1 0x91 = true
         ∧ isImm 0 0 0x92 = false ∧ isImm 1 1 0x92 = false)
    ∧ (let s := sFrt 1 frtLaunch 0
       PairReady s (at0 s) (frtCancelCauses (gf 0xC4 0x85)) true (gf 0xC4 0x85) ∧ Quiet s (at0 s) ∧ groupOnFabric s 256 = false)
    ∧ (PairReady s0 h0 (frtCancelCauses (gf 0xC9 0x85)) true (gf 0xC9 0x85) ∧ h0.frontier s0 = none
      ∧ PairReady s0 h0 (frtRetireCauses (gf 0xC4 0x85)) true (gf 0xC4 0x85) ∧ coordOf (uniVal h0.g none 0xC4) = none
      ∧ coordOf (uniVal h0.g none 0xC9) = some (0, 0, 0)) := by
  refine ⟨?_, ?_, ?_, ?_, ⟨?_, ?_⟩, ?_, ?_, ?_⟩ <;> decide +kernel

def sMis : State := mk (grp [(4, 0x1001), (5, 0xFC0), (6, 0x10000), (7, 0xFE0)] [])
theorem witness_TensorRecordsAndCopies : (let r := readRun s0 h0 0x10000 8
      PairReady s0 h0 (tdSetCauses (gf 0xC6 0xC5)) false (gf 0xC6 0xC5) ∧ (uniVal h0.g none 0xC5).toNat ≤ 63 ∧ (uniVal h0.g none 0xC6).toNat % 64 = 0 ∧ Still s0 h0
        ∧ isOk r = true ∧ tdReserved (BitVec.ofNat 512 (leNat (okBytes r))) = false ∧ tdWorld (BitVec.ofNat 512 (leNat (okBytes r))) = 0)
    ∧ (PairReady s0 h0 (tdGetCauses (gf 0xC9 0xC5)) false (gf 0xC9 0xC5) ∧ (uniVal h0.g none 0xC5).toNat = 64 * 0 + 3)
    ∧ (ScalarReady s0 h0 (tdInvCauses (gf 0x85 0x86)) {} ∧ isOnes 0x86 = true ∧ ScalarReady s0 h0 (tdInvCauses (gf 0x85 0xC5)) { sregs := [5] } ∧ isOnes 0xC5 = false
      ∧ ScalarReady s0 h0 (tdInvCauses (gf 0x85 0xC8)) { sregs := [8] } ∧ 63 < (uniVal h0.g none 0xC8).toNat
      ∧ PairReady s0 h0 (tdSetCauses (gf 0xC6 0xC8)) false (gf 0xC6 0xC8))
    ∧ (let h := at0 sMis
       PairReady sMis h (cpKickCauses (gf 0xC5 0x91)) true (gf 0xC5 0x91) ∧ inPrivShared h.b 0xFC0 64 = true ∧ Still sMis h ∧ (coreOf sMis h.core).kicks.length + 1 ≤ 64
         ∧ inPrivShared h.b 0x10000 64 = false ∧ PairReady sMis h (cpKickCauses (gf 0xC6 0x91)) true (gf 0xC6 0x91) ∧ badHere h.b h.gid 0xFC0 64 = false)
    ∧ (let s := modBlock sMis 1 fun b => { b with bad := (wordKey b 256 0xFC8).toList }
       let h := at0 s
       PairReady s h (cpKickCauses (gf 0xC5 0x91)) true (gf 0xC5 0x91) ∧ Still s h ∧ badHere h.b h.gid 0xFC0 64 = true
         ∧ badHere h.b h.gid 0 64 = false)
    ∧ (let h := h0
       PairReady s0 h (cpKickCauses (gf 0xC5 0x91)) true (gf 0xC5 0x91) ∧ inPrivShared h.b 3 64 = true ∧ (3 : Nat) % 64 ≠ 0)
    ∧ (let raw := rec512 (readScratch s0 256 0 64)
       PairReady s0 h0 (cpGatherCauses (gf 0xC9 0xCA)) true (gf 0xC9 0xCA) ∧ inPrivShared h0.b 0 64 = true ∧ inPrivShared h0.b 0 4 = true
         ∧ (raw.extractLsb' 352 16).toNat ≤ 256 ∧ inPrivShared h0.b 0 (4 * (raw.extractLsb' 352 16).toNat) = true ∧ (coreOf s0 h0.core).kicks.length < 64
         ∧ badHere h0.b h0.gid 0 64 = false ∧ Still s0 h0)
    ∧ (let s := mk (grp [(4, 0xFFC)] [])
       let s := writeScratch s 256 44 [2]
       let raw := rec512 (readScratch s 256 0 64)
       PairReady s (at0 s) (cpGatherCauses (gf 0xC9 0xC4)) true (gf 0xC9 0xC4) ∧ inPrivShared (at0 s).b 0xFFC 4 = true ∧ (raw.extractLsb' 352 16).toNat = 2
         ∧ inPrivShared (at0 s).b 0xFFC 8 = false) := by
  refine ⟨?_, ?_, ?_, ?_, ?_, ?_, ?_, ?_⟩ <;> decide +kernel

/-! The engines, pixels, the control store and micro-ops. -/

/-- The context owns the accumulators of its core; 256 and 257 are groups of the block; names 0 to 3 are mapped to slots 0 to 3. -/
def sMash : State :=
  let s := modCore { sTwo none with groups := [(256, grp (SMap.set (SMap.set sc 12 (BitVec.ofNat 64 (2 ^ 39))) 13 0) vr), (257, g0)] } 0 fun c =>
    { c with owner := some (0, 0), slots := (List.range 4).map fun k => (k, { sealed := false, world := 0, key := 0, twk := 0, name := k, bsn := 1 }) }
  modBlock s 1 fun b => { b with slots := [(0, 0), (1, 1), (2, 2), (3, 3)] }
def hMash : Here := at0 sMash
theorem witness_AccumulatorInstructions : UnitsReady sMash hMash
    ∧ (PairReady sMash hMash (accClrCauses (gf 0x3F 0x01)) true (gf 0x3F 0x01) ∧ mopVal hMash none 0x3F 64 = some 63 ∧ mopVal hMash none 0x01 65 = some 1 ∧ 63 + 1 ≤ hMash.c.u
      ∧ SoloReady sMash hMash (.clr 63 1))
    ∧ (PairReady sMash hMash (accClrCauses (gf 0x3F 0x02)) true (gf 0x3F 0x02) ∧ mopVal hMash none 0x02 65 = some 2 ∧ hMash.c.u < 63 + 2)
    ∧ (PairReady sMash hMash (accMovCauses (gf 0x3F 0x00)) true (gf 0x3F 0x00) ∧ mopVal hMash none 0x00 64 = some 0 ∧ 63 < hMash.c.u ∧ SoloReady sMash hMash (.mov 63 0))
    ∧ (let r := fun w => unitPlaces hMash 0x10000 64 w sMash
       (∀ w ∈ [false, true], isOk (r w) = true ∧ SoloReady (r w).2 hMash (.ld 63 []) ∧ SoloReady (r w).2 hMash (.st 63 []))
         ∧ PairReady sMash hMash (accLdCauses (gf 0x3F 0xC6)) true (gf 0x3F 0xC6) ∧ PairReady sMash hMash (accStCauses (gf 0x3F 0xC6)) true (gf 0x3F 0xC6)
         ∧ (uniVal hMash.g none 0xC6).toNat = 0x10000)
    ∧ (PairReady sMash hMash (accLdCauses (gf 0x3F 0xC5)) true (gf 0x3F 0xC5) ∧ (uniVal hMash.g none 0xC5).toNat % 64 ≠ 0)
    ∧ (Able sMash hMash (accPutCauses (gf 0x3F 0x10)) true { vregs := (List.range 16).map fun i => 16 + i, sregs := [] }
      ∧ SoloReady sMash hMash (.put 63 hMash.f.pred (putVals hMash.g hMash.f.pred 16))) := by
  refine ⟨?_, ?_, ?_, ?_, ?_, ?_, ?_⟩ <;> decide +kernel

def xf (fn : Byte) : XFmt := { pfx := none, nf := 1, mf := 0, a := 0xCC, fn := fn }
def sideOf (os : Nat) : MmSide := { os := os, fmt := 0, smode := 0, scales := [], groups := 1, koff := 0 }
def opOf (cls : Nat) : MmOp := { m := 32, n := 16, cls := cls, za := false, acc := 0, a := sideOf 0, b := sideOf 1 }
/-- A gang of groups 0 and 1 (R142), and an image of 8 bits in record 0. -/
def sGang : State := modCtx (modGroup sMash 256 fun g => { g with gang := BitVec.ofNat 64 (2 * 2 ^ 48 + 1 * 256) }) 0 fun c =>
  { c with tabs := { c.tabs with td := [(0, BitVec.ofNat 512 img8)] } }
theorem witness_MatrixMultiply : (ScalarReady sMash hMash (xCauses (xf 0)) { sregs := [12, 13] } ∧ UnitsReady sMash hMash
      ∧ (getSreg hMash.g 12).toNat = 2 ^ 39 ∧ mmSlots hMash.b hMash.idx (opOf 0) = some ([0], [1]) ∧ 0 + mmUnits 32 16 ≤ hMash.c.u
      ∧ (∀ td ∈ [0], isOk (mmSide hMash 0 td td 0 32 0 sMash) = true) ∧ gangList hMash.g.gang = [] ∧ SoloReady sMash hMash (.mm (opOf 0)))
    ∧ (let h := at0 sGang
       ScalarReady sGang h (xCauses (xf 0x50)) { sregs := [12, 13] } ∧ imageFits 1 (tdFmt (tdRec h.c 0)) = true ∧ scaleLegal (tdRec h.c 0) = true
         ∧ isOk (mmSide h 1 0 0 0 32 0 sGang) = true ∧ 2 ≤ (gangList h.g.gang).length ∧ gangValid sGang h (gangList h.g.gang) = true
         ∧ ((coreOf sGang h.core).latch.filter fun e => !e.closed).length < 8 ∧ (coreOf sGang h.core).latch = []) := by refine ⟨?_, ?_⟩ <;> decide +kernel

def fullSlots : State := modCore s0 0 fun c =>
  { c with slots := (List.range 128).map fun k => (k, { sealed := false, world := 0, key := 0, twk := 0, name := k, bsn := 9 }) }
theorem witness_OperandSlots : (PairReady s0 h0 (osClaimCauses (gf 0xC9 0x40)) true (gf 0xC9 0x40) ∧ mopVal h0 none 0x40 65 = some 64
      ∧ freeNames h0.b h0.idx 64 0 128 = some 0 ∧ 64 ≤ (freeSlots (coreOf s0 h0.core)).length)
    ∧ (PairReady fullSlots (at0 fullSlots) (osClaimCauses (gf 0xC9 0x01)) true (gf 0xC9 0x01) ∧ (freeSlots (coreOf fullSlots 0)).length < 1)
    ∧ (PairReady sMash hMash (osRelCauses (gf 0x00 0x04)) true (gf 0x00 0x04) ∧ mopVal hMash none 0x00 128 = some 0 ∧ mopVal hMash none 0x04 65 = some 4
      ∧ slotsNamed hMash.b hMash.idx ((List.range 4).map fun i => 0 + i) = some [0, 1, 2, 3]
      ∧ [0, 1, 2, 3].any (fun p => slotBusy (coreOf sMash hMash.core) p) = false)
    ∧ (let s := modGroup s0 256 fun g => { g with eng := { g.eng with pend := 1 } }
       PairReady s (at0 s) (mmWaitCauses (gf 0xC9 0x00)) true (gf 0xC9 0x00) ∧ mopVal (at0 s) none 0x00 17 = some 0 ∧ 0 < (at0 s).g.eng.pend
         ∧ mopVal (at0 s) none 0x10 17 = some 16 ∧ (at0 s).g.eng.pend ≤ 16 ∧ PairReady s (at0 s) (mmWaitCauses (gf 0xC9 0x10)) true (gf 0xC9 0x10))
    ∧ (PairReady s0 h0 (mmWaitCauses (gf 0x85 0x00)) true (gf 0x85 0x00) ∧ dstOf none 0x85 = none ∧ h0.g.eng.flagged = false ∧ h0.g.eng.pend ≤ 0)
    ∧ (let s := modGroup s0 256 fun g => { g with eng := { g.eng with reset := true } }
       PairReady s (at0 s) (mmWaitCauses (gf 0x85 0x00)) true (gf 0x85 0x00) ∧ (at0 s).g.eng.reset = true) := by
  refine ⟨?_, ?_, ?_, ?_, ?_, ?_⟩ <;> decide +kernel

/-- An RGBA8 image of one texel at 0x10000 (R211, R306). -/
def sTex (w : Nat) : State :=
  withTd 0 (BitVec.ofNat 512 (0x10000 * 2 ^ 448 + 2 ^ 416 + 2 ^ 384 + 2 ^ 352 + w * 2 ^ 16))
def passHd : PassHdr :=
  { tx := 1, ty := 1, samp := 1, npl := 2, pfmt := 12, cset := 1, surf := 0, bin := 0, binsz := 0, spill := 0, nitem := 1, items := 0x10000, cca := 0 }
def passRec : Rec :=
  { slot := 3, body := .pass passHd [], ord := false, wdc := none, wval := 0, sdc := none, begun := true, status := .normal, went := [], gone := [], obj := none,
    objs := [], began := 0 }
def frag (prim : Nat) : FragInfo :=
  { pass := 0, item := 0, tile := 0, prim := prim, early := false, cover := [(0, 1)], pix := [], zval := [], helper := 0xFFFE, stage := [], staged := [],
    passed := [], n := 1 }
def passSt : PassSt :=
  { ctx := 0, surf := [], taken := [], done := [], bins := [], base := 0, prog := [], cur := [(0, some 0)], bufs := [], spilled := [], binFull := false, touched := [],
    storing := [], stored := [], commits := [], refused := false }
/-- A fragment group of primitive 1, with another group of primitive 0 on its pixel or not. -/
def sFrag (other : Bool) : State :=
  { sSlot with
    recs := [(0, passRec)], passes := [(0, passSt)],
    groups := [(256, { g0 with frag := some (frag 1) })] ++ if other then [(512, { g0 with frag := some (frag 0), cur := none })] else [] }
theorem witness_PixelInstructions : (let s := sTex 0
      let h := at0 s
      ∀ fetch ∈ [false, true], let t := samplerOf h.c 0 fetch
        let f := { vf (if fetch then 8 else 4) 0xC9 with vd := 12 }
        let r := texScan t h f.a.toNat (laneList (h.act 0)) { s := drainGroup s h.gid, oks := [], bads := [], wait := false }
        Able s h (texCauses texSpec f) true { vregs := [f.a.toNat, f.a.toNat + 1, 12, 13, 14, 15], sregs := [9] } ∧ samplerBad 0 fetch = false ∧ t.levels ≠ 0
          ∧ tdWorld t.td = 0 ∧ texHeld (drainGroup s h.gid) h.gid = false ∧ r.wait = false ∧ r.bads = [])
    ∧ ((samplerOf h0.c 0 true).levels = 0 ∧ samplerBad 1 false = true ∧ samplerBad (2 ^ 26) true = true)
    ∧ (let h := at0 (sTex 1)
       samplerBad 0 false = false ∧ (samplerOf h.c 0 false).levels ≠ 0 ∧ tdWorld (samplerOf h.c 0 false).td ≠ 0)
    ∧ (let s := sFrag false
       let h := at0 s
       let n := (nameSel h none false 8).and (nameVd h false 9)
       tileHome s h = some (0, 0, 0) ∧ Tbl.get? s.passes 0 = some passSt ∧ passHdr s 0 = some passHd
         ∧ (laneList (h.act 0)).all (fun l => tileAddrOk passHd (selLane h none .n32 8 l)) = true ∧ Able s h (uCauses tbLdSpec (uf 8)) true n
         ∧ tbLdDue s h (fun l => selLane h none .n32 8 l) (laneList (h.act 0)) = false
         ∧ (laneList (h.act 0)).any (fun l => tileBad passSt 0 (selLane h none .n32 8 l)) = false ∧ Able s h (uCauses tbStSpec (uf 8)) true n)
    ∧ (let f := { uf 0x85 with vd := 0 }
       Legal (sFrag false) (at0 (sFrag false)) (tbFenceCauses f) true ∧ fenceDue (sFrag false) 256 (at0 (sFrag false)).g = false
         ∧ Legal (sFrag true) (at0 (sFrag true)) (tbFenceCauses f) true ∧ fenceDue (sFrag true) 256 (at0 (sFrag true)).g = true
         ∧ (tileHome (sFrag true) (at0 (sFrag true))).isSome = true ∧ tileHome s0 h0 = none ∧ Legal s0 h0 (tbFenceCauses f) true)
    ∧ (let f := { uf 0xC9 with vd := 12 }
       Able s0 h0 (pixCauses pixNSpec f) true { vregs := [12, 13, 14, 15], sregs := [9] } ∧ (uniVal h0.g none 0xC9).toNat < 4096
         ∧ 4096 ≤ (uniVal h0.g none 0xC6).toNat ∧ Able s0 h0 (pixCauses pixNSpec { f with a := 0xC6 }) true { vregs := [12, 13, 14, 15], sregs := [6] })
    ∧ (let s := sFrag false
       ∀ e ∈ [(0, false), (65, true), (128, false), (193, true)], let s := modGroup s 256 fun g => { g with regs := { g.regs with sreg := SMap.set g.regs.sreg 9 (BitVec.ofNat 64 e.1) } }
         let h := at0 s
         Able s h (pixCauses pixESpec { uf 0xC9 with vd := 12 }) true { vregs := [12, 13, 14, 15], sregs := [9] } ∧ (uniVal h.g none 0xC9).toNat = e.1
           ∧ h.g.frag = some (frag 1) ∧ passHdr s 0 = some passHd ∧ e.1 % 4 < passHd.npl ∧ (e.1 / 64 % 2 = 1 ↔ planeFmt passHd (e.1 % 4) = 3)) := by
  refine ⟨?_, ?_, ?_, ?_, ?_, ?_, ?_⟩ <;> decide +kernel

/-- A group of 16 lanes writes lanes 0 and 3; a fragment whose lane 0 has sample 0 covered and no other lane any; surfaces of each kind, a pixel of the
display that each shows (R212, R284, R288, R298). -/
def surf (kind : Nat) : SurfArgs :=
  { base := 0, pitch := 256, h := 64, w := 64, oy := 0, ox := 0, z := 0, disp := if kind = 1 then 255 else 0, fmt := 0, kind := kind, vf := 0, oid := 5 }
def sSurf (kind : Nat) : State :=
  { s0 with pix := { s0.pix with
      disps := [(0, configured Display.reset { disp := 0, w := 64, h := 64, bg := { r := 0, g := 0, b := 0, a := 0 }, timing := .period 1000000 } 1000000)],
      surfs := [(0, { a := surf kind, fn := 0 })] } }
theorem witness_PixelInstructions_results : (Tbl.get? s0.groups 256 = some g0 ∧ g0.w ≤ 64 ∧ ([(0, [1]), (3, [2])].map (·.1) : List Nat).Nodup
      ∧ (∀ e ∈ ([(0, [1]), (3, [2])] : List (Nat × List Nat)), e.1 < 64 ∧ inSet 0x19 e.1 = true) ∧ inSet 0x19 4 = true ∧ inSet 0x19 1 = false)
    ∧ (Tbl.get? s0.pix.surfs 0 = none ∧ ∀ k ∈ [1, 2, 3], Tbl.get? (sSurf k).pix.surfs 0 = some { a := surf k, fn := 0 } ∧ (surf k).kind = k)
    ∧ ((pomAt (sSurf 2) 0 63 63).isSome = true ∧ pomAt (sSurf 2) 0 64 0 = none)
    ∧ (let s := sFrag false
       Tbl.get? s.groups 256 = some { g0 with frag := some (frag 1) } ∧ Tbl.get? s.passes 0 = some passSt
         ∧ ((List.range 4).filter fun k => (SMap.get (frag 1).cover 0).getLsbD k) = [0] ∧ ((List.range 4).filter fun k => (SMap.get (frag 1).cover 5).getLsbD k) = []) := by
  refine ⟨?_, ?_, ?_, ?_⟩ <;> decide +kernel

/-- The image of `sTex` on a surface of OID 7, with refusal value 32.0, and a grant of S to OID 0 in the display's generation, or without it. -/
def grantS : GrantArgs :=
  { last := 5, first := 0, y1 := 9, x1 := 9, y0 := 0, x0 := 0, sid := 3, gte := 0, gtr := 7, minlod := 0, disp := 0, rights := 1 }
def sConsent (granted : Bool) (s : State) : State :=
  { s with pix := { s.pix with
      surfs := [(3, { a := { surf 2 with base := 0x90000, oid := 7 }, fn := 0 })], rvals := [(7, { r := 0x42000000, g := 0, b := 0, a := 0 })],
      cts := if granted then [(0, { fn := 0, a := grantS })] else [] } }
def texelNow (s : State) : W32 := match Tbl.get? s.groups 256 with | some g => getVreg g 12 0 | none => 7
def fetched : State := aft (.texFetch { vf 8 0xC9 with vd := 12 }) (sConsent true (sTex 0))
/-- R293, R399: a fetch under a grant reads the texel; still incomplete when the grant is gone, it may complete with the refusal value, and once its
register is named it does not change. -/
theorem test_tex_completes_later : texelNow fetched = 0 ∧ texelNow (aft (.memoryAccessPerform 0) fetched) = 0
    ∧ texelNow (aft (.memoryAccessPerform 0) (sConsent false fetched)) = 0x42000000
    ∧ texelNow (aft (.memoryAccessPerform 0) (sConsent false (drainGroup fetched 256))) = 0 := by decide +kernel
/-- The texture read of a state completes with a result. -/
def completes (s : State) : Bool :=
  match s.mem.pend.head? with
  | some (.tex x) =>
    (match texHere (dropPend s 0) x with
     | some h =>
       let r := texScan { samplerOf h.c x.word x.fetch with td := x.td } h 0 x.lanes { s := dropPend s 0, oks := [], bads := [], wait := false }
       !r.wait && r.bads.isEmpty && !r.oks.isEmpty
     | none => false)
  | _ => false
theorem witness_PixelInstructions_complete : completes (sConsent true fetched) = true ∧ completes (sConsent false fetched) = true := by decide +kernel

/-- Unit 0 of the control store belongs to the PF; its first two words are `umov hv0, hv0` and `uend`. -/
def uopWord (opc d a b c : Nat) : W64 := BitVec.ofNat 64 (opc * 2 ^ 56 + d * 2 ^ 52 + a * 2 ^ 48 + b * 2 ^ 44 + c * 2 ^ 40)
def sWcs : State :=
  { s0 with wcsUnits := [(0, BitVec.ofNat 16 128)], wcs := [(0, uopWord 0x30 0 0 14 14), (1, uopWord 0x53 14 14 14 14), (2, uopWord 0x7F 14 14 14 14)] }
def kWcs (sc : SMap 64) : State := { mk (grp sc vr) with wcsUnits := sWcs.wcsUnits, wcs := sWcs.wcs }
/-- A binding of index 5 to the two words, with serial number 1. -/
def bound (s : State) : State := modCtx s 0 fun c => { c with tabs := { c.tabs with bcnt := 1, bind := [(5, BitVec.ofNat 64 (2 ^ 63 + 2 ^ 32 + 2 * 2 ^ 16))] } }
theorem witness_ControlStore :
    (let s := mk (grp [(4, 0x10000), (5, 0)] [])
     Legal s (at0 s) (wcsLdCauses (gf 0xC4 0x91)) true ∧ RegsFree s (at0 s) { sregs := [4, 5] } ∧ Still s (at0 s) ∧ unitsOk s 0 0 1 = false)
    ∧ (let s := kWcs [(4, 0x10000), (5, 0)]
       Legal s (at0 s) (wcsLdCauses (gf 0xC4 0x91)) true ∧ unitsOk s 0 0 1 = true ∧ covered s 0 0 1 = false ∧ isOk (readRun s (at0 s) 0x10000 1) = true
         ∧ covered (bound s) 0 0 1 = true ∧ Legal (bound s) (at0 (bound s)) (wcsLdCauses (gf 0xC4 0x91)) true)
    ∧ (let s := kWcs [(4, BitVec.ofNat 64 (2 * 2 ^ 16)), (5, BitVec.ofNat 64 (3 * 2 ^ 16))]
       PairReady s (at0 s) (wcsBindCauses (gf 0xC4 0xAF)) true (gf 0xC4 0xAF) ∧ (uniVal (at0 s).g none 0xAF).toNat = 31
         ∧ bindWordBad (uniVal (at0 s).g none 0xC4) = false ∧ Still s (at0 s) ∧ seqFailure s 0 0 2 = none ∧ (seqFailure s 0 0 3).isSome = true
         ∧ bindWordBad (uniVal (at0 s).g none 0xC5) = false)
    ∧ (ScalarReady s0 h0 (wcsUnbindCauses (gf 0x85 0x86)) {} ∧ ScalarReady s0 h0 (wcsUnbindCauses (gf 0x85 0xAF)) {} ∧ isOnes 0xAF = false ∧ s0.full = true ∧ Still s0 h0)
    ∧ (let s := kWcs []
       PairReady s (at0 s) (wcsInvCauses (gf 0xC4 0x91)) true (gf 0xC4 0x91) ∧ (uniVal (at0 s).g none 0xC4).toNat < 4096 ∧ unitsOk s 0 0 1 = true ∧ Still s (at0 s)
         ∧ unitsOk s0 0 0 1 = false ∧ PairReady s0 h0 (wcsInvCauses (gf 0xC9 0x91)) true (gf 0xC9 0x91)) := by
  refine ⟨?_, ?_, ?_, ?_, ?_⟩ <;> decide +kernel

/-- A fibre inside the bound sequence, at its first micro-op; hv1 holds 0x10000 in every lane. -/
def micro : Micro := { xmask := 0xFFFF, bser := 1, xi := 5, zro := false, upc := 0, dst := 9, len := 4 }
def sUop (dst : Byte) : State :=
  bound { mk { g0 with fibres := Tbl.modify g0.fibres 0 fun f => { f with micro := some { micro with dst := dst } },
                       regs := { g0.regs with hv := (List.range 16).map fun l => (64 + l, 0x10000) } } with
    wcsUnits := sWcs.wcsUnits, wcs := sWcs.wcs }
def uHere (dst : Byte) : UHere := { h := at0 (sUop dst), m := { micro with dst := dst }, e := bindOf (at0 (sUop dst)).c 5 }
theorem witness_MicroArithmetic : UopReady (sUop 9) (uHere 9) := by decide +kernel

def uop (d a b : BitVec 4) (sp : Bool) : UopFmt := { d := d, a := a, b := b, c := 14, rsvHi := false, sp := sp, rsvLo := 0, imm := 0 }
def xo (xi : BitVec 5) : XOFmt := { pfx := none, b := 2, a := 1, xi := xi, rsv := 0 }
theorem witness_SequenceControlAndMemory : (UopReady (sUop 9) (uHere 9) ∧ isVec (uHere 9).m.dst = true ∧ UopReady (sUop 0x85) (uHere 0x85) ∧ isVec (uHere 0x85).m.dst = false)
    ∧ (let u := uHere 9
       ∀ e ∈ [(uop 0 1 14 false, 4), (uop 8 1 14 false, 8), (uop 0 14 14 true, 4), (uop 14 14 14 true, 8)], let f := e.1
         let one : Bool := 8 ≤ f.d.toNat && f.d.toNat < 12
         let lanes := if one then [lowest u.act] else laneList u.act
         let r := scanLanes u.h f.sp false true false e.2 (uEa u f) lanes { s := sUop 9, oks := [], bads := [], wait := false }
         u.act ≠ 0 ∧ r.wait = false ∧ r.bads = [] ∧ loadsWait (beforeLoads r.s u.h r.oks) u.h r.oks = false ∧ rangeBusy (sUop 9) u.h (lanes.map fun l => (f.sp, uEa u f l, e.2)) = false)
    ∧ (let u := uHere 9
       ∀ e ∈ [(uop 14 1 0 false, 4), (uop 14 14 0 true, 8)], let f := e.1
         let r := scanLanes u.h f.sp false false true e.2 (uEa u f) (laneList u.act) { s := sUop 9, oks := [], bads := [], wait := false }
         r.wait = false ∧ r.bads = [] ∧ writesWait r.s u.h r.oks = false ∧ rangeBusy (sUop 9) u.h ((laneList u.act).map fun l => (f.sp, uEa u f l, e.2)) = false)
    ∧ s0.here = some h0
    ∧ (let s := bound s0
       bindV (SMap.get (at0 s).c.tabs.bind 5) = true ∧ Able s (at0 s) (xoCauses (xo 5)) true (xopNamed (at0 s) (xo 5)) ∧ hiddenDue s 256 = false
         ∧ bindV (SMap.get (at0 s).c.tabs.bind 31) = false ∧ Legal s (at0 s) (xoCauses (xo 31)) true) := by refine ⟨?_, ?_, ?_, ?_, ?_⟩ <;> decide +kernel
/-- The binding that the fibre entered by is gone, or replaced by another (R331); an index that nothing is bound to (R58). -/
theorem witness_SequenceControlAndMemory_stale : (let s := modCtx (sUop 9) 0 fun c => { c with tabs := { c.tabs with bind := [] } }
      s.here = some (at0 s) ∧ (at0 s).f.micro = some micro ∧ hiddenDue s 256 = false ∧ bindV (bindOf (at0 s).c 5) = false)
    ∧ (let s := modCtx (sUop 9) 0 fun c => { c with tabs := { c.tabs with bind := [(5, BitVec.ofNat 64 (2 ^ 63 + 2 * 2 ^ 32 + 2 * 2 ^ 16))] } }
       s.here = some (at0 s) ∧ (at0 s).f.micro = some micro ∧ hiddenDue s 256 = false ∧ bindSer (bindOf (at0 s).c 5) ≠ micro.bser)
    ∧ (s0.here = some h0 ∧ bindV (SMap.get h0.c.tabs.bind 5) = false ∧ minCause (xoCauses (xo 5) ++ [7]) = some 7
      ∧ minCause (xoCauses { xo 5 with rsv := 1 } ++ [7]) = some 3) := by
  refine ⟨?_, ?_, ?_⟩ <;> decide +kernel

/-! Mailboxes and commands. -/

def held (s : State) (fn : Nat) : State := modBox s fn fun b => { b with held := some 0 }
def hdr (fn : Nat) : MbHdr := { fn := fn, port := 0, tag := 7, session := some 6 }
/-- VF 1 is enabled, with frames, slots and cores; it has context 1. -/
def sVf : State :=
  held (held { setVf s0 1 (fun v => { v with enabled := true, qs := 2, qd := 2, cores := [0, 1], gf := 8, bf := 16, back := some (0, 2 ^ 20), dirtyEn := true }) with
    ctxs := [(0, ctx), (1, { ctx with vf := 1, oid := 5 })] } 0) 1
theorem witness_MailboxProtocol : (fnOk s0 0 = true ∧ portUp s0 0 = true ∧ portUp s0 1 = true ∧ (boxOf s0 0).held = none)
    ∧ ((boxOf (held s0 0) 0).held = some 0 ∧ (boxOf (held s0 0) 0).held ≠ some 1 ∧ (boxOf (held s0 0) 0).busy = false)
    ∧ BoxReady (held s0 0) (hdr 0)
    ∧ (let s := { held s0 0 with sys := { (held s0 0).sys with activating := some (0, 10) } }
       fnOk s 0 = true ∧ (boxOf s 0).held = some 0 ∧ (boxOf s 0).busy = false ∧ s.sys.activating.isSome = true)
    ∧ (let s := (held s0 0).busyFor (hdr 0)
       (boxOf s 0).busy = true) := by refine ⟨?_, ?_, ?_, ?_, ?_⟩ <;> decide +kernel

def quota : VfQuotaArgs := { vf := 16, qs := 1024, qd := 4096, cores := [], sliceUs := 100, drainUs := 1, coopClk := 2 ^ 24, preemptUs := 10 }
def slotArgs (c : Nat) : SlotArgs := { ctx := c, slot := 1023, rbase := 0x1000, log2n := 15, pri := 3 }
def ctxArgs : CtxArgs := { vf := 1, world := 0, oid := 4094, u := 64, cores := [1], handler := none, saveArea := 0, frontierBytes := 0 }
/-- A store of context 0 is in flight. -/
def sDrain : State := modCtx (modCore sVf 0 fun c => { c with mashq := [mashOf (.clr 0 1)] }) 0 fun c => c
/-- The context's save area is a frame that is there; a world of VF 1 that a hot reset sealed (R393). -/
def saveArgs : CtxArgs := { ctxArgs with saveArea := 3 * 32768 }
def sSealed : State := { sVf with sys := { sVf.sys with worlds := [(62, { vf := 1, token := 9, fails := 0, sealed := true })] } }
theorem witness_ContextCommands_create : (oidElsewhere sVf 1 ctxArgs.oid = false ∧ worldSealed sVf 0 = false
      ∧ (clearFrames (sVf.busyFor (hdr 0)) (saveFrames (sVf.busyFor (hdr 0)) (newCtx ctxArgs))).isSome = true)
    ∧ (worldSealed sSealed 62 = true ∧ worldOfVf sSealed 1 62 = true ∧ ctxFits sSealed { ctxArgs with world := 62 } = true ∧ BoxReady sSealed (hdr 0))
    ∧ oidElsewhere { sVf with ctxs := Tbl.set sVf.ctxs 2 { ctx with vf := 2, oid := 6 } } 1 6 = true := by refine ⟨?_, ?_, ?_⟩ <;> decide +kernel
theorem witness_ContextCommands : (BoxReady sVf (hdr 0) ∧ BoxReady sVf (hdr 1) ∧ sVf.full = true ∧ quotaFits quota = true)
    ∧ ((Tbl.get? sVf.ctxs 1).isSome = true ∧ (slotOf sVf (slotArgs 1).slot).st = 0 ∧ slotsHeldBy sVf 1 < (vfOf sVf 1).qs ∧ (slotArgs 1).rbase.toNat % 4096 = 0)
    ∧ (let s := modSlot sVf 1023 fun q => { q with st := 3, vf := 1, ctx := 1 }
       BoxReady s (hdr 1) ∧ (slotOf s 1023).vf = 1 ∧ (slotOf s 1023).st = 3 ∧ recsOf s 1023 = [])
    ∧ (SMap.get sVf.depcVf 4095 = 0 ∧ depcHeldBy sVf 1 < (vfOf sVf 1).qd)
    ∧ (let s := { sVf with depcVf := [(4095, 2)] }
       BoxReady s (hdr 1) ∧ (SMap.get s.depcVf 4095).toNat = 1 + 1 ∧ SMap.get s.depcVf 4095 ≠ 0)
    ∧ (ctxFits sVf ctxArgs = true ∧ worldOfVf sVf 1 0 = true ∧ freeCtx sVf ≤ 4095)
    ∧ (ctx.current = true ∧ (Tbl.get? sVf.ctxs 0) = some ctx ∧ underLadder sVf 0 ctx (fun _ => true) = false ∧ (freeEnded (endContext (sVf.busyFor (hdr 0)) 1) 1).isSome = true ∧ freeEnded (endContext (sDrain.busyFor (hdr 0)) 0) 0 = none ∧ (0x80000 : W64).toNat % 4096 = 0)
    ∧ (let s := modCtx sVf 1 fun c => { c with held := true }
       BoxReady s (hdr 1) ∧ ((Tbl.get? s.ctxs 1).map fun c => (c.held, c.world)) = some (true, 0))
    ∧ (targetThere sVf (.vf 16) = true ∧ targetThere sVf (.ctx 1) = true ∧ (rollback sVf 16).sys.ladders.any (fun l => l.tgt == .vf 16) = false
      ∧ sVf.sys.ladders.any (fun l => l.tgt == .ctx 1) = false) := by refine ⟨?_, ?_, ?_, ?_, ?_, ?_, ?_, ?_, ?_⟩ <;> decide +kernel

/-- Frame 3 of VF 1 is resident at physical frame 20. -/
def sFrm : State := { sVf with tables := { sVf.tables with frames := [(2 ^ 37 + 3, (1, 20))], pot := Tbl.set sVf.tables.pot 20 { vf := 1, state := 1, world := 0 } } }
/-- An engine operation of VF 1 is under way through frame 20. -/
def partAt20 : Part := { off := 0, n := 64, pa := 20 * 32768, space := .loc, kind := .loose, vpa := 3 * 32768, world := 0, tied := none }
def sUse : State := modCore sFrm 0 fun c => { c with mashq := [{ mashOf (.ld 0 [partAt20]) with ctx := 1 }] }
theorem witness_FrameCommands : (BoxReady sFrm (hdr 1) ∧ (invalidate (sFrm.busyFor (hdr 1)) (.vf 1) 0 32768).isSome = true)
    ∧ ((invalidate (sFrm.busyFor (hdr 1)) (.ctx 1) 0 0).isSome = true ∧ (Tbl.get? sFrm.ctxs 1).isSome = true)
    ∧ (frameRange 0 32768 = true ∧ worldOfVf sFrm 1 0 = true ∧ (vpaFrames 0 32768).any (fun f => (frameEntry sFrm 1 f).1 != 0) = false
      ∧ (vfOf sFrm 1).hf.toNat + 32768 / 32768 ≤ (vfOf sFrm 1).bf.toNat)
    ∧ (let b := sFrm.busyFor (hdr 0)
       frameRange (3 * 32768) 32768 = true ∧ (vpaFrames (3 * 32768) 32768).any (fun f => (frameEntry sFrm 1 f).1 != 1 && (frameEntry sFrm 1 f).1 != 3) = false
         ∧ residentFrames sFrm 1 (vpaFrames (3 * 32768) 32768) = [20] ∧ (clearFrames b [20]).isSome = true)
    ∧ (let b := sUse.busyFor (hdr 0)
       BoxReady sUse (hdr 0) ∧ clearFrames b [20] = none)
    ∧ otherGf sFrm 1 + 16 ≤ frameCount sFrm
    ∧ (vpaFrames (22 * 32768) 32768 = [22] ∧ (potEntry sFrm 22).state ≠ 2 ∧ (clearFrames (sFrm.busyFor (hdr 0)) [22]).isSome = true ∧ ¬frameCount sFrm ≤ 22)
    ∧ (vfOf sFrm 1).dirtyEn = true := by refine ⟨?_, ?_, ?_, ?_, ?_, ?_, ?_, ?_⟩ <;> decide +kernel
theorem witness_ContextCommands_wait : let b := sUse.busyFor (hdr 0)
    clearFrames b (saveFrames b (newCtx saveArgs)) = none := by decide +kernel
theorem witness_FrameCommands_wait : (match allotFrames 1 0 (vpaFrames 0 32768) (sFrm.busyFor (hdr 0)) with | .done _ l => l.isEmpty | _ => false) = true
    ∧ (let e : TlbEntry := { ctx := 1, page := 0, bits := 15, pbits := 15, base := 20 * 32768, space := .loc, kind := .loose, w := true, x := false, world := 0, vpa := 0 }
       let q : CopyReq :=
         { id := 0, num := 1, gid := 512, ctx := 1, lcore := 0, pc := 0, td := 0, org := (0, 0, 0, 0), ext := (1, 1, 1, 1), laddr := 0, lpitch := 0, bar := none, dir := 0,
           etype := 0, rows := [], gather := false, pages := [e], mlo := 0, mhi := 0, lhi := 0, phys := [], moved := 0, arrived := 0, waits := false }
       let s := modCore sFrm 0 fun c => { c with kicks := [q] }
       BoxReady s (hdr 0) ∧ invalidate (s.busyFor (hdr 0)) (.vf 1) 0 32768 = none) := by refine ⟨?_, ?_⟩ <;> decide +kernel

def dispArgs : DispArgs := { disp := 19, w := 64, h := 64, bg := { r := 0, g := 0, b := 0, a := 0 }, timing := .period 1000000 }
def surfArgs (kind : Nat) : SurfArgs :=
  { base := 0, pitch := 256, h := 64, w := 64, oy := 0, ox := 0, z := 0, disp := if kind = 1 then 255 else 19, fmt := 0, kind := kind, vf := 1, oid := 5 }
def grant : GrantArgs :=
  { last := 9, first := 1, y1 := 63, x1 := 63, y0 := 0, x0 := 0, sid := 0, gte := 0, gtr := 5, minlod := 0, disp := 19, rights := 1 }
def pqArgs : PqArgs := { oid := 5, ctx := 1, disp := 19, ring := 0x10000, log2n := 12, cad := 15, phase := 14, maxrp := 15, br := 7 }
/-- Display 19 is configured; VF 1 has surface 0, consent entry 0 and present queue 0. -/
def sPix : State :=
  { sVf with pix := { sVf.pix with
      disps := [(19, configured Display.reset dispArgs 1000000)], surfs := [(0, { a := surfArgs 2, fn := 1 })], cts := [(0, { a := grant, fn := 1 })],
      pqs := [(0, newPq pqArgs 1)] } }
theorem witness_DisplayCommands : (BoxReady sPix (hdr 0) ∧ BoxReady sPix (hdr 1) ∧ timingFits dispArgs = true ∧ hasOutput sPix 19 = false ∧ sPix.full = true)
    ∧ (dispSt sPix 19).cfg = some dispArgs
    ∧ (ownOid sPix 1 5 = true ∧ surfFits (surfArgs 1) = true ∧ surfFits (surfArgs 2) = true ∧ surfFits (surfArgs 3) = true ∧ coversDisplay sPix (surfArgs 3) = true
      ∧ freeSid sPix ≤ 4094 ∧ (clearFrames (sPix.busyFor (hdr 1)) (surfPhys sPix (surfArgs 2))).isSome = true)
    ∧ (surfLatched (sPix.busyFor (hdr 1)) 0 = false ∧ (Tbl.get? sPix.pix.surfs 0).isSome = true)
    ∧ (grantFits grant = true ∧ freeCt sPix ≤ 4095 ∧ (Tbl.get? sPix.pix.cts 0).isSome = true)
    ∧ (pqFits pqArgs = true ∧ freePq sPix ≤ 255 ∧ (Tbl.get? sPix.ctxs 1).map (·.vf) = some 1 ∧ (Tbl.get? sPix.pix.pqs 0).isSome = true) := by
  refine ⟨?_, ?_, ?_, ?_, ?_, ?_⟩ <;> decide +kernel

/-- What VF 1 has sent of its frames: none. -/
def sentNone : MigImage :=
  { vf := 1, st := VfSt.reset, last := 0, ctxs := [], slots := [], recs := [], launches := [], blocks := [], groups := [], saves := [], passes := [],
    frames := [], worlds := [], keys := [], units := [], wcs := [], spdm := Spdm.reset }
/-- A configuration record with ERR_INJECT enabled, fabric number 2, TJ_HI 95, TJ_MIG 90, and 2,400 MHz at 1,000 mV (R391). -/
def cfgBytes : List Byte :=
  List.replicate 32 0 ++ natLE 2 1 ++ [2, 0, 95, 90] ++ List.replicate 26 0 ++ natLE 4 (1000 * 65536 + 2400) ++ List.replicate 188 0
def sDev : State :=
  let s := { sVf with sys := { sVf.sys with cfg := some cfgBytes, staged := some (1, [0]), links := [(0, 3)], worlds := [(62, { vf := 1, token := 9, fails := 0, sealed := false })],
                                             spdm := [(1, { conn := 3, opening := [5], sessions := [6], resp := none })],
                                             migs := [(1, { peer := 3, ticket := 0, started := 0, done := some true, sent := sentNone })] } }
  { s with errs := [(4, { entries := [{ addr := 0, syn := 0, time := 0, ctx := some 1, vf := 1, inj := false, kind := 1, core := 0, count := 1 }], lost := 0, inject := 0 })] }
/-- The sequence image of a VF that holds no unit: no sequence and no binding. -/
def xload : XopLoadArgs := { seqVa := 0x10000, seqBytes := 0, bindVa := 0x10000, bindBytes := 0 }
def coll (c : Nat) : CollArgs := { ctx := c, bcast := false, va := 0x10000, count := 1, peers := [2, 3] }
theorem witness_DeviceCommands : (BoxReady sDev (hdr 0) ∧ BoxReady sDev (hdr 1) ∧ sDev.full = true)
    ∧ ((List.range 16).any (fun u => (BitVec.allOnes 16).getLsbD u && !(0 : Half).getLsbD u && (match unitVf sDev (256 * u) with | some v => v != 1 | none => false)) = false)
    ∧ (let b := sDev.busyFor (hdr 1)
       (match Tbl.get? sDev.ctxs 1 with
        | none => false
        | some c => (match cmdRead b 1 c 0x10000 0 with | .ok x => x.isEmpty | _ => false) && (match parseSeqs 0 0 [] 4096 with | .ok l => l.isEmpty | _ => false)
            && (match loadImage b 1 c [] [] false with | .done _ l => l.isEmpty | _ => false)) = true)
    ∧ (let b := sDev.busyFor (hdr 1)
       (match Tbl.get? sDev.ctxs 1 with
        | none => false
        | some c => (match loadImage b 1 c [] [BitVec.ofNat 64 (2 ^ 63 + 2 ^ 40)] false with | .tell _ _ => true | _ => false)) = true)
    ∧ ((coll 1).peers ≠ [] ∧ noRepeats (coll 1).peers = true ∧ (coll 1).va.toNat % 4 = 0
      ∧ (coll 1).peers.any (fun p => p != fabId sDev && !(sDev.sys.links.any fun e => e.2 == p)) = false)
    ∧ (let s := modCluster sDev 11 fun c => { c with mv := 1000 }
       BoxReady s (hdr 0) ∧ 2400 ≤ fmax s (clusterSt s 11).mv ∧ vmin sDev (max (presentMhz sDev 11) (clusterSt sDev 11).mhz) = some 1000)
    ∧ ((cfgNat sDev 32 2).getD 0 % 2 = 1 ∧ (let w : BitVec 128 := BitVec.ofNat 128 (2 ^ 48 + 255 * 2 ^ 40 + 63)
        w.toNat / 2 ^ 50 % 2 ^ 14 = 0 ∧ w.toNat / 2 ^ 16 % 2 ^ 24 = 0 ∧ modeFits 0 (w.toNat / 2 ^ 48 % 4) = true ∧ w.toNat / 2 ^ 40 % 256 ≠ 0 ∧ w.toNat % 256 < wordBits 0
          ∧ w.toNat / 2 ^ 48 % 4 ≠ 2 ∧ protectedTarget sDev 0 (w.toNat / 2 ^ 64) = false))
    ∧ (sDev.sys.staged.isSome = true ∧ sDev.sys.links.any (fun e => e.2 == 3) = true)
    ∧ (let s := { sDev with sys := { sDev.sys with migs := [] } }
       BoxReady s (hdr 0) ∧ (vfOf s 1).enabled = true ∧ Tbl.get? s.sys.migs 1 = none ∧ s.sys.ladders.any (fun l => l.tgt == .vf 1) = false)
    ∧ ((Tbl.get? sDev.sys.migs 1).map (·.done) = some (some true) ∧ ((ringOf sDev 4).entries[0]?).isSome = true)
    ∧ (sessionVf sDev (hdr 1) = true ∧ freeWorld sDev ≤ 62 ∧ (Tbl.get? sDev.sys.worlds 62).map (·.vf) = some 1
      ∧ sDev.ctxs.any (fun e => e.2.world == 62) = false ∧ sDev.tables.pot.any (fun e => e.2.world == 62 && e.2.state != 0) = false) := by
  refine ⟨?_, ?_, ?_, ?_, ?_, ?_, ?_, ?_, ?_, ?_, ?_⟩ <;> decide +kernel

theorem witness_SpdmRequests : (fnOk sDev 1 = true ∧ sDev.sys.activating = none ∧ 3 ≤ (spdmOf sDev 1).conn ∧ (spdmOf sDev 1).opening.contains 5 = true
      ∧ (spdmOf sDev 1).sessions.contains 6 = true)
    ∧ (fnOk s0 0 = true ∧ (spdmOf s0 0).conn < 3) := by refine ⟨?_, ?_⟩ <;> decide +kernel

/-! Events. -/

def slot3 (tail : Half) : QSlot := { QSlot.reset with rbase := 0x10000, log2n := 4, st := 1, vf := 0, ctx := 0, tail := tail }
/-- Slot 3 with a launch record at the head of its ring, and with zeros. -/
def sRing (full : Bool) : State :=
  { s0 with slots := [(3, slot3 2)], mem := { s0.mem with loc := if full then descAt pages 0x90000 else pages }, groups := [], blocks := [], ready := [], launches := [] }
def isRefuse {α : Type} : Take α → Bool
  | .refuse _ => true
  | _ => false
def isTaken {α : Type} : Take α → Bool
  | .ok _ => true
  | _ => false
def rec3 (begun : Bool) : Rec :=
  { slot := 3, body := .launch desc 0x10000, ord := false, wdc := none, wval := 0, sdc := none, begun := begun, status := .normal, went := [], gone := [], obj := none,
    objs := [], began := 0 }
def sRec (begun : Bool) : State := { sRing true with recs := [(0, rec3 begun)] }
/-- A launch begun from slot 3, none of its points fired. -/
def sFire : State := { sRec true with launches := [(0, newLaunch 0 3 0 0 desc 0x10000 none [])] }
/-- The block saved, its group in no slot (R237). -/
def sSaved : State := { modBlock (modGroup s0 256 fun g => { g with place := { g.place with slot := none } }) 1 (fun b => { b with saved := true }) with ready := [] }
/-- The only group of the block waits for more registers than FREE holds. -/
def sDead : State :=
  { modGroup sFree0 256 (fun g => { g with wait := some { kind := .claim 8, fib := 0, len := 4, dst := none }, place := { g.place with slot := none },
                                           fibres := Tbl.modify g.fibres 0 fun f => { f with st := .waiting } }) with claimq := [(0, [256])], ready := [] }
def sEmptied : State := { s0 with groups := [], ready := [] }
def doneLaunch : Launch := { newLaunch 0 3 0 0 { desc with kr := { krec with ext := (1, 1, 1) } } 0x10000 none [] with done := [0], retn := 1 }
def sDone (l : Launch) : State := { sRec true with launches := [(0, l)] }
def sTrapq : State := { modCtx s0 0 (fun c => { c with queues := { c.queues with trapq := [tr] } }) with ready := [], groups := [], blocks := [] }
def sPend (p : Pend) : State := { sSlot with mem := { sSlot.mem with pend := [p] } }
def evRec : EvRec := { pay := 1, time := 0, src := 0, code := 0, cls := 1 }
theorem witness_FrontEndEvents : ((slotOf (sRing true) 3).st ≠ 0 ∧ (modSlot (sRing true) 3 fun q => { q with tail := 16 }).slots.all (fun e => decide (e.2.avail ≤ 2 ^ e.2.log2n)) = true
      ∧ (modSlot (sRing true) 3 fun q => { q with tail := 17 }).slots.all (fun e => decide (2 ^ e.2.log2n < e.2.avail)) = true)
    ∧ (∀ b ∈ [true, false], let s := sRing b
       let q := slotOf s 3
       Tbl.get? s.ctxs q.ctx = some ctx ∧ q.st = 1 ∧ ctx.stopped = false ∧ ctx.held = false ∧ q.avail ≠ 0 ∧ (recsOf s 3).any (fun e => !e.2.begun) = false
         ∧ headNeed s q ctx ≤ q.avail ∧ isTaken (takeRecord s 3 q 0 ctx) = b ∧ isRefuse (takeRecord s 3 q 0 ctx) = !b)
    ∧ ((recsOf (sRec false) 3).find? (fun e => !e.2.begun) = some (0, rec3 false) ∧ mayBegin (sRec false) 3 (rec3 false) = true)
    ∧ ((match tryList sFire 0 with
        | (_, l) :: _ => (nextPoint sFire l).isSome && (readyPoint sFire 0 l 0).isSome && entryOk sFire l && !l.tiled
            && (bestCores sFire ctx 0 (launchCores sFire ctx l) l.desc.kr.foot).isSome
        | [] => false) = true)
    ∧ ((at0 s0).b.saved = false ∧ ((Tbl.get? sSaved.blocks 1).map fun b => (b.saved, (restoreBlock sSaved 1 b ctx).isSome)) = some (true, true) ∧ mayStart sSaved 0 ctx = true)
    ∧ (let s := sTwo none
       let g := { g0 with wait := none, place := { g0.place with slot := none } }
       Tbl.get? s.groups 257 = some g ∧ freeActive s 0 0 = some 1 ∧ slotReady s (257, g) = true
         ∧ (residents s 0).all (fun e => !(e.2.place.part == g.place.part && slotReady s e) || entersFirst (257, g) e) = true)
    ∧ ((Tbl.get? sDead.blocks 1).map fun b => claimDead sDead 1 b) = some true
    ∧ (((Tbl.get? sEmptied.blocks 1).map fun b => b.saved) = some false ∧ groupsOf sEmptied 1 = [] ∧ blockDue sEmptied 1 = false)
    ∧ (doneLaunch.st = .running ∧ doneLaunch.allRetired = true ∧ inFlight (sDone { doneLaunch with st := .committed }) (fun a => a.gid == launchGid 0) = false
      ∧ commitWaits (sDone doneLaunch) = false ∧ ackRoom (sDone doneLaunch) 0 (doneLaunch.log.filter fun c => c.peer.isSome).length = true)
    ∧ (let f := freshNat sTrapq
       (Tbl.get? sTrapq.ctxs 0).map (fun c => (c.handler, c.queues.trapq)) = some (some hk, [tr]) ∧ inService sTrapq 0 < 4
         ∧ (Tbl.get? sTrapq.ctxs 0).map (fun c => mayFinish sTrapq 0 c) = some true ∧ recordDue sTrapq tr = false
         ∧ f.2 = { sTrapq with freeCtr := 1 })
    ∧ (earlierDue (sPend (.signal 256 0 none 1)) 0 256 = false ∧ earlierDue (sPend (.signal 256 0 (some 3) 1)) 0 256 = false ∧ slotOfVf (sPend (.signal 256 0 (some 3) 1)) 3 0 = true)
    ∧ earlierDue (sPend (.event 256 0 evRec)) 0 256 = false := by
  refine ⟨?_, ?_, ?_, ?_, ?_, ?_, ?_, ?_, ?_, ?_, ?_, ?_⟩ <;> decide +kernel
/-- The rows of a block's point and of one whose launch is gone; a sum whose target no held write meets (R173, R249). -/
theorem witness_FrontEndEvents_retire : rowReady sEmptied 0 0 = true ∧ rowReady sEmptied 7 0 = true
    ∧ targetHeld (sDone doneLaunch) 0
        { prank := 0, lrank := 0, seq := 0, pa := 0x90000, peer := none, host := false, world := 0, f64 := false, value := 0, vpa := 0x90000 } = false := by
  decide +kernel
/-- Whatever cluster is tried first, core 0 is found: it is the only core of the context. -/
theorem witness_FrontEndEvents_handler : (List.range 12).all (fun k => ((Tbl.get? sTrapq.ctxs 0).map fun c =>
    (handlerFit { sTrapq with freeCtr := 1 } c (HandlerKernel.foot hk) ((List.range 12).map fun n => (n + k) % 12)).isSome) == some true) = true := by decide +kernel

def acc (op : AccOp) (dst : Option Dst) (space : Space) : Acc :=
  { gid := 256, pc := 0, ctx := 0, lane := 0, seq := 0, space := space, pa := 0x90000, n := 4, kind := .loose, vpa := 0x90000, world := 0, op := op, dst := dst, val := none, micro := none, tied := none, mark := none, left := 0 }
def toV9 : Option Dst := some { reg := .vec 9 0, off := 0, size := 4, sext := false }
def store4 : AccOp := .store [1, 2, 3, 4]
def fetchAdd : AccOp := .rmw .add .i32 1 0
def sAcc (a : Acc) : State := { s0 with mem := { s0.mem with pend := [.acc a] } }
/-- A peer behind link 0. -/
def sFab (a : Acc) : State := { s0 with mem := { s0.mem with fab := [a] }, sys := { s0.sys with links := [(0, 3)] } }
/-- VF 1's frame 3 is paged out at place 0 of its backing area. -/
def sOut : State :=
  { sVf with tables := { sVf.tables with frames := [(2 ^ 37 + 3, (3, 0))], paged := [(2 ^ 37 + 3, { world := 0, stamp := 0, plain := [] })] } }
/-- In reduced service, frames 0 to n − 1 belong to VF 1; its frame 3 lies at physical frame 20. -/
def sUsed (n : Nat) : State :=
  { sVf with full := false, ctxs := [],
             tables := { sVf.tables with frames := [(2 ^ 37 + 3, (1, 20))], pot := (List.range n).map fun k => (k, { vf := 1, state := 1, world := 0 }) } }
theorem used_all (n : Nat) (h : frameCount (sUsed n) = n) : (usedFrames (sUsed n)).length = n := by
  unfold usedFrames
  rw [h, List.length_map, List.filter_eq_self.2]
  · simp [sUsed]
  · intro a ha
    simp only [sUsed, List.mem_map, List.mem_range] at ha
    obtain ⟨k, hk, rfl⟩ := ha
    simp [hk]
theorem none_free (n : Nat) (h : frameCount (sUsed n) = n) : freeFrame (sUsed n) = none := by
  unfold freeFrame
  simp only [used_all n h, h, Nat.sub_self, ↓reduceIte]
/-- Every frame of stack 0 is used. -/
theorem witness_MemoryEvents_pageOut : freeFrame (sUsed 732421) = none ∧ (pageOut (sUsed 732421) 1).isSome = true :=
  ⟨none_free _ (by decide +kernel), by decide +kernel⟩
def copy : CopyReq :=
  { id := 0, num := 1, gid := 256, ctx := 0, lcore := 0, pc := 0, td := BitVec.ofNat 512 (0x10000 * 2 ^ 448 + 64 * 2 ^ 416 + 2 ^ 384 + 2 ^ 352 + 2 ^ 320), org := (0, 0, 0, 0),
    ext := (64, 1, 1, 1), laddr := 0, lpitch := 64, bar := none, dir := 0, etype := 0, rows := [], gather := false, pages := [], mlo := 0, mhi := 0, lhi := 64, phys := [],
    moved := 0, arrived := 0, waits := false }
/-- The two halves of an access that straddles a line inside a page (R366). -/
def halfA : Acc := { acc store4 none .loc with pa := 0x9007C, tied := some 0 }
def halfB : Acc := { acc store4 none .loc with pa := 0x90080, vpa := 0x90004, tied := some 0 }
/-- A copy under way that reads from a peer. -/
def sPeerCopy : State :=
  let e : TlbEntry := { ctx := 0, page := 0, bits := 15, pbits := 15, base := 0, space := .peer 3, kind := .loose, w := true, x := false, world := 0, vpa := 0 }
  modCore s0 0 fun c => { c with kicks := [{ copy with pages := [e] }] }
/-- Ten milliseconds after a read left for its peer, with its fellow reads, and after a copy from a peer last moved (R394). -/
theorem witness_MemoryEvents_timeout : (let a := acc .load toV9 (.peer 3)
      let s := { sFab a with time := 10000000 }
      a.left + 10000000 ≤ s.time ∧ (∀ x ∈ s.mem.fab, x.left + 10000000 ≤ s.time) ∧ (sFab a).time < a.left + 10000000)
    ∧ ((peerCopies { sPeerCopy with time := 10000000 }).all (fun e => decide (e.2.since + 10000000 ≤ 10000000)) = true
      ∧ (peerCopies sPeerCopy).all (fun e => decide (sPeerCopy.time < e.2.since + 10000000)) = true) := by
  refine ⟨?_, ?_⟩ <;> decide +kernel
theorem witness_MemoryEvents : (mayAt (sAcc (acc store4 none (.peer 3))) 0 = true ∧ (acc store4 none (.peer 3)).isPeer = true
      ∧ otherHalf (sAcc (acc store4 none (.peer 3))) (acc store4 none (.peer 3)) = none)
    ∧ (mayAt (sAcc (acc store4 none .loc)) 0 = true ∧ otherHalf (sAcc (acc store4 none .loc)) (acc store4 none .loc) = none ∧ (acc store4 none .loc).isPeer = false)
    ∧ (mayAt (sAcc (acc .load toV9 .loc)) 0 = true ∧ otherHalf (sAcc (acc .load toV9 .loc)) (acc .load toV9 .loc) = none ∧ toV9.isSome = true)
    ∧ (let s := { s0 with mem := { s0.mem with pend := [.acc halfA, .acc halfB] } }
       mayAt s 0 = true ∧ otherHalf s halfA = some 1 ∧ mayAt s 1 = true)
    ∧ (peerCopies sPeerCopy).length = 1
    ∧ earlierDue { s0 with mem := { s0.mem with pend := [.barrier 256 0 true 1] } } 0 256 = false
    ∧ ((vfOf sOut 1).back = some (0, 2 ^ 20) ∧ (Tbl.get? sOut.tables.paged (frameKey 1 3)).isSome = true ∧ (frameEntry sOut 1 3).1 = 3
      ∧ (vfOf sOut 1).hf.toNat < (vfOf sOut 1).bf.toNat ∧ (takeFrame sOut 1).isSome = true)
    ∧ ((portUp s0 0 || portUp s0 1) = true ∧ (sFab (acc .load toV9 (.peer 3))).sys.links.any (fun e => e.2 == 3) = true)
    ∧ ((acc store4 none (.peer 3)).writes = true ∧ (acc fetchAdd toV9 (.peer 3)).writes = true ∧ (acc fetchAdd toV9 (.peer 3)).reads = true
      ∧ (acc .load toV9 (.peer 3)).writes = false ∧ (acc .load toV9 (.peer 3)).reads = true) := by
  refine ⟨?_, ?_, ?_, ?_, ?_, ?_, ?_, ?_, ?_⟩ <;> decide +kernel

def kr (w : KilnWho) : KilnRes := { who := w, ctx := 0, gid := 256, want := 0, held := 1, asked := 0, full := 0, ended := false }
def sMm (out : Option MashOut) : State := modCore sMash 0 fun c => { c with mashq := [{ mashOf (.mm (opOf 0)) with out := out, slotsA := [0], slotsB := [1] }] }
def sHeld (s : State) (w : KilnWho) : State := modCluster s 0 fun c => { c with res := [kr w] }
def sQ (k : MashKind) : State := modCore sMash 0 fun c => { c with mashq := [mashOf k] }
def sCopy : State := sHeld (modCore s0 0 fun c => { c with kicks := [copy] }) (.grist 0)
def sCfg : State := { s0 with sys := { s0.sys with cfg := some cfgBytes } }
def idle : State := { s0 with groups := [], blocks := [], ready := [] }
/-- A reservation that has ended, one that is asked for, and one that has all it wants. -/
def sKiln : State := modCluster s0 0 fun c => { c with res := [{ kr (.mash 1) with held := 12, ended := true, full := 3 }, { kr (.mash 0) with want := 8, held := 0, asked := 4 },
  { kr (.vector 0 2) with held := 4, full := 1 }] }
theorem witness_EngineAndPreemptionEvents_kiln : let c := clusterSt sKiln 0
    (c.res.map (·.who)).Nodup ∧ ((c.res.filter (·.ended)).map fun r => (r.full, whoCore r.who)).Nodup ∧ c.deny = false ∧ c.res.length = 3 := by decide +kernel
theorem witness_EngineAndPreemptionEvents_sum : let c := coreOf (sMm none) 0
    portRun (sMm none) c [1] = some (slotBytes c 1) ∧ (opOf 0).cls ≤ 2 ∧ (opOf 0).a.smode ≤ 6 ∧ SMap.wf c.acc = true ∧ 64 * (opOf 0).m ≤ ([0].flatMap (slotBytes c)).length
      ∧ 64 * (opOf 0).n ≤ (slotBytes c 1).length ∧ (slotBytes c 1).all (fun v => decide (v < 256)) = true := by decide +kernel
theorem witness_EngineEvents : ((mmReady (sMm none) 0).isSome = true ∧ kilnHeld (sHeld (sMm none) (.mash 0)) (.mash 0) = true ∧ (mmReady (sHeld (sMm none) (.mash 0)) 0).isSome = true)
    ∧ (let s := sMm (some { vals := [], sealGone := false, since := 0 })
       (coreOf s 0).mashq.map (fun o => (o.kind == .mm (opOf 0), o.out)) = [(true, some { vals := [], sealGone := false, since := 0 })]
         ∧ (let s := { s with time := 10 ^ 9 }
            2 ^ 20 * 1000 ≤ (s.time - 0) * presentMhz s (clusterOf 0)))
    ∧ (∀ k ∈ [MashKind.clr 63 1, .mov 1 0, .put 63 1 []], (coreOf (sQ k) 0).mashq = [mashOf k])
    ∧ (let s := modCore s0 0 fun c => { c with wantOwn := [256] }
       (coreOf s 0).wantOwn = [256] ∧ (Tbl.get? s.blocks (bsnOf 256)).map (·.ctx) = some 0 ∧ (coreOf s 0).idle = true)
    ∧ ((coreOf sCopy 0).kicks[0]? = some copy ∧ copy.waits = false ∧ mayMove sCopy 0 0 64 copy = true)
    ∧ (clusterOf (whoCore (.grist 0)) = 0 ∧ (kilnWants sCopy (.grist 0)).isSome = true)
    ∧ (kilnRes (sHeld s0 (.vector 0 0)) (.vector 0 0)).isSome = true
    ∧ (cfgNat sCfg 36 1 = some 95 ∧ cfgNat sCfg 37 1 = some 90)
    ∧ ((clusterSt s0 11).deny = false ∧ (clusterSt (modCluster s0 11 fun c => { c with deny := true }) 11).deny = true)
    ∧ (let s := { modCluster s0 0 (fun c => { c with hotSince := some 0 }) with time := 1000000 }
       (clusterSt s 0).hotSince = some 0 ∧ 0 + 1000000 ≤ s.time)
    ∧ ((clusterSt idle 0).retained = false ∧ clusterIdle idle 0 = true ∧ (clusterSt idle 0).idleFrom = none
      ∧ (let s := { modCluster idle 0 fun c => { c with idleFrom := some 0 } with time := 10 ^ 9 }
         (clusterSt s 0).idleFrom = some 0 ∧ clusterIdle s 0 = true ∧ 0 + retNs s ≤ s.time) ∧ clusterIdle s0 0 = false) := by refine ⟨?_, ?_, ?_, ?_, ?_, ?_, ?_, ?_, ?_, ?_, ?_⟩ <;> decide +kernel

def lad (n : Nat) (t : Target) : Ladder := { tgt := t, cores := none, step := n, since := 0, next := .none }
def sLad (n : Nat) : State := { s0 with time := 1000000000, sys := { s0.sys with ladders := [lad n (.ctx 0)] } }
/-- VFs 1 and 2 share core 0; VF 1's slice has ended. -/
def sSlice (two : Bool) : State :=
  let s := setVf s0 1 fun v => { v with enabled := true, cores := [0], sliceEnd := some 0 }
  if two then setVf s 2 fun v => { v with enabled := true, cores := [0] } else s
/-- Slot 3 of PRI 3 finds no fit while context 1, of slot 4 and PRI 0, is on its core. -/
def sPrio : State :=
  { { sRec true with time := 1000000000 } with
    slots := [(3, { slot3 2 with pri := 3 }), (4, { slot3 2 with ctx := 1 })], ctxs := [(0, ctx), (1, ctx)], blocks := [(1, { blk with ctx := 1 })], groups := [(256, g0)],
    launches := [(0, newLaunch 0 3 0 0 desc 0x10000 none [])],
    sys := { s0.sys with unfit := [(3, (0, 0))] } }
theorem witness_PreemptionEvents : ((vfOf (sSlice false) 1).sliceEnd = some 0 ∧ (sharers (sSlice false) 1).isEmpty = true ∧ (sharers (sSlice true) 1).isEmpty = false
      ∧ (sSlice true).sys.ladders = [])
    ∧ (ladderAt (sLad 1) (.ctx 0) 1 = some (lad 1 (.ctx 0)) ∧ 0 + 1000 * (vfOf (sLad 1) (targetVf (sLad 1) (.ctx 0))).drainUs ≤ (sLad 1).time)
    ∧ (ladderAt (sLad 2) (.ctx 0) 2 = some (lad 2 (.ctx 0)) ∧ 1000 * (vfOf (sLad 2) (targetVf (sLad 2) (.ctx 0))).coopClk ≤ ((sLad 2).time - 0) * targetMhz (sLad 2) (.ctx 0))
    ∧ (Tbl.get? sPrio.sys.unfit 3 = some (0, 0) ∧ offers sPrio 0 = true ∧ 0 + 1000 * (vfOf sPrio 0).preemptUs ≤ sPrio.time ∧ sPrio.sys.ladders = [] ∧ prioVictim sPrio (slotOf sPrio 3) (neededCores sPrio 0 ctx) = some 1)
    ∧ (savingLadder (sLad 3) (fun l => l.tgt == .ctx 0) = some (lad 3 (.ctx 0)) ∧ (forceSave (sLad 3) (.ctx 0) none).isSome = true) := by
  refine ⟨?_, ?_, ?_, ?_, ?_⟩ <;> decide +kernel

/-- A pass with one tile dispatch: its item at 0x10000, the descriptor at 0x10080 (R224). -/
def itemMem : SMap 8 := bytesAt (descAt pages 0x90080) 0x90000 [(0, 1, 2), (56, 8, 0x10080)]
def drawOf : Draw := { fk := desc, fkAddr := 0, vk := desc, vkAddr := 0, ib := 0, nprim := 1, ds := 0, bl := [0, 0, 0, 0] }
def commit1 : Commit := { gid := 512, lane := 0, item := 0, prim := 0, tile := 0, pix := 0, sample := 0, early := false, depth := 0, planes := [], reg := 12 }
def sPass (p : PassSt) (item : Bool) : State :=
  { sSlot with
    recs := [(0, passRec)], passes := [(0, p)], groups := [], blocks := [], ready := [], launches := [],
    mem := { sSlot.mem with loc := if item then itemMem else pages } }
def taken1 : PassSt := { passSt with taken := [.disp desc 0x10080] }
def drawn : PassSt := { passSt with taken := [.draw drawOf], done := [0] }
theorem witness_PixelEvents : ((dispSt sPix 19).cfg = some dispArgs ∧ (let s := { sPix with time := 1000000 }
      boundaryAt dispArgs (dispSt s 19).first (dispSt s 19).count ≤ s.time))
    ∧ (Tbl.get? sPix.pix.pqs 0).isSome = true
    ∧ (∀ b ∈ [true, false], let s := sPass passSt b
       passHdr s 0 = some passHd ∧ passSt.taken.length < passHd.nitem ∧ passSt.refused = false ∧ mayStart s 0 ctx = true ∧ Tbl.get? s.ctxs 0 = some ctx
         ∧ isTaken (takeItem s 0 ctx passHd (passHd.items.toNat + 64 * passSt.taken.length)) = b
         ∧ isRefuse (takeItem s 0 ctx passHd (passHd.items.toNat + 64 * passSt.taken.length)) = !b)
    ∧ (∀ p ∈ [taken1, drawn], let s := sPass p true
       0 < passHd.tx * passHd.ty ∧ p.stored.contains 0 = false ∧ (p.taken[(tilePos p 0).1]?).isSome = true ∧ passStarts s p ctx = true
         ∧ (takeTile s 0 p passHd ctx 0).isSome = true)
    ∧ (let s := { sPass drawn true with sys := { (sPass drawn true).sys with ladders := [lad 1 (.ctx 0)] } }
       passStarts s drawn ctx = false ∧ passFinishes s drawn ctx = true ∧ (passBoundary drawn passHd).isSome = true ∧ tileBusy s 0 drawn 0 = false
         ∧ (spillTile s 0 drawn passHd ctx 0).isSome = true
         ∧ (let p := { drawn with prog := [(0, (0, 0, 1))] }
            passGoes p passHd 0 = true))
    ∧ (let p := { drawn with commits := [commit1] }
       let s := sPass p true
       p.commits[0]? = some commit1 ∧ commitReady s 0 p 0 commit1 = true ∧ p.taken[commit1.item]? = some (.draw drawOf))
    ∧ (let p := { drawn with prog := [(0, (1, 0, 0))] }
       let s := sPass p true
       storeDue s 0 p passHd ctx 0 = true ∧ (takeTile s 0 p passHd ctx 0).isSome = true) := by refine ⟨?_, ?_, ?_, ?_, ?_, ?_, ?_⟩ <;> decide +kernel

theorem witness_DeviceEvents : State.reset.full = false ∧ portUp s0 1 = true
    ∧ (let x : Coll := { ctx := 0, a := { coll 0 with count := 0 } }
       x.sent = false ∧ (collWrite ctx x 0 x.a.count s0).isSome = true ∧ inFlight s0 (fun a => a.gid == collGid x.id) = false)
    ∧ (let u := (sFire.ctxs.map (·.1)).foldl endContext sFire
       (freeAll [0] u).isSome = true ∧ sFire.ctxs.map (·.1) = [0])
    ∧ (let s := modCore s0 0 fun c => { c with mashq := [mashOf (.clr 0 1)] }
       freeAll [0] (endContext s 0) = none)
    ∧ (let s := { s0 with sys := { s0.sys with migs := [(1, { peer := 3, ticket := 0, started := 0, done := none, sent := sentNone })] }, time := 1000000000 }
       (Tbl.get? s.sys.migs 1).map (·.done) = some none ∧ s.time ≤ 0 + 1000000000)
    ∧ (kindFits 14 1 = true ∧ kindFits 0 2 = true) := by refine ⟨?_, ?_, ?_, ?_, ?_, ?_, ?_⟩ <;> decide +kernel

/-! Memory, fetch, decoding. -/

/-- A page whose VF tracks dirty bits, and one whose VF does not. -/
def sDirty : State := { setVf s0 1 (fun v => { v with dirtyEn := true, dirtyA := 0x98000 }) with ctxs := [(0, { ctx with vf := 1 })] }
theorem witness_MemoryWrites_recheck : recheckOk s0 0 .loc 0x90000 4 = true ∧ recheckOk s0 1 .loc 0x90000 4 = false := by decide +kernel
theorem witness_MemoryWrites : ((acc store4 none .loc).space = .loc ∧ ((acc store4 none .loc).leaves [0, 0, 0, 0]).length = 4 ∧ ((acc fetchAdd toV9 .loc).leaves [0, 0, 0, 0]).length = 4
      ∧ (vfOf s0 0).dirtyEn = false ∧ (vfOf sDirty 1).dirtyEn = true ∧ s0.memWf = true ∧ sDirty.memWf = true)
    ∧ (Memory.wf [(8, 1), (9, 2)] = true ∧ [((8 : Nat), (1 : Byte)), (9, 2)].all (fun e => decide (8 ≤ e.1) && decide (e.1 < 8 + 2)) = true) := by
  refine ⟨?_, ?_⟩ <;> decide +kernel
/-- The state with `nop` at the PC (log 6). -/
def sNop : State := State.reset.withFetchWord 32 0x858506BF
theorem witness_StepKeepsMemoryForm : sNop.bytesWf = true ∧ (match step sNop with | .next _ => true | _ => false) = true := by decide +kernel
/-- The first halfword at the PC is translated, and no error or other world's line is in it. -/
theorem witness_StepRunsDecoded_fetch : let s := tickStep sNop
    let h := at0 s
    (match translateRaw s h.core h.cid h.c h.f.pc.toNat false true with
     | (.ok e, t) => (partsFault t h.c h.f.pc.toNat true [partOf e h.f.pc.toNat 0 2]).isNone
     | _ => false) = true := by decide +kernel
theorem witness_StepRunsDecoded : (let s := tickStep sNop
      let h := at0 s
      let r := fetchFrom h.core h.cid h.c h.f.pc.toNat 4 [] s
      sNop.agenda = [] ∧ s.here = some h ∧ h.f.micro = none ∧ (match r.1 with | .ok hs => hs == [0x06BF, 0x8585] | _ => false) = true
        ∧ decodeHalves [0x06BF, 0x8585] = .instr (.nop (gf 0x85 0x85)) 4 ∧ bursts (.vadd v12) = true ∧ kilnHeld r.2 (.vector h.core h.g.place.part) = true)
    ∧ (wholeInstr [0x06BF, 0x8585] = true ∧ wholeInstr [] = false ∧ wholeInstr [0x06BF] = false)
    ∧ (let s := sUop 9
       s.agenda = [] ∧ (tickStep s).here = some (at0 s) ∧ (at0 s).f.micro = some micro
         ∧ decodeUop (SMap.get s.wcs ((bindStart (bindOf (at0 s).c micro.xi) + micro.upc) % 4096)) = .instr (.umov (uop 0 0 14 false)) 8
         ∧ bursts (.umov (uop 0 0 14 false)) = false)
    ∧ (scheduled .deviceReset = true ∧ scheduled (.kilnStep 0) = true) := by refine ⟨?_, ?_, ?_, ?_⟩ <;> decide +kernel
theorem witness_DecodeEncode : (Instr.vadd v12).wf = true ∧ encode (.vadd v12) ≠ [] ∧ (Instr.umov (uop 0 0 14 false)).wf = true
    ∧ encodeUop (.umov (uop 0 0 14 false)) = some (uopWord 0x30 0 0 14 14) := by decide +kernel

/-! Clauses with inputs of their own. -/

/-- A tile dispatch offers its tile's point (R215). -/
theorem witness_FrontEndEvents_tiles : (let l := { newLaunch 0 3 0 0 desc 0x10080 none [] with tiled := true }
    let s := { sPass taken1 true with launches := [(0, l)] }
    tryList s 0 = [(0, l)] ∧ ((tileOffers s 0 l ctx).filter fun t => (tileFit s l ctx t).isSome) = [0]) := by decide +kernel
/-- What a block is of when it is over. -/
theorem witness_FrontEndEvents_blocks : (let s := fun (o : BlockOf) => modBlock sEmptied 1 fun b => { b with of := o }
    ∀ o ∈ [BlockOf.handler, .pass 0 0 0], ((Tbl.get? (s o).blocks 1).map fun b => (b.saved, b.of)) = some (false, o) ∧ groupsOf (s o) 1 = []
      ∧ blockDue (s o) 1 = false) := by decide +kernel
/-- A tile address read from a fragment (R115, R212). -/
theorem witness_PixelInstructions_fragment : readsFragment (some { px with af := true }) = true
    ∧ FragReady sMash hMash (fragOf (some { px with af := true })).1 := by refine ⟨?_, ?_⟩ <;> decide +kernel
/-- The centre of a pixel on the left edge of one triangle and the right edge of the other, and inside; a row edge above and below (R206). -/
theorem witness_SampleCoverage : (let a : Pt := (0, 8)
      let b : Pt := (0, 0)
      let c : Pt := (8, 8)
      let d : Pt := (-8, 8)
      let p : Pt := (0, 4)
      edgeFn a b c = 64 ∧ edgeFn a b d = -64 ∧ edgeFn a b p = 0 ∧ 0 < edgeFn b c p ∧ 0 < edgeFn c a p ∧ edgeFn b d p < 0 ∧ edgeFn d a p < 0
        ∧ insideTri (a, b, c) p = true ∧ insideTri (a, b, d) p = false ∧ insideTri (a, c, b) p = true ∧ insideTri (a, b, c) (1, 4) = true
        ∧ insideTri (a, b, c) (-1, 4) = false)
    ∧ (insideTri ((0, 0), (8, 0), (0, 8)) (2, 0) = true ∧ insideTri ((0, 0), (8, 0), (0, -8)) (2, 0) = false) := by refine ⟨?_, ?_⟩ <;> decide +kernel

end Sys2Proof.Tests
end

section
namespace Sys2Proof.Machine

/-- Reduced service fences what reaches beyond stack 0; no frame is owned (R19, R270). -/
theorem potEntry_reset_state (p : Nat) :
    (potEntry State.reset p).state = if Config.stack0Bytes < (p + 1) * 32768 then 3 else 0 := by
  have hpot : Tbl.get? State.reset.tables.pot p = none := rfl
  have hfull : State.reset.full = false := rfl
  by_cases hp : Config.stack0Bytes < (p + 1) * 32768 <;> simp [potEntry, hpot, hfull, hp]

/-- No unit of the control store is assigned (R321). -/
theorem unitVf_reset (addr : Nat) : unitVf State.reset addr = none := by
  have hunits : SMap.get State.reset.wcsUnits (addr / 256) = 0 := rfl
  simp [unitVf, hunits]

/-- Settles O59: every table of the reset state is empty, so each lookup answers its reset record. -/
theorem resetState : Obligations.ResetState := by
  unfold Obligations.ResetState
  refine ⟨rfl, rfl, rfl, rfl, rfl, rfl, rfl, ?slots, ?depc, ?wcs, ?pot, ?boxes, ?clusters, ?gens, ?vfs, rfl, fun _ => rfl⟩
  case slots => exact fun _ => ⟨rfl, rfl⟩
  case depc => exact fun _ => ⟨rfl, rfl⟩
  case wcs => exact fun n => ⟨rfl, unitVf_reset n⟩
  case pot => exact potEntry_reset_state
  case boxes => exact fun _ => ⟨rfl, rfl, rfl⟩
  case clusters => exact fun _ => ⟨rfl, rfl, rfl⟩
  case gens => exact fun _ => rfl
  case vfs => exact fun _ _ => rfl

end Sys2Proof.Machine
end

section
namespace Sys2Proof.Machine

/-! ## Commands of a mailbox (R386 to R390) -/

/-- A chain of refusals of which none applies comes to the effect (R389). -/
theorem refuseOr_pass {l : List (Bool × Nat)} {k : CmdRes} (hl : ∀ e ∈ l, e.1 = false) : refuseOr l k = k := by
  induction l with
  | nil => rfl
  | cons e r ih =>
    obtain ⟨hit, res⟩ := e
    obtain rfl : hit = false := hl _ List.mem_cons_self
    exact ih fun e he => hl e (List.mem_cons_of_mem _ he)

/-- What a command comes to, once its mailbox is ready and its issuer may issue it. -/
theorem command_ready {s : State} {h : MbHdr} {issuer : Bool} {k : State → CmdRes} (hb : BoxReady s h) (hi : issuer = true) :
    command h false issuer k s = .next (match k (s.busyFor h) with
      | .done t a => finishBox t h.fn 0 a
      | .refuse r => finishBox (s.busyFor h) h.fn r []
      | .tell r a => finishBox (s.busyFor h) h.fn r a
      | .failed t r => finishBox t h.fn r []
      | .pend t => t
      | .wait => s
      | .again t => modBox t h.fn fun _ => boxOf s h.fn) := by
  obtain ⟨hfn, hport, hheld, hbusy, hact⟩ := hb
  subst hi
  simp only [command, hfn, hport, hheld, hbusy, hact, State.busyFor]
  simp <;> rfl

section Results
variable {s t : State} {h : MbHdr} {issuer : Bool} {k : State → CmdRes}

/-- A command with its effect done ends with result 0. -/
theorem command_done {a : List W64} (hb : BoxReady s h) (hi : issuer = true) (hk : k (s.busyFor h) = .done t a) :
    command h false issuer k s = ends h 0 t a := by rw [command_ready hb hi, hk]; rfl

/-- A refused command ends with its result and changes nothing else. -/
theorem command_refuse {r : Nat} (hb : BoxReady s h) (hi : issuer = true) (hk : k (s.busyFor h) = .refuse r) :
    command h false issuer k s = ends h r (s.busyFor h) [] := by rw [command_ready hb hi, hk]; rfl

/-- A command that something else ends stays BUSY. -/
theorem command_pend (hb : BoxReady s h) (hi : issuer = true) (hk : k (s.busyFor h) = .pend t) :
    command h false issuer k s = .next t := by rw [command_ready hb hi, hk]

/-- A command that waits changes nothing. -/
theorem command_wait (hb : BoxReady s h) (hi : issuer = true) (hk : k (s.busyFor h) = .wait) :
    command h false issuer k s = .next s := by rw [command_ready hb hi, hk]

/-- A command that waits with a part of its effect done leaves its mailbox as it was. -/
theorem command_again (hb : BoxReady s h) (hi : issuer = true) (hk : k (s.busyFor h) = .again t) :
    command h false issuer k s = .next (modBox t h.fn fun _ => boxOf s h.fn) := by rw [command_ready hb hi, hk]

/-- A command of a function that may not issue it ends with result 2 (R388). -/
theorem command_notIssuer (hb : BoxReady s h) (hi : issuer = false) : command h false issuer k s = ends h 2 (s.busyFor h) [] := by
  obtain ⟨hfn, hport, hheld, hbusy, hact⟩ := hb
  subst hi
  simp [command, hfn, hport, hheld, hbusy, hact, State.busyFor, ends]

end Results

/-! What a mailbox that turns busy leaves as it was. -/

@[simp] theorem busyFor_full (s : State) (h : MbHdr) : (s.busyFor h).full = s.full := rfl
@[simp] theorem busyFor_ctxs (s : State) (h : MbHdr) : (s.busyFor h).ctxs = s.ctxs := rfl
@[simp] theorem busyFor_depcVf (s : State) (h : MbHdr) : (s.busyFor h).depcVf = s.depcVf := rfl
@[simp] theorem vfOf_busyFor (s : State) (h : MbHdr) (vf : Nat) : vfOf (s.busyFor h) vf = vfOf s vf := rfl
@[simp] theorem slotOf_busyFor (s : State) (h : MbHdr) (n : Nat) : slotOf (s.busyFor h) n = slotOf s n := rfl
@[simp] theorem recsOf_busyFor (s : State) (h : MbHdr) (n : Nat) : recsOf (s.busyFor h) n = recsOf s n := rfl
@[simp] theorem slotsHeldBy_busyFor (s : State) (h : MbHdr) (vf : Nat) : slotsHeldBy (s.busyFor h) vf = slotsHeldBy s vf := rfl
@[simp] theorem depcHeldBy_busyFor (s : State) (h : MbHdr) (vf : Nat) : depcHeldBy (s.busyFor h) vf = depcHeldBy s vf := rfl
@[simp] theorem ctxFits_busyFor (s : State) (h : MbHdr) (q : CtxArgs) : ctxFits (s.busyFor h) q = ctxFits s q := rfl
@[simp] theorem worldOfVf_busyFor (s : State) (h : MbHdr) (vf w : Nat) : worldOfVf (s.busyFor h) vf w = worldOfVf s vf w := rfl
@[simp] theorem worldSealed_busyFor (s : State) (h : MbHdr) (w : Nat) : worldSealed (s.busyFor h) w = worldSealed s w := rfl
@[simp] theorem freeCtx_busyFor (s : State) (h : MbHdr) : freeCtx (s.busyFor h) = freeCtx s := rfl
@[simp] theorem underLadder_busyFor (s : State) (h : MbHdr) (cid : Nat) (c : Ctx) (p : Ladder → Bool) :
    underLadder (s.busyFor h) cid c p = underLadder s cid c p := rfl
@[simp] theorem targetThere_busyFor (s : State) (h : MbHdr) (tgt : Target) : targetThere (s.busyFor h) tgt = targetThere s tgt := rfl
@[simp] theorem dispSt_busyFor (s : State) (h : MbHdr) (d : Nat) : dispSt (s.busyFor h) d = dispSt s d := rfl
@[simp] theorem waitsOnWake_busyFor (s : State) (h : MbHdr) (n : Nat) : waitsOnWake (s.busyFor h) n = waitsOnWake s n := rfl

/-- The PF may name any context, a VF its own (R388). -/
theorem ownCtx_of {s : State} {fn cid : Nat} {c : Ctx} (hc : Tbl.get? s.ctxs cid = some c) (ho : fn = 0 ∨ c.vf = fn) :
    ownCtx s fn cid = true := by
  rcases ho with rfl | ho <;> simp [ownCtx, *]

/-- The PF may name any slot, a VF its own and a free one. -/
theorem ownSlot_of {s : State} {fn n : Nat} (ho : fn = 0 ∨ (slotOf s n).st = 0 ∨ (slotOf s n).vf = fn) : ownSlot s fn n = true := by
  rcases ho with rfl | ho | ho <;> simp [ownSlot, *]

/-- A command on a context that exists has its effect on it. -/
theorem withCtx_of {s : State} {cid : Nat} {c : Ctx} (k : Ctx → CmdRes) (hc : Tbl.get? s.ctxs cid = some c) : withCtx s cid k = k c := by
  simp [withCtx, hc]

/-! ## Commands on VFs, slots, counters and contexts -/

section Commands
variable {s : State} {h : MbHdr}

theorem execVfEnable_done {n : Nat} (hb : BoxReady s h) (hfn : h.fn = 0) (hfull : s.full = true) (h1 : 1 ≤ n) (h16 : n ≤ 16) :
    execVfEnable h n s = ends h 0 (shareCores (enableVfs (s.busyFor h) n) 0) [] :=
  command_done hb (by simp [hfn]) (refuseOr_pass (by simp [hfull]; omega))

theorem execVfQuota_done {q : VfQuotaArgs} (hb : BoxReady s h) (hfn : h.fn = 0) (hq : quotaFits q = true) :
    let t := setVf (s.busyFor h) q.vf fun v => { v with qs := q.qs, qd := q.qd, cores := q.cores, sliceNs := 1000 * q.sliceUs,
                                                        drainUs := q.drainUs, coopClk := q.coopClk, preemptUs := q.preemptUs }
    execVfQuota h q s = ends h 0 (shareCores (resizeCtxs (vfCtxs t q.vf) t) q.vf) [] :=
  command_done hb (by simp [hfn]) (refuseOr_pass (by simp [hq]))

theorem execSlotAssign_done {q : SlotArgs} {c : Ctx} (hb : BoxReady s h) (hc : Tbl.get? s.ctxs q.ctx = some c) (ho : h.fn = 0 ∨ c.vf = h.fn)
    (hslot : q.slot ≤ 1023) (hrb : q.rbase.toNat % 4096 = 0) (h4 : 4 ≤ q.log2n) (h15 : q.log2n ≤ 15) (hpri : q.pri ≤ 3)
    (hst : (slotOf s q.slot).st = 0) (hqs : c.vf = 0 ∨ slotsHeldBy s c.vf < (vfOf s c.vf).qs) :
    execSlotAssign h q s = ends h 0 (modSlot (s.busyFor h) q.slot fun _ =>
      { rbase := q.rbase, tail := 0, head := 0, log2n := q.log2n, pri := q.pri, vf := c.vf, ctx := q.ctx, err := 0, st := 1, wake := 0,
        last := none }) [] := by
  refine command_done hb (by simp [ownCtx_of hc ho, ownSlot_of (.inr (.inl hst))]) ?_
  simp only [busyFor_ctxs, hc]
  refine refuseOr_pass ?_
  rcases hqs with hpf | hqs
  · simp [hst, hpf]; omega
  · simp [hst, Nat.not_le.2 hqs]; omega

theorem execSlotRestart_done {n : Nat} (hb : BoxReady s h) (ho : h.fn = 0 ∨ (slotOf s n).vf = h.fn) (hn : n ≤ 1023)
    (hst : (slotOf s n).st = 3) :
    execSlotRestart h n s = ends h 0 (checkWake (retakeItems (modSlot (s.busyFor h) n fun q =>
      { q with st := if waitsOnWake s n then 2 else 1, err := 0 }) n) n) [] :=
  command_done hb (ownSlot_of (ho.imp_right .inr)) (refuseOr_pass (by simp [hst, hn]))

theorem execSlotFree_done {n : Nat} (hb : BoxReady s h) (ho : h.fn = 0 ∨ (slotOf s n).vf = h.fn) (hn : n ≤ 1023) (hrecs : recsOf s n = []) :
    execSlotFree h n s = ends h 0 (modSlot (s.busyFor h) n fun q => { QSlot.reset with wake := q.wake }) [] :=
  command_done hb (ownSlot_of (ho.imp_right .inr)) (refuseOr_pass (by simp [hrecs, hn]))

theorem execDepcAssign_done {n vf : Nat} (hb : BoxReady s h) (hfn : h.fn = 0) (hn : n ≤ 4095) (hvf : vf ≤ 16)
    (hfree : SMap.get s.depcVf n = 0) (hqd : vf = 0 ∨ depcHeldBy s vf < (vfOf s vf).qd) :
    execDepcAssign h n vf s =
      ends h 0 { s.busyFor h with depcVf := SMap.set (s.busyFor h).depcVf n (BitVec.ofNat 16 (vf + 1)) } [] := by
  refine command_done hb (by simp [hfn]) (refuseOr_pass ?_)
  rcases hqd with rfl | hqd
  · simp [hfree, hn]
  · simp [hfree, hn, Nat.not_lt.2 hvf, Nat.not_le.2 hqd]

theorem execDepcReset_done {n : Nat} (hb : BoxReady s h) (ho : h.fn = 0 ∨ (SMap.get s.depcVf n).toNat = h.fn + 1) (hn : n ≤ 4095) :
    execDepcReset h n s = ends h 0 { s.busyFor h with depc := SMap.set (s.busyFor h).depc n 0 } [] :=
  command_done hb (by rcases ho with ho | ho <;> simp [ho]) (refuseOr_pass (by simp [hn]))

/-! CTX_CREATE (R388, R393). -/

/-- A function makes contexts of its own, whose OID no other VF has; the PF any. -/
theorem ctxCreate_issuer {q : CtxArgs} (ho : h.fn = 0 ∨ (h.fn = q.vf ∧ oidElsewhere s h.fn q.oid = false)) :
    ((h.fn == 0 || h.fn == q.vf) && (h.fn == 0 || !oidElsewhere s h.fn q.oid)) = true := by
  rcases ho with ho | ⟨hvf, hoid⟩
  · simp [ho]
  · simp [hoid, ← hvf]

theorem execCtxCreate_sealed {q : CtxArgs} (hb : BoxReady s h) (ho : h.fn = 0 ∨ (h.fn = q.vf ∧ oidElsewhere s h.fn q.oid = false))
    (hfit : ctxFits s q = true) (hw : worldOfVf s q.vf q.world = true) (hseal : worldSealed s q.world = true) :
    execCtxCreate h q s = ends h 3 (s.busyFor h) [] :=
  command_refuse hb (ctxCreate_issuer ho) (by simp [refuseOr, hfit, hw, hseal])

/-- The refusals of CTX_CREATE, passed. -/
theorem ctxCreate_pass {q : CtxArgs} (k : CmdRes) (hfit : ctxFits s q = true) (hw : worldOfVf s q.vf q.world = true)
    (hseal : worldSealed s q.world = false) (hfree : freeCtx s ≤ 4095) : let b := s.busyFor h
    refuseOr [(!ctxFits b q, 1), (!worldOfVf b q.vf q.world, 1), (worldSealed b q.world, 3), (4095 < freeCtx b, 4)] k = k :=
  refuseOr_pass (by simp [hfit, hw, hseal, Nat.not_lt.2 hfree])

theorem execCtxCreate_done {q : CtxArgs} {t : State} (hb : BoxReady s h)
    (ho : h.fn = 0 ∨ (h.fn = q.vf ∧ oidElsewhere s h.fn q.oid = false)) (hfit : ctxFits s q = true)
    (hw : worldOfVf s q.vf q.world = true) (hseal : worldSealed s q.world = false) (hfree : freeCtx s ≤ 4095)
    (ht : clearFrames (s.busyFor h) (saveFrames (s.busyFor h) (newCtx q)) = some t) :
    execCtxCreate h q s = ends h 0 (putNewCtx t q) [BitVec.ofNat 64 (freeCtx s)] :=
  command_done hb (ctxCreate_issuer ho) ((ctxCreate_pass _ hfit hw hseal hfree).trans (by rw [ht]; rfl))

theorem execCtxCreate_wait {q : CtxArgs} (hb : BoxReady s h) (ho : h.fn = 0 ∨ (h.fn = q.vf ∧ oidElsewhere s h.fn q.oid = false))
    (hfit : ctxFits s q = true) (hw : worldOfVf s q.vf q.world = true) (hseal : worldSealed s q.world = false) (hfree : freeCtx s ≤ 4095)
    (ht : clearFrames (s.busyFor h) (saveFrames (s.busyFor h) (newCtx q)) = none) : execCtxCreate h q s = .next s :=
  command_wait hb (ctxCreate_issuer ho) ((ctxCreate_pass _ hfit hw hseal hfree).trans (by rw [ht]))

theorem execCtxCreate_foreignOid {q : CtxArgs} (hb : BoxReady s h) (hfn : h.fn ≠ 0) (hoid : oidElsewhere s h.fn q.oid = true) :
    execCtxCreate h q s = ends h 2 (s.busyFor h) [] :=
  command_notIssuer hb (by simp [hfn, hoid])

/-! Commands on a context that there is. -/

section Existing
variable {n : Nat} {c : Ctx} (hb : BoxReady s h) (hc : Tbl.get? s.ctxs n = some c) (ho : h.fn = 0 ∨ c.vf = h.fn)
include hb hc ho

theorem execCtxDestroy_done {t : State} (ht : freeEnded (endContext (s.busyFor h) n) n = some t) :
    execCtxDestroy h n s = ends h 0 t [] :=
  command_done hb (ownCtx_of hc ho) ((withCtx_of _ hc).trans (by simp only [ht]))

theorem execCtxDestroy_again (ht : freeEnded (endContext (s.busyFor h) n) n = none) :
    execCtxDestroy h n s = .next (modBox (endContext (s.busyFor h) n) h.fn fun _ => boxOf s h.fn) :=
  command_again hb (ownCtx_of hc ho) ((withCtx_of _ hc).trans (by simp only [ht]))

theorem execCtxSwitch_out (hcur : c.current = true) (hlad : underLadder s n c (fun _ => true) = false) :
    execCtxSwitch h n 1 s = .next (startLadder (s.busyFor h) (.ctx n) none (.switch h.fn)) :=
  command_pend hb (ownCtx_of hc ho) ((withCtx_of _ hc).trans (refuseOr_pass (by simp [hcur, hlad])))

theorem execCtxSwitch_in : execCtxSwitch h n 2 s = ends h 0 (modCtx (s.busyFor h) n fun c => { c with current := true }) [] :=
  command_done hb (ownCtx_of hc ho) ((withCtx_of _ hc).trans (refuseOr_pass (by simp)))

theorem execCtxStat_done : execCtxStat h n s = ends h 0 (s.busyFor h)
    ([c.counts.dropc, c.counts.job] ++ if h.fn = 0 then (List.range 20).map fun d => (dispSt s d).dropd else []) :=
  command_done hb (ownCtx_of hc ho) (by simp [hc, statAnswer])

theorem execCtxRoot_done {tbase : W64} (hal : tbase.toNat % 4096 = 0) : execCtxRoot h n tbase s = ends h 0
    (modCtx (dropTlb (settle (s.busyFor h) fun a => a.ctx == n) fun e => e.ctx == n) n fun c => { c with tbase := tbase }) [] :=
  command_done hb (ownCtx_of hc ho) ((withCtx_of _ hc).trans (refuseOr_pass (by simp [hal])))

theorem execCtxResume_done (hheld : c.held = true) (hw : c.world = 0) :
    execCtxResume h n s = ends h 0 (modCtx (s.busyFor h) n fun c => { c with held := false }) [] :=
  command_done hb (ownCtx_of hc ho) ((withCtx_of _ hc).trans (refuseOr_pass (by simp [hheld, hw])))

theorem execEvqRead_done : execEvqRead h n s =
    ends h 0 (modCtx (s.busyFor h) n fun c => { c with queues := { c.queues with evq := c.queues.evq.drop 6, lost := 0 } })
      ((c.queues.evq.take 6).flatMap EvRec.words ++ [BitVec.ofNat 64 c.queues.lost.toNat]) :=
  command_done hb (ownCtx_of hc ho) (withCtx_of _ hc)

end Existing

theorem execPreempt_done {tgt : Target} (hb : BoxReady s h) (hfn : h.fn = 0) :
    let r := match tgt with | .vf n => rollback (s.busyFor h) n | .ctx _ => s.busyFor h
    targetThere s tgt = true → r.sys.ladders.any (fun l => l.tgt == tgt) = false →
      execPreempt h tgt s = ends h 0 (startLadder r tgt none .none) [] := by
  intro r ht hlad
  refine command_done hb (by simp [hfn]) (refuseOr_pass fun e he => ?_)
  simp only [List.mem_cons, List.not_mem_nil, or_false] at he
  rcases he with rfl | rfl
  · simp [ht]
  · exact hlad

end Commands

/-- Settles O44: each clause is the lemma on its command; all of them go through what `command` comes to in a ready mailbox. -/
theorem contextCommands : Obligations.ContextCommands := by
  unfold Obligations.ContextCommands
  intro s h hb
  refine ⟨?vfEnable, ?vfQuota, ?slotAssign, ?slotRestart, ?slotFree, ?depcAssign, ?depcReset, ?ctxCreate, ?foreignOid, ?existing, ?preempt⟩
  case vfEnable => exact fun n hfn hfull h1 h16 => execVfEnable_done hb hfn hfull h1 h16
  case vfQuota => exact fun q hfn hq => execVfQuota_done hb hfn hq
  case slotAssign => exact fun q c hc ho hslot hrb h4 h15 hpri hst hqs => execSlotAssign_done hb hc ho hslot hrb h4 h15 hpri hst hqs
  case slotRestart => exact fun n ho hn hst => execSlotRestart_done hb ho hn hst
  case slotFree => exact fun n ho hn _ hrecs => execSlotFree_done hb ho hn hrecs
  case depcAssign => exact fun n vf hfn hn hvf hfree hqd => execDepcAssign_done hb hfn hn hvf hfree hqd
  case depcReset => exact fun n ho hn _ => execDepcReset_done hb ho hn
  case ctxCreate =>
    intro q ho hfit hw
    exact ⟨execCtxCreate_sealed hb ho hfit hw, fun hseal hfree =>
      ⟨fun t => execCtxCreate_done hb ho hfit hw hseal hfree, execCtxCreate_wait hb ho hfit hw hseal hfree⟩⟩
  case foreignOid => exact fun q hfn hoid => execCtxCreate_foreignOid hb hfn hoid
  case existing =>
    intro n c hc ho
    exact ⟨⟨fun t => execCtxDestroy_done hb hc ho, execCtxDestroy_again hb hc ho⟩, execCtxSwitch_out hb hc ho, execCtxSwitch_in hb hc ho,
      execCtxStat_done hb hc ho, fun tbase => execCtxRoot_done hb hc ho, execCtxResume_done hb hc ho, execEvqRead_done hb hc ho⟩
  case preempt => exact fun tgt hfn => execPreempt_done hb hfn

end Sys2Proof.Machine
end

section
namespace Sys2Proof.Machine

/-! ## Events of the device (R19, R383 to R396) -/

section DeviceEventRules
variable {s : State}

/-! The configuration record (R19, R391). -/

/-- The record in boot flash has its magic and reserved fields, and its signature holds (R391). -/
def FlashVerifies : Prop :=
  recordFits flashRecord = true ∧ Config.signedBy (flashRecord.drop 128) (flashRecord.take 128) = true

/-- `execConfigRecordVerify` refuses the record where it does not verify. -/
theorem flashRefused_iff :
    (!recordFits flashRecord || !Config.signedBy (flashRecord.drop 128) (flashRecord.take 128)) = true ↔ ¬FlashVerifies := by
  rw [FlashVerifies, Classical.not_and_iff_not_or_not, Bool.or_eq_true, Bool.not_eq_true', Bool.not_eq_true', Bool.not_eq_true, Bool.not_eq_true]

theorem execConfigRecordVerify_ends {t : State} (hfull : s.full = false) (hv : FlashVerifies) (l : List Nat) (hl : l = s.ctxs.map (·.1))
    (ht : freeAll l (l.foldl endContext s) = some t) : execConfigRecordVerify s = .next { t with
      full := true, sys := { t.sys with cfg := some flashRecord, ended := (l.foldl endContext s).ctxs.map fun e => (e.1, e.2.counts.job) } } := by
  subst hl
  simp only [execConfigRecordVerify, hfull, flashRefused_iff, hv, ht]
  simp

theorem execConfigRecordVerify_waits (hfull : s.full = false) (hv : FlashVerifies) (l : List Nat) (hl : l = s.ctxs.map (·.1))
    (ht : freeAll l (l.foldl endContext s) = none) : execConfigRecordVerify s = .next (l.foldl endContext s) := by
  subst hl
  simp only [execConfigRecordVerify, hfull, flashRefused_iff, hv, ht]
  simp

theorem execConfigRecordVerify_refused (hfull : s.full = false) (hv : ¬FlashVerifies) :
    execConfigRecordVerify s = .next (tellUnverified s) := by
  simp only [execConfigRecordVerify, hfull, flashRefused_iff, hv]
  simp

/-! Ports (R393). -/

theorem execLinkDown_up {port : Nat} (hup : portUp s port = true) : execLinkDown port s = .next (linkDown s port) := by
  simp [execLinkDown, hup]

theorem execHotReset_up {port : Nat} (hup : portUp s port = true) : execHotReset port s = .next (hotReset s) := by
  simp [execHotReset, hup]

/-! Collectives (R395). -/

section Collective
variable {k : Nat} {x : Coll} {c : Ctx} (hx : s.sys.colls[k]? = some x) (hc : Tbl.get? s.ctxs x.ctx = some c)
include hx hc

theorem execCollRetire_sent (hsent : x.sent = true) : execCollRetire k s = .next (collPass s k x) := by
  simp [execCollRetire, hx, hc, hsent]

theorem execCollRetire_writes {t : State} (hsent : x.sent = false) (ht : collWrite c x 0 x.a.count s = some t) :
    execCollRetire k s =
      .next (collPass { t with sys := { t.sys with colls := modifyAt t.sys.colls k fun x => { x with sent := true } } } k x) := by
  simp [execCollRetire, hx, hc, hsent, ht]

end Collective

/-! Migration (R396). -/

section Migration
variable {vf : Nat} {m : Mig} (hm : Tbl.get? s.sys.migs vf = some m) (hdone : m.done = none)
include hm hdone

theorem execMigCompletion_ok (htime : s.time ≤ m.started + 1000000000) :
    execMigCompletion vf true s = .next (setMig s vf { m with done := some true }) := by
  simp [execMigCompletion, hm, hdone, htime]

theorem execMigCompletion_failed : execMigCompletion vf false s = .next (dropMig s vf) := by
  simp [execMigCompletion, hm, hdone]

end Migration

/-! Errors of arrays (R383, R384). -/

/-- A detected error, logged and acted on. -/
def errTaken (s : State) (q : ErrArgs) : State :=
  errAct (logErr (injected s q).2 q.array (errEntry (injected s q).2 q (injected s q).1)) q

theorem execSoftErrorDetect_noSave {q : ErrArgs} (hkind : kindFits q.array q.kind = true) (hcore : q.core < 48)
    (hq : q.ctx = none ∨ q.kind ≠ 1) : execSoftErrorDetect q s = .next (errTaken s q) := by
  rcases hq with hctx | hk
  · simp [execSoftErrorDetect, hkind, Nat.not_le.2 hcore, hctx, errTaken]
  · cases hctx : q.ctx <;> simp [execSoftErrorDetect, hkind, Nat.not_le.2 hcore, hctx, hk, errTaken]

/-- An uncorrectable error ends the forced save of the context that it meets (R239). -/
theorem execSoftErrorDetect_save {q : ErrArgs} {c : Nat} (hkind : kindFits q.array q.kind = true) (hcore : q.core < 48)
    (hctx : q.ctx = some c) (hk : q.kind = 1) : execSoftErrorDetect q s = .next (saveFault (errTaken s q) c) := by
  rw [hk] at hkind
  simp [execSoftErrorDetect, hkind, Nat.not_le.2 hcore, hctx, hk, errTaken]

end DeviceEventRules

/-- Settles O53: each event's rule above, at its instruction. -/
theorem deviceEvents : Obligations.DeviceEvents := by
  unfold Obligations.DeviceEvents
  intro s
  refine ⟨rfl, ?record, ?ports, fun _ => rfl, ?collective, ?migration, ?errors⟩
  case record =>
    exact fun hfull => ⟨fun hv => ⟨fun _ ht => execConfigRecordVerify_ends hfull hv _ rfl ht,
      fun ht => execConfigRecordVerify_waits hfull hv _ rfl ht⟩, fun hv => execConfigRecordVerify_refused hfull hv⟩
  case ports => exact fun _ hup => ⟨execLinkDown_up hup, execHotReset_up hup⟩
  case collective => exact fun _ _ _ hx hc => ⟨execCollRetire_sent hx hc, fun _ => execCollRetire_writes hx hc⟩
  case migration => exact fun _ _ hm hdone => ⟨execMigCompletion_ok hm hdone, execMigCompletion_failed hm hdone⟩
  case errors =>
    exact fun _ hkind hcore => ⟨execSoftErrorDetect_noSave hkind hcore, fun _ => execSoftErrorDetect_save hkind hcore⟩

end Sys2Proof.Machine
end

section
namespace Sys2Proof.Machine

/-! ## Events in front of the cores -/

/-- A position inside a list holds one of its records. -/
theorem nth_mem {α : Type} {l : List α} {i : Nat} (d : α) (hi : i < l.length) : nth l i d ∈ l := by
  induction l generalizing i with
  | nil => cases hi
  | cons x r ih =>
    cases i with
    | zero => exact List.mem_cons_self
    | succ i => exact List.mem_cons_of_mem _ (ih (Nat.lt_of_succ_lt_succ hi))

section FrontEndRules
variable {s : State}

/-! Doorbells and records (R219 to R226). -/

/-- A doorbell of a slot in use sets TAIL, and stops the slot where more is rung than the ring holds. -/
theorem execQueueDoorbell_used {n tail : Nat} (hst : (slotOf s n).st ≠ 0) :
    let t := modSlot s n fun q => { q with tail := BitVec.ofNat 16 tail }
    execQueueDoorbell n tail s = .next (if 2 ^ (slotOf t n).log2n < (slotOf t n).avail then refuseSlot t n 9 else t) := by
  simp [execQueueDoorbell, hst]

section Taking
variable {n : Nat} {c : Ctx} (hc : Tbl.get? s.ctxs (slotOf s n).ctx = some c) (hst : (slotOf s n).st = 1) (hstop : c.stopped = false)
  (hheld : c.held = false) (hav : (slotOf s n).avail ≠ 0) (hbegun : (recsOf s n).any (fun e => !e.2.begun) = false)
  (hneed : headNeed s (slotOf s n) c ≤ (slotOf s n).avail)
include hc hst hstop hheld hav hbegun hneed

/-! The front-end looks at HEAD of a running slot that has a whole record rung and holds none that is not begun (R226). -/

theorem execRecordTake_ok {r : Rec} {k : Nat} (hok : takeRecord s n (slotOf s n) (slotOf s n).ctx c = .ok (r, k)) :
    let t := touchReads s (slotOf s n).ctx c (r.reads (slotOf s n) k)
    execRecordTake n s = .next { modSlot t n (fun q => { q with head := q.head + BitVec.ofNat 16 k }) with
      recs := Tbl.set t.recs t.nextRec r, nextRec := t.nextRec + 1 } := by
  simp only [execRecordTake, recordTake, hc, hst, hstop, hheld, hbegun, Nat.not_lt.2 hneed, hok]
  simp [hav]

theorem execRecordTake_refuse {e : Nat} (href : takeRecord s n (slotOf s n) (slotOf s n).ctx c = .refuse e) :
    execRecordTake n s = .next (refuseSlot (touchReads s (slotOf s n).ctx c
      [((slotOf s n).rbase.toNat + 128 * ((slotOf s n).head.toNat % 2 ^ (slotOf s n).log2n), 128)]) n e) := by
  simp only [execRecordTake, recordTake, hc, hst, hstop, hheld, hbegun, Nat.not_lt.2 hneed, href]
  simp [hav]

end Taking

theorem execRecordBegin_may {n rid : Nat} {r : Rec} {c : Ctx} (hr : (recsOf s n).find? (fun e => !e.2.begun) = some (rid, r))
    (hc : Tbl.get? s.ctxs (slotOf s n).ctx = some c) (hmay : mayBegin s n r = true) :
    execRecordBegin n s = .next (beginBody s n rid (slotOf s n).ctx c r) := by
  simp [execRecordBegin, recordBegin, hr, hc, hmay]

/-! Firing (R13, R215, R233). -/

section Firing
variable {n lid : Nat} {l : Launch} {rest : List (Nat × Launch)} {c : Ctx} (hn : n < 12) (htry : tryList s n = (lid, l) :: rest)
  (hc : Tbl.get? s.ctxs l.ctx = some c)
include hn htry hc

theorem execPointFire_point {rank : Nat} {t u : State} {cores : List Nat} {ps : List (List Nat)} (htiled : l.tiled = false)
    (hnext : nextPoint s l = some (rank, t)) (hentry : entryOk s l = true)
    (hfit : bestCores s c n (launchCores s c l) l.desc.kr.foot = some (cores, ps)) (hready : readyPoint t lid l rank = some u) :
    execPointFire n s = .next (fireAt u n lid l c rank cores ps) := by
  simp [execPointFire, fireFrom, hn, htry, hc, htiled, hnext, hentry, hfit, hready]

/-- A tile dispatch fires on a tile that fits, taken by a free number (R215). -/
theorem execPointFire_tile {fits : List Nat} (htiled : l.tiled = true)
    (hfits : (tileOffers s n l c).filter (fun t => (tileFit s l c t).isSome) = fits) (hne : fits ≠ []) :
    ∃ t core ps, t ∈ fits ∧ tileFit s l c t = some (core, ps) ∧
      execPointFire n s = .next (fireTile { s with freeCtr := s.freeCtr + 1 } n lid l c t core ps) := by
  have hmem : nth fits ((freshNat s).1 % fits.length) 0 ∈ fits := nth_mem 0 (Nat.mod_lt _ (List.length_pos_iff.2 hne))
  have hsome : (tileFit s l c (nth fits ((freshNat s).1 % fits.length) 0)).isSome = true := by
    rw [← hfits] at hmem ⊢
    exact (List.mem_filter.1 hmem).2
  obtain ⟨⟨core, ps⟩, hfit⟩ := Option.isSome_iff_exists.1 hsome
  refine ⟨_, core, ps, hmem, hfit, ?_⟩
  have hemp : fits.isEmpty = false := by simpa using hne
  simp only [execPointFire, fireFrom, hn, htry, hc, htiled, hfits, hemp, hfit, if_true, if_false, Bool.false_eq_true]
  rfl

end Firing

/-! Placing (R235, R238). -/

theorem execBlockRestorePlace_some {n : Nat} {b : Block} {c : Ctx} {t : State} (hb : Tbl.get? s.blocks n = some b)
    (hc : Tbl.get? s.ctxs b.ctx = some c) (hsaved : b.saved = true) (hmay : mayStart s b.ctx c = true)
    (ht : restoreBlock s n b c = some t) : execBlockRestorePlace n s = .next t := by
  simp [execBlockRestorePlace, hb, hc, hsaved, hmay, ht]

theorem execActiveSlotEntry_first {gid : Nat} {g : Group} {k : Nat} (hg : Tbl.get? s.groups gid = some g)
    (hk : freeActive s g.place.core g.place.part = some k) (hready : slotReady s (gid, g) = true)
    (hfirst : (residents s g.place.core).all
      (fun e => !(e.2.place.part == g.place.part && slotReady s e) || entersFirst (gid, g) e) = true) :
    let g' := { g with place := { g.place with slot := some k }, regs := { g.regs with ring := [] } }
    execActiveSlotEntry gid s = .next { modGroup s gid (fun _ => switchPoint g' none) with ready := s.ready ++ [gid] } := by
  simp only [execActiveSlotEntry, activeSlotEntry, hg, hk, hready, hfirst]
  simp

/-! Ends of blocks and launches (R11, R89, R173, R249). -/

section Blocks
variable {n : Nat} {b : Block} (hb : Tbl.get? s.blocks n = some b)
include hb

theorem execClaimDeadlock_dead (hdead : claimDead s n b = true) : execClaimDeadlock n s = .next
    ((blockCores s b).foldl grantHead (failClaims s ((groupsOf s n).filter fun e => claims e.2))) := by
  simp [execClaimDeadlock, hb, hdead]

/-! A block that is resident, with no group left and nothing due, is over (R249). -/

section Over
variable (hsaved : b.saved = false) (hgroups : groupsOf s n = []) (hdue : blockDue s n = false)
include hsaved hgroups hdue

theorem execPointRetire_point {lid rank : Nat} (hof : b.of = .point lid rank) (hrow : rowReady s lid rank = true) :
    execPointRetire n s = .next (pointOver (dropBlock s n) lid rank) := by
  simp [execPointRetire, pointRetire, hb, hsaved, hgroups, hdue, hof, hrow]

theorem execPointRetire_handler (hof : b.of = .handler) : execPointRetire n s = .next (dropBlock s n) := by
  simp [execPointRetire, pointRetire, hb, hsaved, hgroups, hdue, hof]

theorem execPointRetire_pass {pid i t : Nat} (hof : b.of = .pass pid i t) :
    execPointRetire n s = .next (finishCancelled (dropBlock s n) pid) := by
  simp [execPointRetire, pointRetire, hb, hsaved, hgroups, hdue, hof]

end Over

end Blocks

section Launches
variable {lid : Nat} {l : Launch} (hl : Tbl.get? s.launches lid = some l)
include hl

theorem execDetCommit_commits (hst : l.st = .running) (hret : l.allRetired = true) (hwait : commitWaits s = false)
    (hheld : l.log.any (targetHeld s l.ctx) = false) (hroom : ackRoom s l.ctx (l.log.filter fun c => c.peer.isSome).length = true) :
    let log := sortLog l.log
    execDetCommit lid s = .next (modLaunch (commitAll s l.ctx lid log log []) lid fun l =>
      { l with st := .committed, log := [], status := if log.any (conflicts log) then .conflict else l.status }) := by
  simp only [execDetCommit, detCommit, hl, hst, hret, hwait, hheld, hroom]
  simp

theorem execLaunchRetire_committed (hst : l.st = .committed) (hflight : inFlight s (fun a => a.gid == launchGid lid) = false) :
    execLaunchRetire lid s = .next (retireLaunch s lid l.status l.tails l.chain) := by
  simp [execLaunchRetire, launchRetire, hl, hst, hflight]

end Launches

/-! Handlers, signals and event records (R149, R152, R153, R232). -/

theorem execHandlerEntry_starts {cid : Nat} {c : Ctx} {k : HandlerKernel} {r : TrapRec} {rest : List TrapRec} {cores : List Nat}
    {ps : List (List Nat)} (hc : Tbl.get? s.ctxs cid = some c) (hk : c.handler = some k) (hq : c.queues.trapq = r :: rest)
    (hserv : inService s cid < 4) (hmay : mayFinish s cid c = true) (hdue : recordDue s r = false)
    (hfit : handlerFit (freshNat s).2 c (HandlerKernel.foot k) ((List.range 12).map fun n => (n + (freshNat s).1) % 12) = some (cores, ps)) :
    let t := modCtx (freshNat s).2 cid fun c => { c with queues := { c.queues with trapq := rest } }
    execHandlerEntry cid s = .next (startBlock t (newBlock cid .handler r.pt r.slot (HandlerKernel.foot k) (logicalOf c cores)) cores ps
      fun _ pl => { newGroup k.width k.vregs k.entry (lanesOf k.width) [r.handle, r.cause, r.pc, r.addr] pl t.steps with handler := some r }) := by
  simp only [execHandlerEntry, handlerEntry, hc, hk, hq, Nat.not_le.2 hserv, hmay, hdue, hfit]
  simp

section Deliveries
variable {k gid cid : Nat}

/-- A held signal whose group has nothing earlier due reaches its target (R153). -/
theorem execSignalDelivery_due {slot : Option Nat} {v : W64} (hp : s.mem.pend[k]? = some (.signal gid cid slot v))
    (hdue : earlierDue s k gid = false) : execSignalDelivery k s = .next (signalArrive (dropPend s k) cid slot v) := by
  simp [execSignalDelivery, hp, hdue]

/-- A signal of a slot that is its context's VF's raises bits of WAKE (R225). -/
theorem signalArrive_slot {n : Nat} {c : Ctx} (v : W64) (hc : Tbl.get? s.ctxs cid = some c) (hslot : slotOfVf s n c.vf = true) :
    signalArrive s cid (some n) v = checkWake (modSlot s n fun q => { q with wake := q.wake ||| v }) n := by
  simp [signalArrive, hc, hslot]

theorem execEventRecordWrite_due {r : EvRec} (hp : s.mem.pend[k]? = some (.event gid cid r)) (hdue : earlierDue s k gid = false) :
    execEventRecordWrite k s = .next (pushEvent (dropPend s k) cid r) := by
  simp [execEventRecordWrite, hp, hdue]

end Deliveries

end FrontEndRules

/-- Settles O49: each event's rule above, at its instruction. -/
theorem frontEndEvents : Obligations.FrontEndEvents := by
  unfold Obligations.FrontEndEvents
  intro s
  refine ⟨?doorbell, ?take, ?begin, ?fire, ?restore, ?enter, ?blocks, ?launches, ?handler, ?signal, fun _ => rfl, ?event⟩
  case doorbell =>
    intro n tail hst t
    have hbell : exec (.queueDoorbell n tail) s = _ := execQueueDoorbell_used hst
    exact ⟨fun hfits => hbell.trans (by rw [if_neg (Nat.not_lt.2 hfits)]), fun hover => hbell.trans (by rw [if_pos hover])⟩
  case take =>
    intro n c q hc hst hstop hheld hav hbegun hneed
    exact ⟨fun r k => execRecordTake_ok hc hst hstop hheld hav hbegun hneed,
      fun e => execRecordTake_refuse hc hst hstop hheld hav hbegun hneed⟩
  case begin => exact fun n rid r c hr hc hmay => execRecordBegin_may hr hc hmay
  case fire =>
    exact fun n lid l rest c hn htry hc => ⟨fun rank t u cores ps htiled hnext hentry hfit hready =>
      execPointFire_point hn htry hc htiled hnext hentry hfit hready,
      fun htiled => execPointFire_tile hn htry hc htiled rfl⟩
  case restore => exact fun n b c t hb hc hsaved hmay ht => execBlockRestorePlace_some hb hc hsaved hmay ht
  case enter => exact fun gid g k hg hk hready hfirst => execActiveSlotEntry_first hg hk hready hfirst
  case blocks =>
    exact fun n b hb => ⟨execClaimDeadlock_dead hb, fun hsaved hgroups hdue =>
      ⟨fun lid rank => execPointRetire_point hb hsaved hgroups hdue, execPointRetire_handler hb hsaved hgroups hdue,
        fun pid i t => execPointRetire_pass hb hsaved hgroups hdue⟩⟩
  case launches => exact fun lid l hl => ⟨execDetCommit_commits hl, execLaunchRetire_committed hl⟩
  case handler =>
    exact fun cid c k r rest cores ps hc hk hq hserv hmay hdue hfit => execHandlerEntry_starts hc hk hq hserv hmay hdue hfit
  case signal =>
    intro k gid cid slot v hp hdue
    have harrive : exec (.signalDelivery k) s = _ := execSignalDelivery_due hp hdue
    exact ⟨fun hslot => by rw [harrive, hslot]; rfl,
      fun n c hslot hc hvf => by rw [harrive, hslot, signalArrive_slot (s := dropPend s k) v hc hvf]⟩
  case event => exact fun k gid cid r _ hp hdue _ => execEventRecordWrite_due hp hdue

end Sys2Proof.Machine
end

section
namespace Sys2Proof.Machine

/-! ## Faults of instructions at issue (R19, R58, R78, R92) -/

/-- An instruction with a static cause, or one that reduced service has not, is illegal on its active lanes (R19, R58, R132). -/
theorem checked_illegal {s : State} {h : Here} {causes : List Nat} {svc : Bool} {msk len sub : Nat} (k : State)
    (hc : minCause (causes ++ cause (svc && !s.full) 8) = some sub) :
    checked s h causes svc msk len k = raise s h (h.act msk) len 0x001 sub 0 := by
  simp only [checked, hc, illegal, raiseA]

section Illegal
variable {s : State} {h : Here} {sub : Nat} (hh : s.here = some h)
include hh

theorem laneRun_illegal {j : LaneJob} (image : State → Here → Option Nat) (op : State → Here → Src → Nat → Nat)
    (hc : minCause (j.causes ++ cause (j.svc && !s.full) 8) = some sub) :
    laneRun s j image op = .next (raise s h (h.act j.msk) j.len 0x001 sub 0) := by
  rw [laneRun, issue_here _ hh, checked_illegal _ hc]

theorem scalarRun_illegal {causes : List Nat} (len : Nat) (n : Named) (sd : Byte) (v : Here → W64) (hc : minCause causes = some sub) :
    scalarRun causes len n sd v s = .next (raise s h (h.act 0) len 0x001 sub 0) := by
  rw [scalarRun, issue_here _ hh, checked_illegal _ (by simpa [cause] using hc)]

theorem memRun_illegal {j : MemJob} {svc : Bool} (eff : State → Here → List LaneOk → State)
    (hc : minCause (j.causes ++ cause (svc && !s.full) 8) = some sub) :
    memRun j svc eff s = .next (raise s h (h.act j.msk) j.len 0x001 sub 0) := by
  rw [memRun, issue_here _ hh]
  exact congrArg _ (checked_illegal _ hc)

end Illegal

section Reach
variable {s : State} {h : Here} {j : LaneJob} (image : State → Here → Option Nat) (op : State → Here → Src → Nat → Nat)
  (hl : Legal s h j.causes j.svc)
include hl

/-- A lane instruction that names a register outside its window (R78). -/
theorem laneRun_outOfWindow (hw : outOfWindow h (j.named h true) = true) :
    laneRun s j image op = .next (raise s h (h.act j.msk) j.len 0x002 0 0) := by
  rw [laneRun, issue_here _ hl.1, checked_legal _ _ _ hl]
  simp [laneChecks, hw, raiseA]

/-- One that reads a latch that is not valid (R92). -/
theorem laneRun_badLatch (hw : outOfWindow h (j.named h true) = false) (hb : badLatch h (j.named h true) = true) :
    laneRun s j image op = .next (raise s h (h.act j.msk) j.len 0x003 0 0) := by
  rw [laneRun, issue_here _ hl.1, checked_legal _ _ _ hl]
  simp [laneChecks, hw, hb, raiseA]

end Reach

/-! ## The check of an address in the scratchpad (R157, R158, R164) -/

/-- The bytes of an access lie in one region of the scratchpad (R157). -/
def InScratch (b : Block) (ea n : Nat) : Prop :=
  (0 ≤ ea ∧ ea + n ≤ 0 + b.foot.scratch) ∨ (0x40000000 ≤ ea ∧ ea + n ≤ 0x40000000 + b.foot.shared) ∨
    (0xC0000000 ≤ ea ∧ ea + n ≤ 0xC0000000 + 256 * b.foot.tlines)

theorem sRegion_isNone_iff (b : Block) (ea n : Nat) : (sRegion b ea n).isNone = true ↔ ¬InScratch b ea n := by
  unfold sRegion InScratch
  simp only [Bool.and_eq_true, decide_eq_true_eq]
  by_cases hpriv : ea + n ≤ b.foot.scratch
  · rw [if_pos hpriv]
    exact iff_of_false Bool.false_ne_true (by omega)
  rw [if_neg hpriv]
  by_cases hshared : 0x40000000 ≤ ea ∧ ea + n ≤ 0x40000000 + b.foot.shared
  · rw [if_pos hshared]
    exact iff_of_false Bool.false_ne_true (by omega)
  rw [if_neg hshared]
  by_cases htag : 0xC0000000 ≤ ea ∧ ea + n ≤ 0xC0000000 + 256 * b.foot.tlines
  · rw [if_pos htag]
    exact iff_of_false Bool.false_ne_true (by omega)
  rw [if_neg htag]
  exact iff_of_true rfl (by omega)

section Scratch
variable (s : State) {h : Here} {al rd wr : Bool} {n ea : Nat}

theorem checkOne_outside (hout : ¬InScratch h.b ea n) : (checkOne s h true al rd wr n ea).1 = .fault 0x020 0 ea := by
  simp [checkOne, (sRegion_isNone_iff h.b ea n).2 hout]

variable (hin : InScratch h.b ea n)
include hin

theorem sRegion_isNone_inside : (sRegion h.b ea n).isNone = false :=
  Bool.eq_false_iff.2 fun hnone => (sRegion_isNone_iff h.b ea n).1 hnone hin

theorem checkOne_scratch_misaligned (hal : al = true) (hmis : ea % n ≠ 0) :
    (checkOne s h true al rd wr n ea).1 = .fault 0x021 0 ea := by
  simp [checkOne, sRegion_isNone_inside hin, hal, hmis]

variable (hal : al = true → ea % n = 0)
include hal

theorem checkOne_scratch_badWord (hrd : rd = true) (hbad : badHere h.b h.gid ea n = true) :
    (checkOne s h true al rd wr n ea).1 = .fault 0x025 2 ea := by
  simp only [checkOne, sRegion_isNone_inside hin, hrd, hbad]
  cases al <;> simp_all

theorem checkOne_scratch_ok (hgood : rd = true → badHere h.b h.gid ea n = false) : (checkOne s h true al rd wr n ea).1 = .ok [] := by
  simp only [checkOne, sRegion_isNone_inside hin]
  cases al <;> cases rd <;> simp_all

end Scratch

/-! ## The check of an address in virtual memory (R164, R170, R271, R272, R289) -/

/-! A fill answers as the walk does. -/

section Fill
variable {s : State} {cid : Nat} {c : Ctx} {va : Nat} {wr : Bool}

theorem fill_noncanonical (hva : 2 ^ 48 ≤ va) : fill s cid c va wr false = .fault 0x022 4 := by
  rw [fill, if_pos hva]

variable (hva : va < 2 ^ 48)
include hva

theorem fill_walkFault {code sub : Nat} (hw : walkFrom s c va c.tbase.toNat 3 = .fault code sub) :
    fill s cid c va wr false = .fault code sub := by
  rw [fill, if_neg (Nat.not_le.2 hva), hw]

variable {e level : Nat} (hw : walkFrom s c va c.tbase.toNat 3 = .leaf e level)
include hw

theorem fill_readOnly (hwr : wr = true) (hperm : e / 8 % 2 = 0) : fill s cid c va wr false = .fault 0x023 1 := by
  rw [fill, if_neg (Nat.not_le.2 hva), hw]
  simp [hwr, pteW, hperm]

variable (hperm : wr = true → e / 8 % 2 = 1) (htgt : e / 32 % 4 = 0)
include hperm htgt

/-- A leaf of local memory that the access may use: the frame of its address decides (R269, R270). -/
theorem fill_local : let vpa := pteAddr e + va % 2 ^ levelBits level
    let m := frameEntry s c.vf (vpa / 32768)
    fill s cid c va wr false =
      if m.1 == 2 || m.1 == 3 then .wait (vpa / 32768)
      else if m.1 == 0 then .fault 0x022 6
      else if !potOk s c.vf c.world m.2 || saveFrame s c.vf (vpa / 32768) then .fault 0x024 0
      else .ok { ctx := cid, page := va / 32768, bits := 15, pbits := levelBits level, base := m.2 * 32768, space := .loc,
                 kind := kindOf (pteKind e), w := pteW e, x := pteX e, world := (potEntry s m.2).world, vpa := vpa / 32768 * 32768 } := by
  rw [fill, if_neg (Nat.not_le.2 hva), hw]
  cases wr <;> simp_all [pteW, pteTgt]

end Fill

theorem potOk_eq_false {s : State} {vf world pfn : Nat}
    (hpot : (potEntry s pfn).state ≠ 1 ∨ (potEntry s pfn).vf ≠ vf ∨ worldOk world (potEntry s pfn).world = false) :
    potOk s vf world pfn = false := by
  rcases hpot with h | h | h <;> simp [potOk, h]

theorem potOk_of {s : State} {vf world pfn : Nat} (hst : (potEntry s pfn).state = 1) (hvf : (potEntry s pfn).vf = vf)
    (hw : worldOk world (potEntry s pfn).world = true) : potOk s vf world pfn = true := by
  simp [potOk, hst, hvf, hw]

/-! What a fill answers is what the check answers, where no translation is cached. -/

section Virtual
variable {s : State} {h : Here} {al rd wr : Bool} {n ea : Nat}

theorem checkOne_virtual_misaligned (hal : al = true) (hmis : ea % n ≠ 0) :
    (checkOne s h false al rd wr n ea).1 = .fault 0x021 0 ea := by
  simp [checkOne, hal, hmis]

variable (hal : al = true → ea % n = 0)
include hal

/-- A translation that faults at the first byte is the fault of the access. -/
theorem checkOne_translateFault {code sub : Nat} (ht : (translate s h.core h.cid h.c ea wr false).1 = .fault code sub) :
    (checkOne s h false al rd wr n ea).1 = .fault code sub ea := by
  have hacc : (accessParts s h.core h.cid h.c ea n wr).1 = .fault code sub ea := by
    simp only [accessParts, accessBy]
    generalize translate s h.core h.cid h.c ea wr false = x at ht
    obtain ⟨_, s'⟩ := x
    subst ht
    rfl
  have hone : checkOne s h false al rd wr n ea = checkVirtual s h.core h.cid h.c ea n rd wr := by
    cases al <;> simp_all [checkOne]
  rw [hone, checkVirtual]
  generalize accessParts s h.core h.cid h.c ea n wr = x at hacc
  obtain ⟨_, s'⟩ := x
  subst hacc
  rfl

variable (hmiss : tlbFind (tlbOf s h.core) h.cid ea = none)
include hmiss

theorem checkOne_fillFault {code sub : Nat} (hf : fill s h.cid h.c ea wr false = .fault code sub) :
    (checkOne s h false al rd wr n ea).1 = .fault code sub ea :=
  checkOne_translateFault hal (by simp [translate, translateRaw, hmiss, hf])

/-- A frame of a surface of another owner, or of an output surface, is refused after its translation (R289). -/
theorem checkOne_surface {e : TlbEntry} {k i : Nat} {sf : Surface} (hf : fill s h.cid h.c ea wr false = .ok e) (hloc : e.space = .loc)
    (hsurf : surfOf s (e.base / 32768) = some (k, sf, i)) (hown : sf.a.kind = 3 ∨ sf.a.oid ≠ h.c.oid) :
    (checkOne s h false al rd wr n ea).1 = .fault 0x024 8 ea := by
  have hused : surfOf (tlbUse s h.core e) (e.base / 32768) = some (k, sf, i) := hsurf
  have href : surfRefuses (tlbUse s h.core e) h.c e = true := by
    rcases hown with hown | hown <;> simp [surfRefuses, hloc, hused, hown]
  exact checkOne_translateFault hal (by simp [translate, translateRaw, hmiss, hf, href])

end Virtual

/-! The walk (R267, R269 to R272). Lean does not derive `walkFrom`'s own equation within its limits, so its recursion on the level is unfolded here
by that of `Nat.brecOn`. -/

section Walk
variable {s : State} {c : Ctx} {va t level : Nat}

theorem walkFrom_refusedTable (htab : tablePa s c t = .refused) : walkFrom s c va t level = .fault 0x024 7 := by
  delta walkFrom walkFrom._f
  rw [Nat.brecOn.eq]
  simp only [htab]

/-- The entry that the walk reads in a table at `pa` is absent, or malformed. -/
theorem walkFrom_badEntry {pa e : Nat} (htab : tablePa s c t = .at_ pa) (he : rdNat s.mem.loc (pa + 8 * levelIndex va level) 8 = e) :
    (e % 2 = 0 → walkFrom s c va t level = .fault 0x022 level) ∧
      (e % 2 = 1 → malformed e level = true → walkFrom s c va t level = .fault 0x022 5) := by
  delta walkFrom walkFrom._f
  rw [Nat.brecOn.eq]
  simp +contextual [htab, he, pteV]

/-- A table's frame that its context does not hold is refused. -/
theorem tablePa_refused (hm : (frameEntry s c.vf (t / 32768)).1 = 0 ∨ ((frameEntry s c.vf (t / 32768)).1 = 1 ∧
    potOk s c.vf c.world (frameEntry s c.vf (t / 32768)).2 = false)) : tablePa s c t = .refused := by
  rcases hm with hm | ⟨hm, hpot⟩ <;> simp [tablePa, *]

theorem tablePa_held (hm : (frameEntry s c.vf (t / 32768)).1 = 1) (hpot : potOk s c.vf c.world (frameEntry s c.vf (t / 32768)).2 = true) :
    tablePa s c t = .at_ ((frameEntry s c.vf (t / 32768)).2 * 32768 + t % 32768) := by
  simp [tablePa, hm, hpot]

end Walk

/-! ## Memory instructions with failing lanes (R164) -/

/-- A load that waits for no store issues with nothing to perform first. -/
theorem beforeLoads_none {s : State} {h : Here} {oks : List LaneOk} (hw : loadsWait s h oks = false) : beforeLoads s h oks = s := by
  rw [beforeLoads, if_neg]
  simpa [loadsWait] using hw

/-- A job that does not stall has no store to wait for, where it reads memory. -/
theorem loadsWait_of_stalls {j : MemJob} {s : State} {h : Here} {oks : List LaneOk} (hst : j.stalls s h oks = false)
    (hrd : (j.reads && !j.sp) = true) : loadsWait s h oks = false := by
  obtain ⟨hr, hsp⟩ := Bool.and_eq_true_iff.1 hrd
  simp only [MemJob.stalls, hr, hsp, Bool.true_and, Bool.or_eq_false_iff] at hst
  exact hst.1

/-- A memory instruction that issues has its effect for the lanes that passed, on the state after its translations; those that failed park. -/
theorem memRun_issues {j : MemJob} {svc : Bool} {s : State} {h : Here} (eff : State → Here → List LaneOk → State) (e : MemIssues j svc s h) :
    memRun j svc eff s = .next (parkBads (eff (j.scan s h).s h (j.scan s h).oks) h j.len (j.scan s h).bads) := by
  obtain ⟨hl, ⟨hw, hb⟩, hf, hs, hr, hst⟩ := e
  have hbefore : (if (j.reads && !j.sp) = true then beforeLoads (j.scan s h).s h (j.scan s h).oks else (j.scan s h).s) = (j.scan s h).s := by
    split
    · rename_i hrd; exact beforeLoads_none (loadsWait_of_stalls hst hrd)
    · rfl
  rw [memRun, issue_here _ hl.1]
  dsimp only
  rw [checked_legal _ _ _ hl, if_neg (by simp [hw]), if_neg (by simp [hb]), withRegs_free _ hl.1 hf]
  simp only [MemJob.touches] at hr
  simp only [hs, hr, hbefore, hst, Bool.or_false, Bool.false_eq_true, if_false]

/-- What the failing lanes of a nonempty list come to. -/
theorem memRun_parks {j : MemJob} {svc : Bool} {s : State} {h : Here} {b : LaneBad} {l : List LaneBad}
    (eff : State → Here → List LaneOk → State) (e : MemIssues j svc s h) (hbads : (j.scan s h).bads = b :: l) :
    memRun j svc eff s = .next ((eff (j.scan s h).s h (j.scan s h).oks).parksLanes h (b :: l) b j.len) := by
  rw [memRun_issues eff e, hbads]
  rfl

/-! What a load writes at issue: under `.zro`, 0 to the disabled lanes of vd (R166). -/

section Zeroing
variable (g : Group) (wide : Bool) (d : Nat) (act : W64) (zro : Bool)

theorem zeroDisabled_same : SameButRegs g (zeroDisabled g wide d act zro) := by
  unfold zeroDisabled
  split
  · exact writeLanes_same _ _ _ _ _ _ _
  · simp [SameButRegs]

theorem getVreg_zeroDisabled {r l : Nat} (hl : l < 64) : getVreg (zeroDisabled g wide d act zro) r l =
    if zro = true ∧ (l < g.w ∧ inSet act l = false) ∧ (r = d ∨ (wide = true ∧ r = d + 1)) then 0 else getVreg g r l := by
  unfold zeroDisabled
  cases zro
  · simp
  · rw [if_pos rfl, getVreg_writeLanes _ _ _ _ _ _ _ _ _ (fun x hx => (mem_laneNos.1 (List.mem_filter.1 hx).1).2) hl]
    simp [mem_laneNos, hl]

theorem zeroDisabled_onlyDest : OnlyDest wide d g.w g.regs (zeroDisabled g wide d act zro).regs := by
  obtain ⟨_, hs, hk, _, hv⟩ := zeroDisabled_same g wide d act zro
  refine ⟨hs, hk, hv, fun reg lane hlane hor => ?_⟩
  refine (getVreg_zeroDisabled g wide d act zro hlane).trans (if_neg ?_)
  rintro ⟨_, ⟨hw, _⟩, hreg⟩
  rcases hor with hor | ⟨hd, hd1⟩
  · omega
  · rcases hreg with hreg | ⟨hwide, hreg⟩
    · exact hd hreg
    · exact hd1 hwide hreg

theorem elem_zeroDisabled {x : Nat} (hw : x < g.w) (hx : x < 64) : (zeroDisabled g wide d act zro).regs.elem wide d x =
    if zro && !inSet act x then 0 else g.regs.elem wide d x := by
  have hv : ∀ r, (zeroDisabled g wide d act zro).regs.vec r x = _ := fun r => getVreg_zeroDisabled g wide d act zro (r := r) hx
  simp only [Regs.elem, hv]
  cases zro <;> cases inSet act x <;> cases wide <;> simp [hw] <;> rfl

end Zeroing

theorem loadSext_eq (t : Ty) : loadSext t = (t == .i8 || t == .i16) := by cases t <;> rfl

/-- The effect of a load from virtual memory: the disabled lanes' zeros, and its accesses in flight. -/
theorem loadEffect_virtual {j : MemJob} {s : State} {h : Here} (zro : Bool) (oks : List LaneOk) (tl : Tbl (List TlbEntry))
    (hsp : j.sp = false) (hh : s.here = some h) : let d := h.f.wb * 8 + j.vd.toNat
    loadEffect j zro (s.withTlb tl) h oks =
      pushPend (modGroup (s.withTlb tl) h.gid fun g => { g with regs := (zeroDisabled h.g j.ty.wide d (h.act j.msk) zro).regs })
        (oks.flatMap fun x => x.parts.map fun p => inFlightAt s h x.lane p .load
          (some { reg := .vec d x.lane, off := p.off, size := j.ty.bytes, sext := j.ty == .i8 || j.ty == .i16 })) := by
  intro d
  have hmod : modGroup (s.withTlb tl) h.gid (fun g => zeroDisabled g j.ty.wide d (h.act j.msk) zro) =
      modGroup (s.withTlb tl) h.gid fun g => { g with regs := (zeroDisabled h.g j.ty.wide d (h.act j.msk) zro).regs } := by
    exact congrArg (fun t => { s.withTlb tl with groups := t }) (Tbl.modify_congr s.groups h.gid
      (fun g => zeroDisabled g j.ty.wide d (h.act j.msk) zro)
      (fun g => { g with regs := (zeroDisabled h.g j.ty.wide d (h.act j.msk) zro).regs }) h.g (here_group hh)
      (zeroDisabled_same h.g j.ty.wide d (h.act j.msk) zro).1)
  simp only [loadEffect, hsp, loadSext_eq, Bool.false_eq_true, if_false]
  rw [hmod]
  rfl

/-- The effect of a store to virtual memory: its accesses in flight (R167). -/
theorem storeEffect_virtual {j : MemJob} {h : Here} (s : State) (oks : List LaneOk) (tl : Tbl (List TlbEntry)) (hsp : j.sp = false) :
    storeEffect j (s.withTlb tl) h oks = pushPend (s.withTlb tl) (oks.flatMap fun x => x.parts.map fun p =>
      inFlightAt s h x.lane p (.store (natLE p.n (h.g.regs.elem j.ty.wide (h.f.wb * 8 + j.vd.toNat) x.lane / 256 ^ p.off))) none) := by
  rw [storeEffect, if_neg (by simp [hsp])]
  rfl

/-- The effect of a store to the scratchpad: each lane's bytes, in ascending order (R163, R167). -/
theorem storeEffect_scratch {j : MemJob} {h : Here} (s : State) (oks : List LaneOk) (hsp : j.sp = true) :
    storeEffect j s h oks = oks.foldl (fun s x =>
      writeScratch s h.gid x.ea (natLE j.ty.bytes (h.g.regs.elem j.ty.wide (h.f.wb * 8 + j.vd.toNat) x.lane))) s := by
  rw [storeEffect, if_pos hsp]
  rfl

/-- The effect of an atomic on virtual memory: its accesses in flight (R170). -/
theorem atomicEffect_virtual {j : MemJob} {h : Here} (op : AtmOp) (s : State) (oks : List LaneOk) (tl : Tbl (List TlbEntry))
    (hsp : j.sp = false) : atomicEffect j op (s.withTlb tl) h oks =
      pushPend (s.withTlb tl) (oks.flatMap fun x => x.parts.map fun p => inFlightAt s h x.lane p
        (.rmw op j.ty (BitVec.ofNat 64 (j.data h x.lane)) (BitVec.ofNat 64 (j.cmp h x.lane)))
        (some { reg := .vec (h.f.wb * 8 + j.vd.toNat) x.lane, off := 0, size := j.ty.bytes, sext := false })) := by
  rw [atomicEffect, if_neg (by simp [hsp])]
  rfl

section Parks
variable {f : MFmt} {s : State} {h : Here} {b : LaneBad} {l : List LaneBad}

/-- An `ld` from virtual memory some of whose lanes fail. -/
theorem execLd_parks : let j := jobM ldSpec f false true false true
    let d := h.f.wb * 8 + f.vd.toNat
    let r := (zeroDisabled h.g j.ty.wide d (h.act (mskOf f.pfx)) (zroOf f.pfx)).regs
    MemIssues j j.ty.needsFull s h → f.sp = false → (j.scan s h).bads = b :: l →
    ∃ tl : Tbl (List TlbEntry), execLd f s = .next ((pushPend (modGroup (s.withTlb tl) h.gid fun g => { g with regs := r })
      ((j.scan s h).oks.flatMap fun x => x.parts.map fun p => inFlightAt s h x.lane p .load
        (some { reg := .vec d x.lane, off := p.off, size := j.ty.bytes, sext := j.ty == .i8 || j.ty == .i16 }))).parksLanes h
          (b :: l) b (lenOf f.pfx)) := by
  intro j d r e hsp hbads
  obtain ⟨tl, htl⟩ := scan_only j s h
  have heff := loadEffect_virtual (zroOf f.pfx) (j.scan s h).oks tl (j := j) hsp e.1.1
  refine ⟨tl, (memRun_parks _ e hbads).trans ?_⟩
  rw [htl, heff]
  rfl

/-- An `st` to virtual memory some of whose lanes fail. -/
theorem execSt_parks : let j := jobM stSpec f false false true true
    MemIssues j j.ty.needsFull s h → f.sp = false → (j.scan s h).bads = b :: l →
    ∃ tl : Tbl (List TlbEntry), execSt f s = .next ((pushPend (s.withTlb tl) ((j.scan s h).oks.flatMap fun x => x.parts.map fun p =>
      inFlightAt s h x.lane p (.store (natLE p.n (h.g.regs.elem j.ty.wide (h.f.wb * 8 + f.vd.toNat) x.lane / 256 ^ p.off))) none)).parksLanes h
        (b :: l) b (lenOf f.pfx)) := by
  intro j e hsp hbads
  obtain ⟨tl, htl⟩ := scan_only j s h
  have heff := storeEffect_virtual s (j.scan s h).oks tl (j := j) (h := h) hsp
  refine ⟨tl, (memRun_parks _ e hbads).trans ?_⟩
  rw [htl, heff]
  rfl

/-- An `st` to the scratchpad some of whose lanes fail. -/
theorem execSt_parks_scratch : let j := jobM stSpec f false false true true
    MemIssues j j.ty.needsFull s h → f.sp = true → (j.scan s h).bads = b :: l →
    execSt f s = .next (State.parksLanes ((j.scan s h).oks.foldl (fun s x => writeScratch s h.gid x.ea
      (natLE j.ty.bytes (h.g.regs.elem j.ty.wide (h.f.wb * 8 + f.vd.toNat) x.lane))) s) h (b :: l) b (lenOf f.pfx)) := by
  intro j e hsp hbads
  refine (memRun_parks _ e hbads).trans ?_
  rw [scan_scratch j s h hsp, storeEffect_scratch s _ hsp]
  rfl

/-- An atomic on virtual memory some of whose lanes fail. -/
theorem atomicRun_parks (op : AtmOp) (spec : MemSpec) : let j := jobM spec f true true true true
    MemIssues j j.ty.needsFull s h → (j.scan s h).bads = b :: l → f.sp = false →
    ∃ tl, atomicRun op spec f s = .next ((pushPend (s.withTlb tl) ((j.scan s h).oks.flatMap fun x => x.parts.map fun p =>
      inFlightAt s h x.lane p (.rmw op j.ty (BitVec.ofNat 64 (j.data h x.lane)) (BitVec.ofNat 64 (j.cmp h x.lane)))
        (some { reg := .vec (h.f.wb * 8 + f.vd.toNat) x.lane, off := 0, size := j.ty.bytes, sext := false }))).parksLanes h
          (b :: l) b (lenOf f.pfx)) := by
  intro j e hbads hsp
  obtain ⟨tl, htl⟩ := scan_only j s h
  have heff := atomicEffect_virtual op s (j.scan s h).oks tl (j := j) (h := h) hsp
  refine ⟨tl, (memRun_parks _ e hbads).trans ?_⟩
  rw [htl, heff]
  rfl

end Parks

/-! A leaf of local memory whose frame, or whose surface, refuses the access. -/

section Leaf
variable {s : State} {h : Here} {al rd wr : Bool} {n ea e level : Nat} (hal : al = true → ea % n = 0)
  (hmiss : tlbFind (tlbOf s h.core) h.cid ea = none) (hva : ea < 2 ^ 48) (hw : walkFrom s h.c ea h.c.tbase.toNat 3 = .leaf e level)
  (hperm : wr = true → e / 8 % 2 = 1) (htgt : e / 32 % 4 = 0)
include hal hmiss hva hw hperm htgt

theorem checkOne_noFrame (hm : (frameEntry s h.c.vf ((pteAddr e + ea % 2 ^ levelBits level) / 32768)).1 = 0) :
    (checkOne s h false al rd wr n ea).1 = .fault 0x022 6 ea :=
  checkOne_fillFault hal hmiss (by rw [fill_local hva hw hperm htgt]; simp [hm])

theorem checkOne_otherOwner (hm : (frameEntry s h.c.vf ((pteAddr e + ea % 2 ^ levelBits level) / 32768)).1 = 1)
    (hpot : potOk s h.c.vf h.c.world (frameEntry s h.c.vf ((pteAddr e + ea % 2 ^ levelBits level) / 32768)).2 = false) :
    (checkOne s h false al rd wr n ea).1 = .fault 0x024 0 ea :=
  checkOne_fillFault hal hmiss (by rw [fill_local hva hw hperm htgt]; simp [hm, hpot])

theorem checkOne_otherSurface {k i : Nat} {sf : Surface} (hm : (frameEntry s h.c.vf ((pteAddr e + ea % 2 ^ levelBits level) / 32768)).1 = 1)
    (hpot : potOk s h.c.vf h.c.world (frameEntry s h.c.vf ((pteAddr e + ea % 2 ^ levelBits level) / 32768)).2 = true)
    (hsave : saveFrame s h.c.vf ((pteAddr e + ea % 2 ^ levelBits level) / 32768) = false)
    (hsurf : surfOf s (frameEntry s h.c.vf ((pteAddr e + ea % 2 ^ levelBits level) / 32768)).2 = some (k, sf, i))
    (hown : sf.a.kind = 3 ∨ sf.a.oid ≠ h.c.oid) : (checkOne s h false al rd wr n ea).1 = .fault 0x024 8 ea := by
  have hf := fill_local (cid := h.cid) hva hw hperm htgt
  simp only [hm, hpot, hsave] at hf
  exact checkOne_surface hal hmiss hf rfl (by rw [Nat.mul_div_cancel _ (by decide)]; exact hsurf) hown

end Leaf

/-- Settles O24: at issue by the order of the causes, at the check of an address along the walk, and for failing lanes by the scan they share. -/
theorem instructionFaults : Obligations.InstructionFaults := by
  refine ⟨⟨⟨fun f s h sub hh hc => ?_, fun f s h sub hh hc => ?_, fun f s h sub hh hc => ?_⟩, ?_⟩, ?_, ?_, ?_, ?_, ?_⟩
  · exact laneRun_illegal hh (j := jobV intI f) _ _ hc
  · exact scalarRun_illegal hh _ _ _ _ hc
  · exact memRun_illegal hh (j := jobM ldSpec f false true false true) _ hc
  · exact fun f s h hl => ⟨laneRun_outOfWindow _ _ hl, laneRun_badLatch _ _ hl⟩
  · intro s h al rd wr n ea
    refine ⟨checkOne_outside s, checkOne_scratch_misaligned s, checkOne_scratch_badWord s, checkOne_scratch_ok s,
      checkOne_virtual_misaligned, fun hal hmiss => ⟨fun hva => checkOne_fillFault hal hmiss (fill_noncanonical hva), fun hva =>
        ⟨fun code sub hw => checkOne_fillFault hal hmiss (fill_walkFault hva hw), fun e level hw => ⟨fun hwr hperm => ?_,
          fun hperm htgt => ⟨fun hm => ?_, fun hm hpot => ?_, fun k sf i hm hst hvf hworld hsave hsurf hown => ?_⟩⟩⟩⟩⟩
    · exact checkOne_fillFault hal hmiss (fill_readOnly hva hw hwr hperm)
    · exact checkOne_noFrame hal hmiss hva hw hperm htgt hm
    · exact checkOne_otherOwner hal hmiss hva hw hperm htgt hm (potOk_eq_false hpot)
    · exact checkOne_otherSurface hal hmiss hva hw hperm htgt hm (potOk_of hst hvf hworld) hsave hsurf hown
  · intro s c va t level
    exact ⟨fun hm => walkFrom_refusedTable (tablePa_refused (hm.imp id (And.imp id potOk_eq_false))),
      fun hm hst hvf hworld => walkFrom_badEntry (tablePa_held hm (potOk_of hst hvf hworld)) rfl⟩
  · intro f s h b l j d e hsp hbads
    obtain ⟨tl, hrun⟩ := execLd_parks e hsp hbads
    exact ⟨_, tl, hrun, zeroDisabled_onlyDest _ _ _ _ _, fun x hw hx => elem_zeroDisabled _ _ _ _ _ hw hx⟩
  · exact fun f s h b l e hbads => ⟨fun hsp => execSt_parks e hsp hbads, fun hsp => execSt_parks_scratch e hsp hbads⟩
  · simp only [List.forall_mem_cons]
    exact ⟨fun _ _ _ _ _ => atomicRun_parks .add atmSpec, fun _ _ _ _ _ => atomicRun_parks .min atmSpec,
      fun _ _ _ _ _ => atomicRun_parks .max atmSpec, fun _ _ _ _ _ => atomicRun_parks .and atmSpec,
      fun _ _ _ _ _ => atomicRun_parks .or atmSpec, fun _ _ _ _ _ => atomicRun_parks .xor atmSpec,
      fun _ _ _ _ _ => atomicRun_parks .xchg xchgSpec, fun _ _ _ _ _ => atomicRun_parks .cas casSpec,
      fun _ _ _ _ _ => atomicRun_parks .fadd faddSpec, by simp⟩

end Sys2Proof.Machine
end

section
namespace Sys2Proof.Laws.RoundTrip

/-- The round trip of every instruction, by its own lemma: the instruction stream, the micro-ops, and last what has no word. -/
theorem statement (i : Instr) : Statement i :=
  i.casesOn
    vadd vsub vmul vmulh vmad vmin vmax vabsd vand vor vxor vandn vshl vshr vsra vrot vadds vsubs vcmp vbfx vbfi vsel vrq vaddr vfadd vfsub vfmul
    vfma vfms vfmin vfmax vfdiv vfcmp vfdp2 vfsgn vperm vmov vnot vneg vabs vpopc vclz vctz vbrev vfneg vfabs vfsqrt vfrnd vcvt vsfuSin vsfuCos
    vsfuExp2 vsfuLog2 vsfuRcp vsfuRsqrt vredSum vredMax vredMin vshf cAdd cSub cMul cAnd cOr cXor cShl cShr cMov cFadd cFsub cFmul cFmin cFmax
    cMin cMax sadd ssub smul smulh sand sor sxor sshl sshr ssra smin smax sseq ssne sslt ssle srdl swrl sli slih smov snot sneg spopc sclz sctz
    kand kor kxor kandn knot kfromv kfroms ktos ld st sld sst pf stMc stRed spLook atmAdd atmMin atmMax atmAnd atmOr atmXor atmXchg atmCas atmFadd
    atmFaddDet fence fibFork br brn call fibJoin fibExit fibYield ret brInd callInd nop sysRd sysWr trap sig qTail qCancel qEvt pkRd pkMask pkPc
    pkResume pkKill hdlRet spSet spInv mm accClr accMov accLd accSt accPut osClaim osRel mmWait tex texFetch tbLd tbSt tbFence pixOwn pixExp
    ctLook frtRetire frtYield frtQuery frtCancel tdSet tdGet tdInv cpKick cpGather barSync barTeam barArrive barPost barWait tlWait tlRd cntRd
    vClaim vRel winSet winAdd wcsLd wcsBind wcsUnbind wcsInv xop
    uadd usub umul umad uand uor uxor uandn ushl ushr usra umin umax uminn umaxn useq usne uslt usle usltn usel ubfx uzx32 usx32 ufadd ufsub ufmul
    uffma ufmin ufmax ufcvti uicvtf umov upick uld32 uld64 ust32 ust64 ujmp ubnz ubz uend uout
    reservedMajor refusedWord status vfEnable vfQuota slotAssign slotRestart slotFree depcAssign depcReset ctxCreate ctxDestroy ctxSwitch ctxStat ctxRoot ctxResume preempt
    evqRead tlbInv frmAllot frmFree frmQuota potSet dirtyBase dirtySwap dispCfg pomWrite surfReg surfFree rvalSet ctGrant ctWithdraw pqCreate
    pqFree wcsAssign xopLoad xopQuery mashReset clkSet ldoSet kilnSet thermQuery pwrStat errLog errInject worldNew sealKey worldUnseal worldFree
    patchStage patchActivate fabMap collPost migOut migIn migStat unknownCommand mbsemRead mbsemRel mbstatViolClear registerWrite getVersion
    getCapabilities negotiateAlgorithms getDigests getCertificate challenge getMeasurements keyExchange finish heartbeat keyUpdate endSession
    unsupportedRequest queueDoorbell recordTake recordBegin pointFire blockRestorePlace activeSlotEntry claimDeadlock pointRetire detCommit
    launchRetire handlerEntry signalDelivery mgmtDoorbellRead eventRecordWrite memoryAccessPerform loadDataReturn pageOut pageIn
    accumulatorOwnershipTrap mashOpStart mashOpComplete accOpExecute mashTimeoutReset copyByteArrival kilnStep kilnRequest vectorBurstEnd
    thermalSample droopAlarm denyEnd hotSpotMigration retentionEntry retentionExit sliceExpiry drainExpiry coopBudgetExpiry preemptTExpiry
    forcedSave displayBoundary presentDoorbell passItemTake tileRaster binOverflowSpill sampleCommit tileStore deviceReset configRecordVerify
    linkDown hotReset hostAccess fabricWriteAck fabricReadResponse peerRequest fabricTimeout collRetire migCompletion softErrorDetect linkUp

end Sys2Proof.Laws.RoundTrip

namespace Sys2Proof.Machine

/-- Settles O58: constructor by constructor, each format's decoder read back from its own encoder. -/
theorem decodeEncode : Obligations.DecodeEncode := Laws.RoundTrip.statement

end Sys2Proof.Machine
end

section
namespace Sys2Proof.Machine

/-! ## The 16-bit forms (R54) -/

section ShortForms
variable {s : State} {h : Here}

/-- The 32-bit form that a 16-bit form stands for has no static cause: it has every default, and no default type takes a register pair. -/
theorem vCauses_cAsV {spec : LaneSpec} (hw : spec.dflt.wide = false) (f : CFmt) : vCauses spec (cAsV f) = [] := by
  simp [vCauses, cAsV, pfxLane, destCauses, readsFragment, tyOf, effTy, cause, hw]

theorem uCauses_cAsU {spec : LaneSpec} (hw : spec.dflt.wide = false) (f : CFmt) : uCauses spec (cAsU f) = [] := by
  simp [uCauses, cAsU, pfxLane, destCauses, tyOf, effTy, cause, hw]

/-- Neither causes nor length of a lane job bear on what it writes: where the shorter job is ready, the legal job is too, and both leave the same
registers. -/
theorem laneRun_short {j : LaneJob} {causes : List Nat} {len : Nat} {op op' : State → Here → Src → Nat → Nat} (hj : j.causes = [])
    (hop : op s h (j.src s h) = op' s h (j.src s h)) (e : LaneReady { j with causes := causes, len := len } true s h) :
    ∃ r, laneRun s { j with causes := causes, len := len } noImage op = .next (s.goesOn h r len) ∧
      laneRun s j noImage op' = .next (s.goesOn h r j.len) := by
  have long : LaneReady j true s h := let ⟨⟨hh, _, hsvc⟩, hrest⟩ := e; ⟨⟨hh, hj, hsvc⟩, hrest⟩
  exact ⟨_, laneRun_eq noImage op e rfl, hop ▸ laneRun_eq noImage op' long rfl⟩

theorem intC_short {n : Nat} {spec : LaneSpec} (o : Ty → Nat → Nat → Nat → Nat) (hw : spec.dflt.wide = false) {f : CFmt}
    (e : LaneReady { jobV spec (cAsV f) with causes := cCauses n f, len := 2 } true s h) :
    ∃ r, intC n spec o f s = .next (s.goesOn h r 2) ∧ intV spec o (cAsV f) s = .next (s.goesOn h r 4) :=
  laneRun_short (vCauses_cAsV hw f) rfl e

theorem fpC_short {n : Nat} {spec : LaneSpec} (o : FpFmt → Rnd → Nat → Nat → Nat → Nat) (hw : spec.dflt.wide = false) {f : CFmt}
    (e : LaneReady { jobV spec (cAsV f) with causes := cCauses n f, len := 2 } true s h) :
    ∃ r, fpC n spec o f s = .next (s.goesOn h r 2) ∧ fpV spec o (cAsV f) s = .next (s.goesOn h r 4) :=
  laneRun_short (vCauses_cAsV hw f) rfl e

/-- `c.mov` takes its source as it is and `vmov.n32` takes it mod 2³², which a source of that type never reaches. -/
theorem execCMov_short {f : CFmt} (e : LaneReady { jobU movSpec (cAsU f) with causes := cCauses 8 f, len := 2 } true s h) :
    ∃ r, execCMov f s = .next (s.goesOn h r 2) ∧ execVmov (cAsU f) s = .next (s.goesOn h r 4) := by
  have hlt (l : Nat) : ((jobU movSpec (cAsU f)).src s h).a l < 2 ^ 32 := (src_lt _ s h l).1
  rw [execCMov, execVmov, intU]
  exact laneRun_short (uCauses_cAsU rfl f) (funext fun l => (Nat.mod_eq_of_lt (hlt l)).symm) e

end ShortForms

/-- Settles O5: the 32-bit form of each 16-bit form is ready with it, and runs the same operation on the same sources. -/
theorem shortForms : Obligations.ShortForms := by
  refine ⟨?_, fun f s h => execCMov_short⟩
  simp only [List.forall_mem_cons]
  exact ⟨fun _ _ _ => intC_short intAdd rfl, fun _ _ _ => intC_short intSub rfl, fun _ _ _ => intC_short intMul rfl,
    fun _ _ _ => intC_short intAnd rfl, fun _ _ _ => intC_short intOr rfl, fun _ _ _ => intC_short intXor rfl,
    fun _ _ _ => intC_short intShl rfl, fun _ _ _ => intC_short intShr rfl, fun _ _ _ => fpC_short (fun m r a b _ => m.add r a b) rfl,
    fun _ _ _ => fpC_short (fun m r a b _ => m.sub r a b) rfl, fun _ _ _ => fpC_short (fun m r a b _ => m.mul r a b) rfl,
    fun _ _ _ => fpC_short (fun m _ a b _ => m.min a b) rfl, fun _ _ _ => fpC_short (fun m _ a b _ => m.max a b) rfl,
    fun _ _ _ => intC_short intMin rfl, fun _ _ _ => intC_short intMax rfl, by simp⟩

/-! ## Calls and indirect branches (R57, R127, R128) -/

section Calls
variable {s : State} {h : Here}

theorem badBase_eq_false {wb : Int} (h0 : 0 ≤ wb) (ht : 8 * wb ≤ (h.g.total : Int) - 8) : badBase h wb = false := by
  simp [badBase]; omega

theorem badBase_eq_true {wb : Int} (hb : wb < 0 ∨ (h.g.total : Int) - 8 < 8 * wb) : badBase h wb = true := by
  simpa [badBase] using hb

/-- A control instruction whose new window base is refused raises window-range on PRED, before its latches are looked at. -/
theorem ctlRun_badBase {causes : List Nat} {p : Option Prefix} {n : Here → Named} {wbad : Here → Bool} {y : Bool}
    {k : State → Here → Nat → Except Nat Group} (e : OnceReady s h causes (n h)) (hw : wbad h = true) :
    ctlRun causes p n wbad y k s = .next (raise s h h.f.pred (lenOf p) 0x002 0 0) := by
  obtain ⟨⟨hl, hf⟩, hwd, -⟩ := e
  rw [ctlRun, issue_here _ hl.1]
  rw [checked_legal _ _ _ hl, if_neg (by rw [hwd]; simp), withRegs_free _ hl.1 hf]
  simp only [hw, if_true, raiseP]

/-- The further targets become fibres one after the other. -/
theorem addTargets_foldl (h : Here) (p : Option Prefix) (c : Byte) (wb : Nat) (l : List Nat) (g : Group) :
    addTargets g h p c wb l =
      l.foldl (fun g t => addFibre g (newFibre (BitVec.ofNat 64 t) (lanesTo h p c t) wb)) g := by
  induction l generalizing g with
  | nil => rfl
  | cons t r ih => exact ih _

section Call
variable {f : JFmt} {wb : Int} (hwb : wb = (h.f.wb : Int) + f.c.toInt)
include hwb

theorem execCall_ready (e : OnceReady s h (jCauses f) { vregs := [8 * wb.toNat, 8 * wb.toNat + 1] }) (h0 : 0 ≤ wb)
    (ht : 8 * wb ≤ (h.g.total : Int) - 8) : execCall f s = .next (s.switches h
      (writeLink (modFibre h.g h.fid fun x => { x with wb := wb.toNat, pc := branchTarget h f.off }) h.f.pred wb.toNat
        (h.next (lenOf f.pfx))) none) := by
  subst hwb
  have hb := badBase_eq_false h0 ht
  rw [execCall]
  refine ctlRun_ready _ ?_ hb rfl
  rwa [if_neg (by simp [hb])]

theorem execCall_badBase (e : OnceReady s h (jCauses f) {}) (hb : wb < 0 ∨ (h.g.total : Int) - 8 < 8 * wb) :
    execCall f s = .next (raise s h h.f.pred (lenOf f.pfx) 0x002 0 0) := by
  subst hwb
  have hb := badBase_eq_true hb
  rw [execCall]
  refine ctlRun_badBase ?_ hb
  rwa [if_pos hb]

end Call

section Indirect
variable {causes : List Nat} {f : GFmt} {shift : Here → Int} {link : Bool} {wb : Int} (hwb : wb = (h.f.wb : Int) + shift h)
include hwb

theorem indRun_badBase (e : OnceReady s h causes ((nameSel h f.pfx true f.a).and { sregs := scalarNos f.pfx f.b }))
    (hb : wb < 0 ∨ (h.g.total : Int) - 8 < 8 * wb) :
    indRun causes f shift link s = .next (raise s h h.f.pred (lenOf f.pfx) 0x002 0 0) := by
  subst hwb
  have hb := badBase_eq_true hb
  rw [indRun]
  refine ctlRun_badBase ?_ hb
  rwa [if_neg (by simp [hb])]

/-- An indirect branch that is ready: the lowest target keeps the fibre, the link is written, then the further targets become fibres. -/
theorem indRun_ready {t : Nat} {r : List Nat}
    (e : OnceReady s h causes (let named := (nameSel h f.pfx true f.a).and { sregs := scalarNos f.pfx f.b }
      if link then named.and { vregs := [8 * wb.toNat, 8 * wb.toNat + 1] } else named))
    (h0 : 0 ≤ wb) (ht : 8 * wb ≤ (h.g.total : Int) - 8) (htgt : indTargets h f.pfx f.a = t :: r) :
    indRun causes f shift link s = .next (s.switches h
      (let g := modFibre h.g h.fid fun x => { x with wb := wb.toNat, pc := BitVec.ofNat 64 t, pred := lanesTo h f.pfx f.a t }
       let g := if link then writeLink g h.f.pred wb.toNat (h.next (lenOf f.pfx)) else g
       r.foldl (fun g t => addFibre g (newFibre (BitVec.ofNat 64 t) (lanesTo h f.pfx f.a t) wb.toNat)) g) none) := by
  subst hwb
  have hb := badBase_eq_false h0 ht
  rw [indRun]
  refine ctlRun_ready _ ?_ hb ?_
  · simpa [hb] using e
  · simp only [htgt, addTargets_foldl]
    rfl

end Indirect

/-- `nop` goes on by 4 bytes, whatever its own length (R57; DEDUCED, log 24). -/
theorem execNop_legal {f : GFmt} (e : Legal s h (nopCauses f) false) : execNop f s = .next (s.goesOn h h.g.regs 4) := by
  rw [execNop, issue_here _ e.1, checked_legal _ _ _ e, goesOn_self _ e.1]

end Calls

/-- Settles O21: each branch is one run of the control frame, whose new window base is refused or not; `br.ind`, `ret` and `call.ind` are the same
run with their own shift and link. -/
theorem callsAndIndirect : Obligations.CallsAndIndirect := by
  refine ⟨fun f s h => ⟨execCall_ready rfl, execCall_badBase rfl⟩, ?_, fun f s h => execNop_legal⟩
  simp only [List.forall_mem_cons]
  refine ⟨?brInd, ?ret, ?callInd, by simp⟩ <;>
    exact fun f s h => ⟨indRun_badBase rfl, fun e h0 ht t r => indRun_ready rfl e h0 ht⟩

end Sys2Proof.Machine
end

section
namespace Sys2Proof.Machine

/-! ## One step (R38, R39, R271, R329) -/

section Issue
variable {s t : State} {h : Here} {i : Instr}

/-- The issuing group is at the head of the issue order. -/
theorem here_ready (e : s.here = some h) : s.ready.head? = some h.gid := by
  unfold State.here at e
  split at e
  · cases e
  · rename_i hr
    split at e <;> try cases e
    split at e <;> try cases e
    split at e <;> cases e
    simp [hr]

/-- What makes no burst, or holds its reservation, is not held back (R353). -/
theorem throttle_run (hb : bursts i = false ∨ kilnHeld t (.vector h.core h.g.place.part) = true) : throttle h (.run i t) = .run i t := by
  rcases hb with hb | hb <;> simp [throttle, hb]

/-- With nothing scheduled a step is what the issuing fibre comes to, its group then going behind the others. -/
theorem step_issues (ha : s.agenda = []) (hh : (tickStep s).here = some h) (hn : nextOf (tickStep s) h = .run i t)
    (hb : bursts i = false ∨ kilnHeld t (.vector h.core h.g.place.part) = true) :
    step s = after (exec i t) (rotate (some h.gid)) := by
  have hagenda : (tickStep s).agenda = [] := ha
  have hnext : issueNext (tickStep s) = .run i t := by rw [issueNext, hh]; exact hn ▸ throttle_run hb
  simp only [step, hagenda, issueStep, here_ready hh, hnext]

theorem nextOf_decoded {hs : List Half} {n : Nat} (hm : h.f.micro = none)
    (hf : fetchFrom h.core h.cid h.c h.f.pc.toNat 4 [] s = (.ok hs, t)) (hd : decodeHalves hs = .instr i n) : nextOf s h = .run i t := by
  simp only [nextOf, hm, fetchNext, hf, hd, decodedInstr]

theorem nextOf_micro {m : Micro} {n : Nat} (hm : h.f.micro = some m)
    (hd : decodeUop (SMap.get s.wcs ((bindStart (bindOf h.c m.xi) + m.upc) % 4096)) = .instr i n) : nextOf s h = .run i s := by
  simp only [nextOf, hm, microNext, hd]

end Issue

section Fetch
variable {s t : State} {core cid va : Nat} {c : Ctx}

/-- A halfword whose page is translated and whose line holds no error is read where it lies. -/
theorem fetchHalf_ok {e : TlbEntry} (he : translateRaw s core cid c va false true = (.ok e, t))
    (hp : partsFault t c va true [partOf e va 0 2] = none) : let p := partOf e va 0 2
    fetchHalf s core cid c va = (.ok (BitVec.ofNat 16 (leNat (readPhys t.mem p.space p.pa 2))),
      if p.space = .loc then readLoc t cid p.pa p.n p.world else t) := by
  simp [fetchHalf, he, hp]

theorem fetchFrom_whole {hs : List Half} (n : Nat) (hw : wholeInstr hs = true) : fetchFrom core cid c va (n + 1) hs s = (.ok hs, s) := by
  simp [fetchFrom, hw]

theorem fetchFrom_next {hs : List Half} {x : Half} (n : Nat) (hw : wholeInstr hs = false)
    (hf : fetchHalf s core cid c ((va + 2 * hs.length) % 2 ^ 64) = (.ok x, t)) :
    fetchFrom core cid c va (n + 1) hs s = fetchFrom core cid c va n (hs ++ [x]) t := by
  simp only [fetchFrom, hw, hf]
  rfl

end Fetch

theorem step_event {s : State} {i : Instr} {r : List Turn} (ha : s.agenda = .event i :: r) (hi : scheduled i = true) :
    step s = exec i { tickStep s with agenda := r } := by
  have hagenda : (tickStep s).agenda = .event i :: r := ha
  simp only [step, hagenda, hi, if_true]

theorem step_pass {s : State} {ns : Nat} {r : List Turn} (ha : s.agenda = .pass ns :: r) :
    step s = .next (passTime { tickStep s with agenda := r } ns) := by
  have hagenda : (tickStep s).agenda = .pass ns :: r := ha
  simp only [step, hagenda]

/-- Settles O56: by what is at the head of the schedule; with nothing there, by what the issuing fibre comes to. -/
theorem stepRunsDecoded : Obligations.StepRunsDecoded := by
  refine ⟨?_, ?_, ?_, ?_, ?_, fun s i r => step_event, fun s ns r => step_pass⟩
  · exact fun s t h hs i n ha hh hm hf hd hb => step_issues ha hh (nextOf_decoded hm hf hd) hb
  · exact fun s t core cid va c e he => fetchHalf_ok he
  · exact fun core cid va n c hs s => fetchFrom_whole n
  · exact fun core cid va n c hs s t x => fetchFrom_next n
  · exact fun s h m i ha hh hm hd hb => step_issues ha hh (nextOf_micro hm hd) (.inl hb)

/-! ## The worked examples (R53) -/

/-- A table word whose bytes are those of a well-formed instruction's encoding, and what follows them, is that instruction. -/
theorem decodeTableWord_of_bytes {nbits w : Nat} {i : Instr} (hi : i.wf = true) (hn : encode i ≠ [])
    (hb : encodeBytes i <+: bytesLE (max 8 (nbits / 8)) w) : decodeTableWord nbits w = some i := by
  obtain ⟨rest, hb⟩ := hb
  rw [decodeTableWord, ← hb, (decodeEncode i hi).1 hn]

/-- Settles O57: each word's bytes begin with the encoding of the instruction that the spec gives for it. -/
theorem exampleWords : Obligations.ExampleWords := by
  refine ⟨?_, ?_, ?_, ?_, ?_, ?_, ?_, ?_, ?_, ?_, ?_, ?_⟩ <;> exact decodeTableWord_of_bytes (by decide) (by decide) (by decide)

end Sys2Proof.Machine
end

section
namespace Sys2Proof.Machine

/-- A table read after a change of every record that keeps the keys. -/
theorem Tbl.get?_map {α : Type} (t : Tbl α) (φ : Nat × α → Nat × α) (hφ : ∀ e, (φ e).1 = e.1) (k : Nat) :
    Tbl.get? (t.map φ) k = (Tbl.get? t k).map fun v => (φ (k, v)).2 := by
  induction t with
  | nil => rfl
  | cons e r ih =>
    obtain ⟨k', v⟩ := e
    have hmap : Tbl.get? (((k', v) :: r).map φ) k = if k = (φ (k', v)).1 then some (φ (k', v)).2 else Tbl.get? (r.map φ) k := rfl
    have hcons : Tbl.get? ((k', v) :: r) k = if k = k' then some v else Tbl.get? r k := rfl
    rw [hmap, hcons, hφ, ih]
    split
    · subst k; rfl
    · rfl

/-! ## Waiting and going on (R92, R120, R340) -/

/-- A group as its wait begins: out of its slot, its runnable fibres waiting. -/
def Group.awaits (g : Group) (w : Wait) : Group :=
  { g with place := { g.place with slot := none }, regs := { g.regs with ring := [] }, wait := some w, cur := none, starved := [],
           fibres := g.fibres.map fun e => if e.2.st == .runnable then (e.1, { e.2 with st := .waiting }) else e }

/-- A group as the wait `w` ends at step `now`: its waiting fibres runnable, the issuing one behind the instruction. -/
def Group.resumed (g : Group) (w : Wait) (now : Nat) : Group :=
  { g with wait := none, readyAt := now,
           fibres := g.fibres.map fun e =>
             if e.2.st == .waiting then
               (e.1, { e.2 with st := .runnable, pc := if e.1 = w.fib then e.2.pc + BitVec.ofNat 64 w.len else e.2.pc })
             else e }

section Waits
variable {s : State} {gid : Nat} {g : Group} {w : Wait}

theorem get?_beginWait (hg : Tbl.get? s.groups gid = some g) : Tbl.get? (beginWait s gid w).groups gid = some (g.awaits w) := by
  simp [beginWait, leaveSlot, hg, Group.awaits]

theorem get?_endWait (hg : Tbl.get? s.groups gid = some g) (hw : g.wait = some w) :
    Tbl.get? (endWait s gid).groups gid = some (g.resumed w s.steps) := by
  simp [endWait, hg, hw, Group.resumed]

theorem awaits_fibre {k : Nat} {x : Fibre} (hx : Tbl.get? g.fibres k = some x) (hst : x.st = .runnable) :
    Tbl.get? (g.awaits w).fibres k = some { x with st := .waiting } := by
  rw [Group.awaits, Tbl.get?_map _ _ fun e => by split <;> rfl, hx]
  simp [hst]

theorem resumed_vec (now reg lane : Nat) : (g.resumed w now).regs.vec reg lane = g.regs.vec reg lane := rfl

theorem resumed_issuing_fibre {k now : Nat} {x : Fibre} (hk : w.fib = k) (hx : Tbl.get? g.fibres k = some x) (hst : x.st = .waiting) :
    Tbl.get? (g.resumed w now).fibres k = some { x with st := .runnable, pc := x.pc + BitVec.ofNat 64 w.len } := by
  rw [Group.resumed, Tbl.get?_map _ _ fun e => by split <;> rfl, hx]
  simp [hst, hk]

end Waits

/-! ## FREE and the claim queue (R82 to R85) -/

section Claims
variable {s : State} {core gid n : Nat} {b : Block} {g : Group} {w : Wait}

/-- FREE(core), a 16-bit number, is what was set. -/
theorem freeOf_set {v : Nat} (hv : v < 2 ^ 16) : freeOf { b with free := SMap.set b.free (coreIdx b gid) (BitVec.ofNat 16 v) } gid = v := by
  have hidx : ∀ m, coreIdx { b with free := m } gid = coreIdx b gid := fun _ => rfl
  simp only [freeOf, hidx, SMap.get_set_same, BitVec.toNat_ofNat, Nat.mod_eq_of_lt hv]

theorem freeOf_lt (b : Block) (gid : Nat) : freeOf b gid < 2 ^ 16 := (SMap.get b.free (coreIdx b gid)).isLt

theorem get?_setFree {v : Nat} (hb : Tbl.get? s.blocks (bsnOf gid) = some b) : Tbl.get? (setFree s gid v).blocks (bsnOf gid) =
    some { b with free := SMap.set b.free (coreIdx b gid) (BitVec.ofNat 16 v) } := by
  simp [setFree, hb]

theorem grantHead_none (hq : claimsOf s core = []) : grantHead s core = s := by
  rw [grantHead, hq]; rfl

/-- The only claim of a core is granted where FREE holds its registers, and stays in the queue where it does not. -/
theorem grantHead_single (hq : claimsOf s core = [gid]) (hg : Tbl.get? s.groups gid = some g) (hb : Tbl.get? s.blocks (bsnOf gid) = some b)
    (hw : g.wait = some w) (hk : w.kind = .claim n) :
    grantHead s core = if n ≤ freeOf b gid then grantOne s core gid n (freeOf b gid) else s := by
  have hhead : headClaim s core = some (gid, n, freeOf b gid) := by simp only [headClaim, hq, hg, hb, hw, hk]
  simp only [grantHead, hq, List.length_singleton, grantClaims, hhead]

/-! ## A grant (R84, R88) -/

/-- A group with `n` more registers, each 0, in the partitions `e`. -/
def Group.grown (g : Group) (n : Nat) (e : List Nat) : Group :=
  { g with total := g.total + n, ext := g.ext ++ e,
           regs := { g.regs with vreg := SMap.keep g.regs.vreg fun k => k < g.total * 64 || (g.total + n) * 64 ≤ k } }

/-- A group that takes `v` in the destination scalar, where there is one. -/
def Group.takes (g : Group) (d : Option Nat) (v : W64) : Group :=
  match d with
  | some d => setSreg g d v
  | none => g

@[simp] theorem takes_total (g : Group) (d : Option Nat) (v : W64) : (g.takes d v).total = g.total := by cases d <;> rfl
@[simp] theorem takes_fibres (g : Group) (d : Option Nat) (v : W64) : (g.takes d v).fibres = g.fibres := by cases d <;> rfl

theorem takes_vec (g : Group) (d : Option Nat) (v : W64) (reg lane : Nat) : (g.takes d v).regs.vec reg lane = g.regs.vec reg lane := by
  cases d <;> rfl

theorem takes_sreg (g : Group) (d : Nat) (v : W64) : SMap.get (g.takes (some d) v).regs.sreg d = v := SMap.get_set_same ..

theorem grown_vec_kept {e : List Nat} {reg lane : Nat} (hl : lane < 64) (hr : reg < g.total) :
    (g.grown n e).regs.vec reg lane = g.regs.vec reg lane := by
  have hkey : reg * 64 + lane < g.total * 64 := by omega
  simp [Regs.vec, Group.grown, SMap.get_keep, hkey]

theorem grown_vec_zero {e : List Nat} {reg lane : Nat} (hl : lane < 64) (hlo : g.total ≤ reg) (hhi : reg < g.total + n) :
    (g.grown n e).regs.vec reg lane = 0 := by
  have hlow : ¬ reg * 64 + lane < g.total * 64 := by omega
  have hhigh : ¬ (g.total + n) * 64 ≤ reg * 64 + lane := by omega
  simp [Regs.vec, Group.grown, SMap.get_keep, hlow, hhigh]

/-- A granted group has grown, takes the allotment word and goes on. -/
theorem get?_grantOne {free : Nat} (hg : Tbl.get? s.groups gid = some g) (hw : g.wait = some w) : ∃ e,
    Tbl.get? (grantOne s core gid n free).groups gid =
      some (((g.grown n e).takes w.dst (allotWord (free - n) (g.total + n) g.base)).resumed w s.steps) := by
  refine ⟨placeExt (partRegs (setFree s gid (free - n)) core) (n / 8) s.freeCtr, ?_⟩
  cases hd : w.dst <;>
    simp [grantOne, setFree, endWaitWith, endWait, hg, hw, hd, Group.grown, Group.takes, Group.resumed]

theorem endWaitWith_blocks (v : W64) : (endWaitWith s gid v).blocks = s.blocks := by
  unfold endWaitWith
  cases hg : Tbl.get? s.groups gid with
  | none => rfl
  | some g =>
    cases hw : g.wait with
    | none => simp only [hw]
    | some w => cases hd : w.dst <;> simp [hw, hd, endWait]

/-- Of the blocks, a grant changes FREE alone. -/
theorem grantOne_blocks (free : Nat) : (grantOne s core gid n free).blocks = (setFree s gid (free - n)).blocks := by
  unfold grantOne
  dsimp only
  split
  · rw [endWaitWith_blocks]; rfl
  · rfl

end Claims

/-! ## The instructions (R84 to R87) -/

section Instructions
variable {f : GFmt} {s : State} {h : Here} {n : Nat}

/-- The state in which the group waits for `n` registers and its claim is the only one of its core. -/
def State.claims (s : State) (h : Here) (n len : Nat) (d : Option Nat) : State :=
  { s.waits h (.claim n) len d with claimq := Tbl.set s.claimq h.core [h.gid] }

/-- What the issuing group waits for there. -/
def Here.claimWait (h : Here) (n len : Nat) (d : Option Nat) : Wait := { kind := .claim n, fib := h.fid, len := len, dst := d }

/-- A claim in range that finds the queue empty comes to its head at once. -/
theorem execVClaim_single (e : PairReady s h (vClaimCauses f) false f) (hn : (uniVal h.g f.pfx f.b).toNat = n) (h1 : 1 ≤ n) (h31 : n ≤ 31)
    (htotal : h.g.total + 8 * n ≤ 256) (hpool : 8 * n ≤ h.b.foot.pool) (hq : claimsOf s h.core = []) :
    execVClaim f s = .next (grantHead (s.claims h (8 * n) (lenOf f.pfx) (dstOf f.pfx f.a)) h.core) := by
  have hrange : (n < 1 || 31 < n || 256 < h.g.total + 8 * n || h.b.foot.pool < 8 * n) = false := by
    simp only [Bool.or_eq_false_iff, decide_eq_false_iff_not]; omega
  have hq' (w : Wait) : claimsOf (beginWait s h.gid w) h.core = [] := hq
  rw [execVClaim, gRun_pair _ e]
  simp only [hn, hrange, hq', Bool.false_eq_true, if_false, List.nil_append]
  rfl

theorem execVClaim_range (e : PairReady s h (vClaimCauses f) false f) (hn : (uniVal h.g f.pfx f.b).toNat = n)
    (hr : n < 1 ∨ 31 < n ∨ 256 < h.g.total + 8 * n ∨ h.b.foot.pool < 8 * n) :
    execVClaim f s = .next (raise s h h.f.pred (lenOf f.pfx) 0x010 0 0) := by
  have hrange : (n < 1 || 31 < n || 256 < h.g.total + 8 * n || h.b.foot.pool < 8 * n) = true := by simpa [or_assoc] using hr
  rw [execVClaim, gRun_pair _ e]
  simp only [hn, hrange, if_true, raiseP]

section Head
variable {len : Nat} {d : Option Nat} (hh : s.here = some h)
include hh

theorem claims_group : Tbl.get? (s.claims h n len d).groups h.gid = some (h.g.awaits (h.claimWait n len d)) := get?_beginWait (here_group hh)

theorem claims_block : Tbl.get? (s.claims h n len d).blocks (bsnOf h.gid) = some h.b := here_block (s := s) hh

/-- FREE decides what becomes of the claim. -/
theorem grantHead_claims : grantHead (s.claims h n len d) h.core =
    if n ≤ freeOf h.b h.gid then grantOne (s.claims h n len d) h.core h.gid n (freeOf h.b h.gid) else s.claims h n len d := by
  have hq : claimsOf (s.claims h n len d) h.core = [h.gid] := by simp [claimsOf, State.claims]
  exact grantHead_single hq (claims_group hh) (claims_block hh) rfl rfl

/-- A claim granted at once: the group with its new registers, the block with FREE lowered. -/
theorem grantOne_claims (hst : h.f.st = .runnable) : let free := freeOf h.b h.gid
    ∃ g b, Tbl.get? (grantOne (s.claims h n len d) h.core h.gid n free).groups h.gid = some g ∧ g.total = h.g.total + n ∧ g.wait = none ∧
      Tbl.get? (grantOne (s.claims h n len d) h.core h.gid n free).blocks h.bsn = some b ∧ freeOf b h.gid = free - n ∧
      (∀ reg lane, lane < 64 → reg < h.g.total → g.regs.vec reg lane = h.g.regs.vec reg lane) ∧
      (∀ reg lane, lane < 64 → h.g.total ≤ reg → reg < h.g.total + n → g.regs.vec reg lane = 0) ∧
      (∀ k, d = some k → SMap.get g.regs.sreg k = allotWord (free - n) (h.g.total + n) h.g.base) ∧
      Tbl.get? g.fibres h.fid = some { h.f with pc := h.next len } := by
  intro free
  have hfree : free - n < 2 ^ 16 := Nat.lt_of_le_of_lt (Nat.sub_le ..) (freeOf_lt h.b h.gid)
  obtain ⟨e, hgrant⟩ := get?_grantOne (core := h.core) (n := n) (free := free) (claims_group (len := len) (d := d) hh) rfl
  refine ⟨_, _, hgrant, takes_total .., rfl, (by rw [grantOne_blocks]; exact get?_setFree (claims_block hh)), freeOf_set hfree, ?kept, ?zero, ?word, ?fibre⟩
  case kept =>
    intro reg lane hl hr
    rw [resumed_vec, takes_vec]
    exact grown_vec_kept hl hr
  case zero =>
    intro reg lane hl hlo hhi
    rw [resumed_vec, takes_vec]
    exact grown_vec_zero hl hlo hhi
  case word => rintro k rfl; exact takes_sreg ..
  case fibre =>
    have hwaits := awaits_fibre (w := h.claimWait n len d) (here_fibre hh) hst
    rw [resumed_issuing_fibre (k := h.fid) rfl (by rw [takes_fibres]; exact hwaits) rfl, ← hst]
    rfl

end Head

/-- A group's registers cut down to the first `t`. -/
def Group.shrunk (g : Group) (t : Nat) : Group :=
  { g with total := t, ext := g.ext.take ((t - g.base) / 8), regs := { g.regs with vreg := SMap.keep g.regs.vreg fun k => k < t * 64 } }

/-- A release with no claim queued: the group is cut down, FREE rises, and A takes the allotment word. -/
theorem execVRel_ready (e : PairReady s h (vRelCauses f) false f) (hn : (uniVal h.g f.pfx f.b).toNat = n) (h1 : 1 ≤ n)
    (hbase : 8 * n ≤ h.g.total - h.g.base) (hwin : h.g.fibres.any (fun e => decide (h.g.total < 8 * e.2.wb + 8 * n + 8)) = false)
    (hregs : RegsFree s h { vregs := (List.range (8 * n)).map fun k => h.g.total - 8 * n + k })
    (hq : claimsOf s h.core = []) (hfree : freeOf h.b h.gid + 8 * n ≤ 4096) : let t := h.g.total - 8 * n
    let free := freeOf h.b h.gid + 8 * n
    execVRel f s = .next ((setFree (modGroup s h.gid fun g => g.shrunk t) h.gid free).answers h (dstOf f.pfx f.a)
      (allotWord free t h.g.base) (lenOf f.pfx)) := by
  intro t free
  have hrange : (n < 1 || h.g.total - h.g.base < 8 * n || h.g.fibres.any (fun e => h.g.total < 8 * e.2.wb + 8 * n + 8)) = false := by
    simp only [hwin, Bool.or_false, Bool.or_eq_false_iff, decide_eq_false_iff_not]; omega
  have hgrant : grantHead (setFree (modGroup s h.gid fun g => g.shrunk t) h.gid free) h.core =
      setFree (modGroup s h.gid fun g => g.shrunk t) h.gid free := grantHead_none hq
  have hb : Tbl.get? (modGroup s h.gid fun g => g.shrunk t).blocks (bsnOf h.gid) = some h.b :=
    here_block (s := s) e.1.1
  have hblock := get?_setFree (v := free) hb
  simp only [Group.shrunk] at hgrant hblock
  rw [execVRel, gRun_pair _ e]
  simp only [hn, hrange, Bool.false_eq_true, if_false, withRegs_free _ e.1.1 hregs]
  rw [hgrant]
  simp only [Here.bsn, hblock, freeOf_set (show free < 2 ^ 16 by omega)]
  rfl

theorem execVRel_range (e : PairReady s h (vRelCauses f) false f) (hn : (uniVal h.g f.pfx f.b).toNat = n)
    (hr : n < 1 ∨ h.g.total - h.g.base < 8 * n ∨ h.g.fibres.any (fun e => decide (h.g.total < 8 * e.2.wb + 8 * n + 8)) = true) :
    execVRel f s = .next (raise s h h.f.pred (lenOf f.pfx) 0x010 0 0) := by
  have hrange : (n < 1 || h.g.total - h.g.base < 8 * n || h.g.fibres.any (fun e => h.g.total < 8 * e.2.wb + 8 * n + 8)) = true := by
    simpa only [Bool.or_eq_true, decide_eq_true_eq, or_assoc] using hr
  rw [execVRel, gRun_pair _ e]
  simp only [hn, hrange, if_true, raiseP]

/-- `win.set` and `win.add` take the new base within the group's registers, answering the old one, and refuse it elsewhere. -/
theorem winRun_base {causes : List Nat} (new : Here → Int) (e : PairReady s h causes false f) :
    (0 ≤ new h → 8 * new h ≤ (h.g.total : Int) - 8 → winRun causes f new s = .next
      ((h.setFib s fun x => { x with wb := (new h).toNat }).answers h (dstOf f.pfx f.a) (BitVec.ofNat 64 (8 * h.f.wb)) (lenOf f.pfx))) ∧
    (new h < 0 ∨ (h.g.total : Int) - 8 < 8 * new h → winRun causes f new s = .next (raise s h h.f.pred (lenOf f.pfx) 0x002 0 0)) := by
  rw [winRun, gRun_pair _ e]
  refine ⟨fun h0 ht => ?_, fun hb => ?_⟩
  · simp only [badBase_eq_false h0 ht, Bool.false_eq_true, if_false]
    rfl
  · simp only [badBase_eq_true hb, if_true, raiseP]

end Instructions

/-- Settles O29: a claim that finds the queue empty is granted or left by FREE; a release with no claim behind it wakes none; a window base is
refused exactly outside the group's registers. -/
theorem registerAllocation : Obligations.RegisterAllocation := by
  refine ⟨?claim, ?range, ?release, ?window⟩
  case claim =>
    intro f s h n e hn h1 h31 htotal hpool hq
    have hexec : exec (.vClaim f) s = _ := execVClaim_single e hn h1 h31 htotal hpool hq
    rw [grantHead_claims e.1.1] at hexec
    refine ⟨fun hshort => ?_, fun hroom hst => ?_⟩
    · rw [hexec, if_neg (by omega)]; rfl
    · rw [if_pos hroom] at hexec
      obtain ⟨g, b, hgrant⟩ := grantOne_claims e.1.1 hst
      exact ⟨_, g, b, hexec, hgrant⟩
  case range => exact fun f s h => ⟨fun e => execVClaim_range e rfl, fun e => execVRel_range e rfl⟩
  case release => exact fun f s h n => execVRel_ready
  case window =>
    rintro f s h i causes wb (⟨rfl, rfl, rfl⟩ | ⟨rfl, rfl, rfl⟩) e
    · exact winRun_base (fun h => (uniVal h.g f.pfx f.b).toNat) e
    · exact winRun_base (fun h => h.f.wb + (uniVal h.g f.pfx f.b).toInt) e

end Sys2Proof.Machine
end

section
namespace Sys2Proof.Machine

/-! ## Branches and the ends of fibres (R125, R126, R129 to R131) -/

section Fibres
variable {s : State} {h : Here}

/-- A branch changes only the fibre table of the group that it splits, which a frame opened before it leaves as it was. -/
theorem splitFibre_eq_branched {g : Group} (hg : g.fibres = h.g.fibres) (tk target : W64) (len : Nat) :
    splitFibre g h tk target len = { g with fibres := Branched h tk target (h.next len) } := by
  simp only [splitFibre, Branched]
  split
  · rw [modFibre, hg]
  · split
    · rw [modFibre, hg]; rfl
    · rw [modFibre, hg]; rfl

section Branch
variable {f : JFmt} (e : OnceReady s h (jCauses f) (nameSel h f.pfx false f.c))
include e

theorem execBr_ready : execBr f s = .next (s.switches h
    { h.g with fibres := Branched h (TakenLanes h f.pfx f.c) (branchTarget h f.off) (h.next (lenOf f.pfx)) } none) :=
  ctlRun_ready _ e rfl (congrArg _ (splitFibre_eq_branched rfl ..))

theorem execBrn_ready : execBrn f s = .next (s.switches h
    { h.g with fibres := Branched h (h.f.pred &&& ~~~(TakenLanes h f.pfx f.c)) (branchTarget h f.off) (h.next (lenOf f.pfx)) } none) :=
  ctlRun_ready _ e rfl (congrArg _ (splitFibre_eq_branched rfl ..))

theorem execFibFork_opens (hfr : h.g.frames.length < 16) : execFibFork f s = .next (s.switches h
    { openFrame h.g h.f.pred with
      fibres := Branched h (TakenLanes h f.pfx f.c) (branchTarget h f.off) (h.next (lenOf f.pfx)) } none) :=
  ctlRun_ready _ e rfl ((if_neg (by omega)).trans (congrArg _ (splitFibre_eq_branched (g := openFrame h.g h.f.pred) rfl ..)))

theorem execFibFork_overflow (hfr : 16 ≤ h.g.frames.length) :
    execFibFork f s = .next (raise s h h.f.pred (lenOf f.pfx) 0x018 0 0) :=
  ctlRun_error _ e rfl (if_pos hfr)

end Branch

/-- A control instruction without operands reaches every register that it names. -/
theorem onceReady_bare {causes : List Nat} (e : ScalarReady s h causes {}) : OnceReady s h causes {} := ⟨e, rfl, rfl⟩

theorem execFibJoin_arrives {f : GFmt} (e : ScalarReady s h (fibJoinCauses f) {}) (hj : joinRefused h.g h.f = false) :
    let rest := unframed h.g h.f.pred
    let g := { h.g with frames := arrive h.g h.f }
    execFibJoin f s = .next (s.switches h (completeFrames
      (if rest = 0 then endFibre g h.fid else modFibre g h.fid fun x => { x with pred := rest, pc := x.pc + 4 })) none) :=
  ctlRun_ready _ (onceReady_bare e) rfl (if_neg (by simp [hj]))

theorem execFibJoin_refused {f : GFmt} (e : ScalarReady s h (fibJoinCauses f) {}) (hj : joinRefused h.g h.f = true) :
    execFibJoin f s = .next (raise s h h.f.pred (lenOf f.pfx) 0x019 0 0) :=
  ctlRun_error _ (onceReady_bare e) rfl (if_pos hj)

theorem execFibExit_ready {f : GFmt} (e : ScalarReady s h (fibExitCauses f) {}) :
    execFibExit f s = .next (s.switches h (exitLanes (endFibre h.g h.fid) h.f.pred) none) :=
  ctlRun_ready _ (onceReady_bare e) rfl rfl

theorem execFibYield_ready {f : GFmt} (e : ScalarReady s h (fibYieldCauses f) {}) :
    execFibYield f s = .next (s.switches h (modFibre h.g h.fid fun x => { x with pc := h.f.pc + 4 }) (some h.fid)) := by
  have hpc : Tbl.modify h.g.fibres h.fid (fun x => { x with pc := x.pc + 4 }) =
      Tbl.modify h.g.fibres h.fid fun x => { x with pc := h.f.pc + 4 } := Tbl.modify_congr _ _ _ _ h.f (here_fibre e.1.1) rfl
  rw [modFibre, ← hpc]
  exact ctlRun_ready _ (onceReady_bare e) rfl rfl

end Fibres

/-- Settles O20: the three are one run of the control frame, whose effect splits the fibre; `fib.fork` opens its frame first, or finds 16 open. -/
theorem branches : Obligations.Branches := fun _ _ _ e =>
  ⟨execBr_ready e, execBrn_ready e, execFibFork_opens e, execFibFork_overflow e⟩

/-- Settles O22: each is one run of the control frame without operands, whose only refusal is that of a frame at `fib.join`. -/
theorem fibreInstructions : Obligations.FibreInstructions :=
  ⟨fun _ _ _ => execFibJoin_arrives, fun _ _ _ => execFibJoin_refused, fun _ _ _ => execFibExit_ready, fun _ _ _ => execFibYield_ready⟩

end Sys2Proof.Machine
end

section
namespace Sys2Proof.Machine

/-! ## Taking an exception (R132, R133, R147) -/

/-- A change of a record that a test does not see leaves the number of records that pass it. -/
theorem Tbl.length_filter_modify {α : Type} (p : Nat × α → Bool) (t : Tbl α) {k : Nat} {f : α → α} {v : α} (hv : Tbl.get? t k = some v)
    (hp : p (k, f v) = p (k, v)) : ((Tbl.modify t k f).filter p).length = (t.filter p).length := by
  induction t with
  | nil => rfl
  | cons e r ih =>
    obtain ⟨k', v'⟩ := e
    by_cases hk : k = k'
    · subst hk
      obtain rfl : v' = v := by simpa [Tbl.get?] using hv
      simp [Tbl.modify, List.filter_cons, hp, apply_ite List.length]
    · rw [Tbl.get?, if_neg hk] at hv
      simp [Tbl.modify, hk, List.filter_cons, apply_ite List.length, ih hv]

/-- The invocations of a context are counted by their groups' records, whatever else of a group changes. -/
theorem inService_modGroup {s : State} {gid : Nat} {g g' : Group} (cid : Nat) (hg : Tbl.get? s.groups gid = some g)
    (hh : g'.handler = g.handler) : inService (modGroup s gid fun _ => g') cid = inService s cid :=
  Tbl.length_filter_modify _ _ hg (by simp only [modGroup_blocks, hh])

/-- A record joins the trap queue of a context with a handler kernel and room. -/
theorem placeRecord_queued {s : State} {cid : Nat} {c : Ctx} (r : TrapRec) (hc : Tbl.get? s.ctxs cid = some c)
    (hk : c.handler.isSome = true) (hroom : c.queues.trapq.length + inService s cid < 256) :
    placeRecord s cid r = modCtx s cid fun c => { c with queues := { c.queues with trapq := c.queues.trapq ++ [r] } } := by
  have hnone : c.handler.isNone = false := by simpa using hk
  have hfull : ¬256 ≤ c.queues.trapq.length + inService s cid := by omega
  simp only [placeRecord, hc, hnone, Bool.false_eq_true, if_false, if_neg hfull]

/-- A group of which a whole fibre, its current one, parks at `pc`. -/
def Here.parked (h : Here) (pc : W64) (micro : Option Micro) : Group :=
  { h.g with fibres := Tbl.set h.g.fibres h.fid { h.f with pc := pc, st := .parked, micro := micro },
             starved := h.g.starved.filter (· != h.fid), regs := { h.g.regs with ring := [] } }

/-- All the lanes of the issuing fibre park in its own slot; with nothing in flight no access is performed before. -/
theorem parkLanes_whole {s : State} {h : Here} (pc : W64) (micro : Option Micro) (hh : s.here = some h)
    (hq : inFlight s (fun a => a.gid == h.gid) = false) :
    parkLanes s h h.f.pred pc micro = some (modGroup s h.gid fun _ => h.parked pc micro, h.fid, true) := by
  have hquiet : ∀ g, drainGroup (modGroup s h.gid fun _ => g) h.gid = modGroup s h.gid fun _ => g := fun _ => drainGroup_quiet hq
  simp only [parkLanes, here_group hh, here_fibre hh, hquiet, parkIn, if_true, beq_self_eq_true]
  rfl

/-- Settles O23: the fibre parks in its slot, its record is placed, and the group comes to a switch point. -/
theorem trapEntry : Obligations.TrapEntry := by
  intro s h pc tpc cls code sub addr hh hq hcls hk hroom r g
  have hg : Tbl.get? s.groups h.gid = some h.g := here_group hh
  have hc : Tbl.get? (modGroup s h.gid fun _ => g).ctxs h.cid = some h.c := here_ctx (s := s) hh
  have hplace : placeRecord (modGroup s h.gid fun _ => g) h.cid r = modCtx (modGroup s h.gid fun _ => g) h.cid _ :=
    placeRecord_queued r hc hk (by rwa [inService_modGroup (g' := g) h.cid hg rfl])
  rw [takeTrap, parkLanes_whole pc none hh hq]
  simp only [hcls, Bool.false_eq_true, if_false, if_true]
  exact congrArg (afterSwitch · h.gid none) hplace

end Sys2Proof.Machine
end

section
namespace Sys2Proof.Machine

/-! ## Handler instructions (R134 to R137, R145) -/

section Handlers
variable {s : State} {h : Here} {f : GFmt}

section Refusals
variable {causes : List Nat} {handle : Byte} {regs : List Nat} (k : State → Here → Nat → Nat → Nat → State) (e : Legal s h causes false)
include e

theorem pkRun_notHandler (hh : h.isHandler = false) :
    pkRun causes f handle regs k s = .next (raise s h h.f.pred (lenOf f.pfx) 0x005 0 0) := by
  rw [pkRun, issue_here _ e.1, checked_legal _ _ _ e, if_pos (by simp [hh]), raiseP]

theorem pkRun_deadHandle (hh : h.isHandler = true) (hf : RegsFree s h { sregs := regs })
    (hv : liveHandle s h.cid (uniVal h.g f.pfx handle) = none) :
    pkRun causes f handle regs k s = .next (raise s h (h.act 0) (lenOf f.pfx) 0x01A 0 0) := by
  rw [pkRun, issue_here _ e.1, checked_legal _ _ _ e, if_neg (by simp [hh]), withRegs_free _ e.1 hf, hv, raiseA]

/-- What comes to a handler instruction's run is refused as the run is. -/
theorem refused_of_pkRun {o : Out} (ho : o = pkRun causes f handle regs k s) :
    (h.isHandler = false → o = .next (raise s h h.f.pred (lenOf f.pfx) 0x005 0 0)) ∧
    (h.isHandler = true → RegsFree s h { sregs := regs } → liveHandle s h.cid (uniVal h.g f.pfx handle) = none →
      o = .next (raise s h (h.act 0) (lenOf f.pfx) 0x01A 0 0)) := by
  rw [ho]
  exact ⟨pkRun_notHandler k e, pkRun_deadHandle k e⟩

end Refusals

theorem execPkRd_ready {gid k : Nat} {x : Fibre}
    (e : ScalarReady s h (pkRdCauses f) { sregs := (let d := scalarNo f.pfx f.a; [d, d + 1, d + 2]) ++ scalarNos f.pfx f.b })
    (hh : h.isHandler = true) (hv : liveHandle s h.cid (uniVal h.g f.pfx f.b) = some (gid, k)) (hx : fibreAt s gid k = some x) :
    let d := scalarNo f.pfx f.a
    execPkRd f s = .next (h.advance (modGroup s h.gid fun g =>
      setSreg (setSreg (setSreg g d x.pc) (d + 1) x.pred) (d + 2) (fibreWord k x)) (lenOf f.pfx)) := by
  rw [execPkRd, pkRun_ready _ e hh hv, hx]

section Edits
variable {gid k : Nat} {x : Fibre} (hh : h.isHandler = true) (hv : liveHandle s h.cid (uniVal h.g f.pfx f.a) = some (gid, k))
include hh hv

theorem execPkResume_ready (e : ScalarReady s h (pkResumeCauses f) { sregs := scalarNos f.pfx f.a }) :
    execPkResume f s = .next (settleGroup (modGroup (h.advance s (lenOf f.pfx)) gid fun g =>
      modFibre g k fun x => { x with st := .runnable }) gid true (issuable s gid)) :=
  pkRun_ready _ e hh hv

variable (hx : fibreAt s gid k = some x)
include hx

theorem execPkPc_ready (e : ScalarReady s h (pkPcCauses f) { sregs := scalarNos f.pfx f.a ++ scalarNos f.pfx f.b }) :
    execPkPc f s = .next (modGroup (abortAt (h.advance s (lenOf f.pfx)) h gid x) gid fun g =>
      modFibre g k fun x => { x with pc := uniVal h.g f.pfx f.b &&& ~~~1, micro := none }) := by
  rw [execPkPc, pkRun_ready _ e hh hv, hx]

theorem execPkKill_ready (e : ScalarReady s h (pkKillCauses f) { sregs := scalarNos f.pfx f.a }) :
    execPkKill f s = .next (exitAt (abortAt (h.advance s (lenOf f.pfx)) h gid x) gid k x.pred 0) := by
  rw [execPkKill, pkRun_ready _ e hh hv, hx]

section Mask
variable {v : W64} (hval : uniVal h.g f.pfx f.b = v)
  (e : ScalarReady s h (pkMaskCauses f) { sregs := scalarNos f.pfx f.a ++ scalarNos f.pfx f.b })
include hval e

theorem execPkMask_all (hm : v = x.pred) : execPkMask f s = .next (h.advance s (lenOf f.pfx)) := by
  rw [execPkMask, pkRun_ready _ e hh hv]
  simp only [hx, hval, hm, BitVec.and_not_self, bne_self_eq_false, Bool.false_eq_true, if_false, if_true]

theorem execPkMask_subset (hsub : v &&& ~~~x.pred = 0) (hm : v ≠ x.pred) :
    execPkMask f s = .next (exitAt (h.advance s (lenOf f.pfx)) gid k (x.pred &&& ~~~v) v) := by
  rw [execPkMask, pkRun_ready _ e hh hv]
  simp only [hx, hval, hsub, bne_self_eq_false, Bool.false_eq_true, if_false, if_neg hm]

theorem execPkMask_notSubset (hsub : v &&& ~~~x.pred ≠ 0) :
    execPkMask f s = .next (raise s h (h.act 0) (lenOf f.pfx) 0x01A 0 0) := by
  rw [execPkMask, pkRun_ready _ e hh hv]
  simp only [hx, hval, if_pos (bne_iff_ne.2 hsub), raiseA]

end Mask
end Edits

section Return
variable (e : Legal s h (hdlRetCauses f) false)
include e

theorem execHdlRet_handler (hh : h.isHandler = true) : execHdlRet f s = .next (endGroup s h.gid) := by
  rw [execHdlRet, issue_here _ e.1, checked_legal _ _ _ e, if_neg (by simp [hh])]

theorem execHdlRet_notHandler (hh : h.isHandler = false) :
    execHdlRet f s = .next (raise s h h.f.pred (lenOf f.pfx) 0x005 0 0) := by
  rw [execHdlRet, issue_here _ e.1, checked_legal _ _ _ e, if_pos (by simp [hh]), raiseP]

end Return
end Handlers

/-- Settles O28: the five `pk` instructions are one run, refused alike, with an effect each on the fibre that the handle names. -/
theorem handlerInstructions : Obligations.HandlerInstructions := by
  refine ⟨⟨fun f s h k x e hh gid => execPkRd_ready e hh, ?edits, fun f s h => execHdlRet_handler⟩, ?refusals,
    fun f s h => execHdlRet_notHandler⟩
  case edits =>
    intro f s h gid k x hh hv hx
    exact ⟨fun e => ⟨execPkMask_all hh hv hx rfl e, execPkMask_subset hh hv hx rfl e, execPkMask_notSubset hh hv hx rfl e⟩,
      execPkPc_ready hh hv hx, execPkResume_ready hh hv, execPkKill_ready hh hv hx⟩
  case refusals =>
    simp only [List.forall_mem_cons]
    exact ⟨fun f s _ e => refused_of_pkRun (o := execPkRd f s) _ e (by rw [execPkRd]),
      fun f s _ e => refused_of_pkRun (o := execPkMask f s) _ e rfl, fun f s _ e => refused_of_pkRun (o := execPkPc f s) _ e rfl,
      fun f s _ e => refused_of_pkRun (o := execPkResume f s) _ e rfl, fun f s _ e => refused_of_pkRun (o := execPkKill f s) _ e rfl,
      by simp⟩

end Sys2Proof.Machine
end

section
namespace Sys2Proof.Machine

/-! ## System registers, software traps and signals (R141 to R146, R151 to R153) -/

section SystemRegisters
variable {s : State} {h : Here} {f : YFmt}

/-- A once-per-issue instruction with no static cause, before it names any register, comes to what it does at the issuing fibre. -/
theorem issue_checked_legal {causes : List Nat} {svc : Bool} {msk len : Nat} (k : Here → State) (e : Legal s h causes svc) :
    issue s (fun h => checked s h causes svc msk len (k h)) = .next (k h) := by
  rw [issue_here _ e.1, checked_legal _ _ _ e]

/-- TRAPCAUSE, TRAPPC and TRAPADDR are those of the record that the group serves (R141, R142, R149). -/
theorem readSys_trap (s : State) (h : Here) :
    readSys s h 0x010 = h.g.handler.map (·.cause) ∧ readSys s h 0x011 = h.g.handler.map (·.pc &&& ~~~1) ∧
      readSys s h 0x012 = h.g.handler.map (·.addr) := ⟨rfl, rfl, rfl⟩

/-! `sys.rd` (R143, R145). -/

theorem execSysRd_readable {v : W64} (hv : readSys s h f.sys.toNat = some v)
    (e : ScalarReady s h (sysRdCauses f) { sregs := [scalarNo f.pfx f.a] }) :
    execSysRd f s = .next (s.goesOn h (setSreg h.g (scalarNo f.pfx f.a) v).regs (lenOf f.pfx)) := by
  rw [execSysRd, issue_checked_legal _ e.1, hv]
  dsimp only
  rw [withRegs_free _ e.1.1 e.2, hv, Option.getD_some, goesOn_fun _ _ e.1.1 rfl]

theorem execSysRd_unreadable (hv : readSys s h f.sys.toNat = none) (e : Legal s h (sysRdCauses f) false) :
    execSysRd f s = .next (raise s h h.f.pred (lenOf f.pfx) 0x005 0 0) := by
  rw [execSysRd, issue_checked_legal _ e, hv, raiseP]

/-! `sys.wr` (R143 to R146). -/

theorem gangOk_iff (v : W64) : gangOk v = true ↔ v.toNat / 2 ^ 51 = 0 ∧ v.toNat / 2 ^ 48 ≤ 6 := by
  simp [gangOk]

theorem execSysWr_notWritable (e : Legal s h (sysWrCauses f) false) (hgang : f.sys.toNat ≠ 0x001) (hwake : f.sys.toNat ≠ 0x004) :
    execSysWr f s = .next (raise s h h.f.pred (lenOf f.pfx) 0x005 0 0) := by
  rw [execSysWr, issue_checked_legal _ e, if_pos (by simp [hgang, hwake]), raiseP]

section Write
variable (e : ScalarReady s h (sysWrCauses f) { sregs := scalarNos f.pfx f.a })
include e

theorem execSysWr_wake (hs : f.sys.toNat = 0x004) :
    execSysWr f s = .next (h.advance (clearWake s h.wakeSlot (uniVal h.g f.pfx f.a)) (lenOf f.pfx)) := by
  rw [execSysWr, issue_checked_legal _ e.1, if_neg (by simp [hs]), withRegs_free _ e.1.1 e.2]
  exact congrArg _ (if_pos hs)

theorem execSysWr_gang (hs : f.sys.toNat = 0x001) : execSysWr f s = .next
    (if gangOk (uniVal h.g f.pfx f.a) then h.advance (modGroup s h.gid fun g => { g with gang := uniVal h.g f.pfx f.a }) (lenOf f.pfx)
     else raise s h h.f.pred (lenOf f.pfx) 0x006 0 0) := by
  rw [execSysWr, issue_checked_legal _ e.1, if_neg (by simp [hs]), withRegs_free _ e.1.1 e.2]
  exact congrArg _ (if_neg (by simp [hs]))

end Write

/-! `sig` (R152, R153). -/

theorem execSig_sent (e : ScalarReady s h (sigCauses f) { sregs := scalarNos f.pfx f.a })
    (ht : f.sys.toNat = 0xFFF ∨ slotOfVf s f.sys.toNat h.c.vf = true) :
    execSig f s = .next (h.advance (pushPend s [.signal h.gid h.cid (if f.sys.toNat = 0xFFF then none else some f.sys.toNat)
      (uniVal h.g f.pfx f.a)]) (lenOf f.pfx)) := by
  have hgo : ¬(f.sys.toNat != 0xFFF && !slotOfVf s f.sys.toNat h.c.vf) = true := by
    obtain hm | hm := ht <;> simp [hm]
  rw [execSig, issue_checked_legal _ e.1, if_neg hgo, withRegs_free _ e.1.1 e.2]

theorem execSig_notOfVf (e : Legal s h (sigCauses f) false) (hn : f.sys.toNat ≠ 0xFFF)
    (hslot : slotOfVf s f.sys.toNat h.c.vf = false) :
    execSig f s = .next (raise s h h.f.pred (lenOf f.pfx) 0x005 0 0) := by
  rw [execSig, issue_checked_legal _ e, if_pos (by simp [hn, hslot]), raiseP]

/-! `trap` (R151). -/

theorem execTrap_ready (e : ScalarReady s h (trapCauses f) { sregs := scalarNos f.pfx f.a }) :
    execTrap f s = .next
      (takeTrap s h h.f.pred (h.next (lenOf f.pfx)) h.f.pc 2 f.sys.toNat 0 (uniVal h.g f.pfx f.a) none) := by
  rw [execTrap, issue_checked_legal _ e.1, withRegs_free _ e.1.1 e.2, Here.next]

end SystemRegisters

/-- Settles O25: a readable register goes to the scalar and any other raises the fault; what is readable is `readSys`, row by row. -/
theorem systemRegisterReads : Obligations.SystemRegisterReads := by
  refine ⟨fun f s h v hv e => ⟨_, execSysRd_readable hv e, setSreg_writes _ _ _⟩, fun f s h e hv => execSysRd_unreadable hv e,
    fun s h => ⟨rfl, rfl, rfl, rfl, rfl, rfl, ?_, ?_⟩⟩
  · intro hnone
    simpa only [hnone, Option.map_none] using readSys_trap s h
  · intro r hr
    simpa only [hr, Option.map_some] using readSys_trap s h

/-- Settles O26: WAKE of the slot that there is or is not, a GANG value that passes its check, a register with no right to it; a signal with
one of its two kinds of target, or a slot of another VF. -/
theorem systemWritesAndSignals : Obligations.SystemWritesAndSignals := by
  refine ⟨fun f s h e => ⟨?wakes, ?noSlot, ?gang, execSysWr_notWritable e.1⟩,
    fun f s h e => ⟨?mgmt, ?slot, execSig_notOfVf e.1⟩⟩
  case wakes =>
    intro hs q hq
    exact (execSysWr_wake e hs).trans (by rw [hq, clearWake])
  case noSlot =>
    intro hs hq
    exact (execSysWr_wake e hs).trans (by rw [hq, clearWake])
  case gang =>
    intro hs hzero hcnt
    exact (execSysWr_gang e hs).trans (by rw [if_pos ((gangOk_iff _).2 ⟨hzero, hcnt⟩)])
  case mgmt =>
    intro hm
    exact (execSig_sent e (.inl hm)).trans (by rw [if_pos hm])
  case slot =>
    intro hn hslot
    exact (execSig_sent e (.inr hslot)).trans (by rw [if_neg hn])

/-- Settles O27: `trap` takes an exception as a fault does, but of class 2 and at the next instruction. -/
theorem softwareTrap : Obligations.SoftwareTrap := fun _ _ _ => execTrap_ready

end Sys2Proof.Machine
end

section
namespace Sys2Proof.Machine

/-! ## The Mash engine (R186 to R203) -/

/-- A use of accumulators that the context owns, their image not lost, goes on at once (R195, R201). -/
theorem useUnits_ready {s : State} {h : Here} (len : Nat) (k : State → Here → State) (u : UnitsReady s h) : useUnits s h len k = k s h := by
  rw [useUnits, if_neg (by simp [u.1]), if_neg (by simp [u.2])]

/-! ## The accumulator instructions (R197) -/

section Accumulators
variable {f : GFmt} {s : State} {h : Here} (units : UnitsReady s h)
include units

section Clear
variable {u n : Nat} (e : PairReady s h (accClrCauses f) true f) (hu : mopVal h f.pfx f.a 64 = some u) (hn : mopVal h f.pfx f.b 65 = some n)
include e hu hn

theorem execAccClr_queues (h1 : 1 ≤ n) (hfit : u + n ≤ h.c.u) (q : SoloReady s h (.clr u n)) :
    execAccClr f s = .next (s.queues h (.clr u n) [] [] (lenOf f.pfx)) := by
  have hrange : (n = 0 || h.c.u < u + n) = false := by simp; omega
  rw [execAccClr, accRun_ready _ e units]
  simp only [hu, hn, hrange, Bool.false_eq_true, if_false, soloIssue_ready _ _ _ q]

theorem execAccClr_range (hout : h.c.u < u + n) : execAccClr f s = .next (raise s h h.f.pred (lenOf f.pfx) 0x037 0 0) := by
  have hrange : (n = 0 || h.c.u < u + n) = true := by simp [hout]
  rw [execAccClr, accRun_ready _ e units]
  simp only [hu, hn, hrange, if_true, raiseP]

end Clear

section Move
variable {d u : Nat} (e : PairReady s h (accMovCauses f) true f) (hd : mopVal h f.pfx f.a 64 = some d) (hu : mopVal h f.pfx f.b 64 = some u)
include e hd hu

theorem execAccMov_queues (hdu : d < h.c.u) (huu : u < h.c.u) (q : SoloReady s h (.mov d u)) :
    execAccMov f s = .next (s.queues h (.mov d u) [] [] (lenOf f.pfx)) := by
  have hrange : (h.c.u ≤ d || h.c.u ≤ u) = false := by simp; omega
  rw [execAccMov, accRun_ready _ e units]
  simp only [hd, hu, hrange, Bool.false_eq_true, if_false, soloIssue_ready _ _ _ q]

theorem execAccMov_range (hout : h.c.u ≤ d ∨ h.c.u ≤ u) : execAccMov f s = .next (raise s h h.f.pred (lenOf f.pfx) 0x037 0 0) := by
  have hrange : (h.c.u ≤ d || h.c.u ≤ u) = true := by simpa using hout
  rw [execAccMov, accRun_ready _ e units]
  simp only [hd, hu, hrange, if_true, raiseP]

end Move

/-- `acc.ld` and `acc.st`, of which each is `accMem` with its own causes, direction and operation. -/
theorem accMem_ready {causes : List Nat} {writes : Bool} {kind : Nat → List Part → MashKind} {u : Nat} (e : PairReady s h causes true f)
    (hu : mopVal h f.pfx f.a 64 = some u) (ps : List Part) (t : State) : let va := (uniVal h.g f.pfx f.b).toNat
    (h.c.u ≤ u → accMem causes f writes kind s = .next (raise s h h.f.pred (lenOf f.pfx) 0x037 0 0)) ∧
    (u < h.c.u →
      (va % 64 = 0 → unitPlaces h va 64 writes s = (.ok ps, t) → SoloReady t h (kind u ps) →
        accMem causes f writes kind s = .next (t.queues h (kind u ps) [] [] (lenOf f.pfx))) ∧
      (va % 64 ≠ 0 → accMem causes f writes kind s = .next (raise s h h.f.pred (lenOf f.pfx) 0x021 0 (BitVec.ofNat 64 va)))) := by
  intro va
  rw [accMem, accRun_ready _ e units]
  simp only [hu]
  refine ⟨fun hout => ?range, fun hin => ?inRange⟩
  case range => rw [if_pos hout, raiseP]
  case inRange =>
    rw [if_neg (Nat.not_le.2 hin)]
    refine ⟨fun hal hp q => ?placed, fun hal => ?misaligned⟩
    case placed => rw [if_neg (by simpa using hal), hp]; exact congrArg _ (soloIssue_ready _ _ _ q)
    case misaligned => rw [if_pos (by simpa using hal), raisePAt]

section Put
variable {u r : Nat} (hr : r = h.f.wb * 8 + f.b.toNat)
  (e : Able s h (accPutCauses f) true { vregs := (List.range 16).map fun i => r + i, sregs := scalarNos f.pfx f.a })
  (hu : mopVal h f.pfx f.a 64 = some u)
include hr e hu

/-- `acc.put` that is ready comes to the check of its unit. -/
theorem execAccPut_ready : execAccPut f s = .next (if h.c.u ≤ u then raiseP s h (lenOf f.pfx) 0x037 0
    else soloIssue s h (lenOf f.pfx) (.put u h.f.pred (putVals h.g h.f.pred r)) [] []) := by
  subst hr
  obtain ⟨hl, hreach, hfree⟩ := e
  rw [execAccPut, issue_here _ hl.1]
  dsimp only
  rw [checked_legal _ _ _ hl, if_neg (by simp [hreach.1]), useUnits_ready _ _ units, withRegs_free _ hl.1 hfree]
  simp only [hu]

theorem execAccPut_queues (hin : u < h.c.u) (q : SoloReady s h (.put u h.f.pred (putVals h.g h.f.pred r))) :
    execAccPut f s = .next (s.queues h (.put u h.f.pred (putVals h.g h.f.pred r)) [] [] (lenOf f.pfx)) := by
  rw [execAccPut_ready units hr e hu, if_neg (Nat.not_le.2 hin), soloIssue_ready _ _ _ q]

theorem execAccPut_range (hout : h.c.u ≤ u) : execAccPut f s = .next (raise s h h.f.pred (lenOf f.pfx) 0x037 0 0) := by
  rw [execAccPut_ready units hr e hu, if_pos hout, raiseP]

end Put
end Accumulators

/-- Settles O36: each of the five instructions, ready, comes to the check of its units; `acc.ld` and `acc.st` then place their pieces. -/
theorem accumulatorInstructions : Obligations.AccumulatorInstructions := by
  refine ⟨fun f s h units => ⟨fun u n => execAccClr_queues units, fun u n => execAccClr_range units,
    fun d u => execAccMov_queues units, fun d u => execAccMov_range units, ?memory⟩, ?put⟩
  case memory =>
    simp only [List.forall_mem_cons]
    exact ⟨fun u ps t e hu => accMem_ready units e hu ps t, fun u ps t e hu => accMem_ready units e hu ps t, by simp⟩
  case put => exact fun f s h u e units hu => ⟨execAccPut_queues units rfl e hu, execAccPut_range units rfl e hu⟩

/-! ## `mm` (R189 to R195) -/

/-- The operation that an operand word `w` gives `mm`, the sides of its operands not yet placed (R190). -/
def mmWordOp (f : XFmt) (w : Nat) : MmOp :=
  let side := fun (os : Nat) => ({ os := os, fmt := 0, smode := 0, scales := [], groups := 1, koff := 0 } : MmSide)
  { m := mmM f, n := mmN f, cls := mmCls f, za := f.fn.getLsbD 0, acc := w / 2 ^ 46 % 64, a := side (w / 2 ^ 32 % 128), b := side (w / 2 ^ 39 % 128) }

section Multiply
variable {f : XFmt} {s t u : State} {h : Here}

/-- `mm` that is ready comes to the checks of its words. -/
theorem execMm_ready (e : ScalarReady s h (xCauses f) { sregs := [scalarNo f.pfx f.a, scalarNo f.pfx f.a + 1] }) (hfull : s.full = true)
    (units : UnitsReady s h) : execMm f s = .next (mmChecks s h (lenOf f.pfx) f (getSreg h.g (scalarNo f.pfx f.a))
      (getSreg h.g (scalarNo f.pfx f.a + 1))) := by
  have hl : Legal s h (xCauses f) true := ⟨e.1.1, e.1.2.1, fun _ => hfull⟩
  rw [execMm, issue_here _ hl.1, checked_legal _ _ _ hl, useUnits_ready _ _ units, withRegs_free _ hl.1 e.2]

/-- What `mm` asks of its operand word: bits 31:0 are 0, and a class with no image names no record (R190). -/
theorem mmWord_legal {low cls tda tdb : Nat} (hlow : low = 0) (htd : cls = 0 → tda = 0 ∧ tdb = 0) :
    (low != 0 || (cls == 0 && (tda != 0 || tdb != 0))) = false := by
  by_cases hc : cls = 0
  · simp [hlow, htd hc]
  · simp [hlow, hc]

/-- What a narrow class asks of the records of its operands: images that fit it, and legal scales (R189, R190). -/
theorem mmImages_legal {cls : Nat} {ra rb : BitVec 512} (himg : cls ≠ 0 → imageFits cls (tdFmt ra) = true ∧ imageFits cls (tdFmt rb) = true ∧
    scaleLegal ra = true ∧ scaleLegal rb = true) :
    (cls != 0 && !(imageFits cls (tdFmt ra) && imageFits cls (tdFmt rb) && scaleLegal ra && scaleLegal rb)) = false := by
  by_cases hc : cls = 0
  · simp [hc]
  · obtain ⟨hia, hib, hsa, hsb⟩ := himg hc
    simp [hia, hib, hsa, hsb]

/-- With every check passed and both operands' scales placed, `mm` is issued (R195). -/
theorem mmChecks_placed {len w p : Nat} {ow pw : W64} {x y : List Nat} {sa sb : MmSide} (hw : ow.toNat = w) (hp : pw.toNat = p)
    (hzero : w % 2 ^ 32 = 0) (htd : mmCls f = 0 → w / 2 ^ 52 % 64 = 0 ∧ w / 2 ^ 58 = 0) (hslots : mmSlots h.b h.idx (mmWordOp f w) = some (x, y))
    (hacc : w / 2 ^ 46 % 64 + mmUnits (mmM f) (mmN f) ≤ h.c.u)
    (himg : mmCls f ≠ 0 →
      imageFits (mmCls f) (tdFmt (tdRec h.c (w / 2 ^ 52 % 64))) = true ∧ imageFits (mmCls f) (tdFmt (tdRec h.c (w / 2 ^ 58))) = true ∧
      scaleLegal (tdRec h.c (w / 2 ^ 52 % 64)) = true ∧ scaleLegal (tdRec h.c (w / 2 ^ 58)) = true)
    (ha : mmSide h (mmCls f) (w / 2 ^ 32 % 128) (w / 2 ^ 52 % 64) (p / 2 ^ 24 % 2 ^ 20) (mmM f) (p % 2 ^ 24) s = (.ok sa, t))
    (hb : mmSide h (mmCls f) (w / 2 ^ 39 % 128) (w / 2 ^ 58) (p / 2 ^ 44) (mmN f) (p % 2 ^ 24) t = (.ok sb, u)) :
    mmChecks s h len f ow pw = mmIssue u h len f { mmWordOp f w with a := sa, b := sb } ow pw x y := by
  subst hw hp
  rw [mmWordOp] at hslots
  simp only [mmChecks, mmWord_legal hzero htd, hslots, Nat.not_lt.2 hacc, mmImages_legal himg, ha, hb, Bool.false_eq_true, if_false, mmWordOp]

section Issue
variable {len : Nat} {op : MmOp} {ow pw : W64} {x y : List Nat}

theorem mmIssue_solo (hl : gangList h.g.gang = []) (q : SoloReady s h (.mm op)) : mmIssue s h len f op ow pw x y = s.queues h (.mm op) x y len := by
  rw [mmIssue, hl]
  exact soloIssue_ready _ _ _ q

theorem mmIssue_gang (hl : 2 ≤ (gangList h.g.gang).length) (hv : gangValid s h (gangList h.g.gang) = true) :
    mmIssue s h len f op ow pw x y = gangIssue s h len f op ow pw (sortNat (gangList h.g.gang)) := by
  have hsome : ¬(gangList h.g.gang).isEmpty = true := by rw [List.isEmpty_iff_length_eq_zero]; omega
  have hmany : ¬(gangList h.g.gang).length = 1 := by omega
  rw [mmIssue, if_neg hsome, if_neg (by simp [hv]), if_neg hmany]

/-- A member that finds no entry to join opens one where fewer than 8 are open (R192). -/
theorem gangIssue_opens {set : List Nat} (hfind : (coreOf s h.core).latch.find?
      (fun e => !e.closed && e.bsn == h.bsn && e.set == set && !e.joined.contains (gidxOf h.gid)) = none)
    (hroom : ((coreOf s h.core).latch.filter fun e => !e.closed).length < 8) :
    gangIssue s h len f op ow pw set = h.advance (addPend (modCore s h.core fun c => { c with latch := c.latch ++
      [{ bsn := h.bsn, ctx := h.cid, set := set, joined := [gidxOf h.gid], op := op, word := { f with pfx := none }, ow := ow, pw := pw,
         closed := false }] }) h.gid) len := by
  rw [gangIssue]
  simp only [hfind, if_neg (Nat.not_le.2 hroom)]

end Issue
end Multiply

/-- Settles O37: the checks all pass, and the gang list decides between the engine queue and the latch. -/
theorem matrixMultiply : Obligations.MatrixMultiply := by
  intro f s h n w p cls tda tdb acc side op x y sa sb t u e hfull units hzero htd hslots hacc himg ha hb op l
  have hissue := (execMm_ready e hfull units).trans (congrArg _ (mmChecks_placed rfl rfl hzero htd hslots hacc himg ha hb))
  refine ⟨fun hl q => ?solo, fun hl hv hroom hfind => ?gang⟩
  case solo => exact hissue.trans (congrArg _ (mmIssue_solo hl q))
  case gang => exact hissue.trans (congrArg _ ((mmIssue_gang hl hv).trans (gangIssue_opens hfind hroom)))

/-! ## Operand slots and `mm.wait` (R187, R188, R198) -/

section OperandSlots
variable {f : GFmt} {s : State} {h : Here} {n : Nat}

section Claim
variable (e : PairReady s h (osClaimCauses f) true f) (hn : mopVal h f.pfx f.b 65 = some n) (h1 : 1 ≤ n)
include e hn h1

theorem execOsClaim_maps {first : Nat} (hf : freeNames h.b h.idx n 0 128 = some first) (hroom : n ≤ (freeSlots (coreOf s h.core)).length) :
    execOsClaim f s = .next ((mapNames s h (((List.range n).map fun i => first + i).zip (freeSlots (coreOf s h.core)))).answers h
      (dstOf f.pfx f.a) (BitVec.ofNat 64 first) (lenOf f.pfx)) := by
  rw [execOsClaim, gRun_pair _ e]
  simp only [hn, Nat.ne_of_gt h1, hf, Nat.not_lt.2 hroom, if_false, State.answers]

theorem execOsClaim_tooFew (hfew : freeNames h.b h.idx n 0 128 = none ∨ (freeSlots (coreOf s h.core)).length < n) :
    execOsClaim f s = .next (s.answers h (dstOf f.pfx f.a) (BitVec.allOnes 64) (lenOf f.pfx)) := by
  rw [execOsClaim, gRun_pair _ e]
  simp only [hn, Nat.ne_of_gt h1, if_false, State.answers]
  cases hf : freeNames h.b h.idx n 0 128 with
  | none => rfl
  | some first =>
    have hroom : (freeSlots (coreOf s h.core)).length < n := hfew.resolve_left (by simp [hf])
    simp only [hroom, if_true]

end Claim

theorem execOsRel_idle {first : Nat} {ps : List Nat} (e : PairReady s h (osRelCauses f) true f) (hfirst : mopVal h f.pfx f.a 128 = some first)
    (hn : mopVal h f.pfx f.b 65 = some n) (h1 : 1 ≤ n) (hps : slotsNamed h.b h.idx ((List.range n).map fun i => first + i) = some ps)
    (hidle : ps.any (fun p => slotBusy (coreOf s h.core) p) = false) :
    execOsRel f s = .next (h.advance (dropNames s h ((List.range n).map fun i => first + i) ps) (lenOf f.pfx)) := by
  rw [execOsRel, gRun_pair _ e]
  simp only [hfirst, hn, hps, Nat.ne_of_gt h1, hidle, Bool.false_eq_true, if_false]

section MmWait
variable (e : PairReady s h (mmWaitCauses f) true f) (hn : mopVal h f.pfx f.b 17 = some n)
include e hn

theorem execMmWait_waits (hp : n < h.g.eng.pend) : execMmWait f s = .next (s.waits h (.mmWait n) (lenOf f.pfx) (dstOf f.pfx f.a)) := by
  rw [execMmWait, gRun_pair _ e]
  simp only [hn, hp, if_true, State.waits]

theorem execMmWait_reports (hp : h.g.eng.pend ≤ n) : execMmWait f s = .next (mmReport s h (lenOf f.pfx) (dstOf f.pfx f.a)) := by
  rw [execMmWait, gRun_pair _ e]
  simp only [hn, Nat.not_lt.2 hp, if_false]

end MmWait

/-! What `mm.wait` reports (R198). -/

theorem mmReport_scalar (len d : Nat) : mmReport s h len (some d) =
    (modGroup s h.gid fun g => { g with eng := { g.eng with reset := false, abort := false, sealed := false } }).answers h (some d)
      (statusWord h.g.eng) len := rfl

theorem mmReport_unflagged (len : Nat) (hf : h.g.eng.flagged = false) : mmReport s h len none = h.advance s len := by
  simp only [EngFlags.flagged, Bool.or_eq_false_iff] at hf
  obtain ⟨⟨hreset, habort⟩, hsealed⟩ := hf
  simp only [mmReport, hreset, habort, hsealed, Bool.false_eq_true, if_false]

theorem mmReport_reset (len : Nat) (hreset : h.g.eng.reset = true) : mmReport s h len none =
    raise (modGroup s h.gid fun g => { g with eng := { g.eng with reset := false } }) h h.f.pred len 0x032 0 0 := by
  simp only [mmReport, hreset, if_true, raiseP]

end OperandSlots

/-- Settles O38: a claim by the free names and slots there are, a release by idle slots, a wait by what is pending and what it reports. -/
theorem operandSlots : Obligations.OperandSlots := by
  refine ⟨fun f s h n e hn h1 => ⟨fun first => execOsClaim_maps e hn h1, execOsClaim_tooFew e hn h1⟩,
    fun f s h first n ps => execOsRel_idle, fun f s h n e hn => ⟨execMmWait_waits e hn, ?scalar, ?unflagged, ?reset⟩⟩
  case scalar => exact fun hp d hd => (execMmWait_reports e hn hp).trans (by rw [hd, mmReport_scalar])
  case unflagged => exact fun hp hd hf => (execMmWait_reports e hn hp).trans (by rw [hd, mmReport_unflagged _ hf])
  case reset => exact fun hp hd hreset => (execMmWait_reports e hn hp).trans (by rw [hd, mmReport_reset _ hreset])

end Sys2Proof.Machine
end

section
namespace Sys2Proof.Machine

/-! ## Commands on the device (R203, R322, R336, R358, R359, R384, R385, R390 to R396) -/

/-! What a mailbox that turns busy leaves as it was. -/

@[simp] theorem busyFor_freeCtr (s : State) (h : MbHdr) : (s.busyFor h).freeCtr = s.freeCtr := rfl
@[simp] theorem busyFor_mem (s : State) (h : MbHdr) : (s.busyFor h).mem = s.mem := rfl
@[simp] theorem busyFor_migs (s : State) (h : MbHdr) : (s.busyFor h).sys.migs = s.sys.migs := rfl
@[simp] theorem busyFor_worlds (s : State) (h : MbHdr) : (s.busyFor h).sys.worlds = s.sys.worlds := rfl
@[simp] theorem busyFor_staged (s : State) (h : MbHdr) : (s.busyFor h).sys.staged = s.sys.staged := rfl
@[simp] theorem cfgNat_busyFor (s : State) (h : MbHdr) (off n : Nat) : cfgNat (s.busyFor h) off n = cfgNat s off n := rfl
@[simp] theorem clusterSt_busyFor (s : State) (h : MbHdr) (n : Nat) : clusterSt (s.busyFor h) n = clusterSt s n := rfl
@[simp] theorem presentMhz_busyFor (s : State) (h : MbHdr) (n : Nat) : presentMhz (s.busyFor h) n = presentMhz s n := rfl
@[simp] theorem fmax_busyFor (s : State) (h : MbHdr) (mv : Nat) : fmax (s.busyFor h) mv = fmax s mv := rfl
@[simp] theorem vmin_busyFor (s : State) (h : MbHdr) (mhz : Nat) : vmin (s.busyFor h) mhz = vmin s mhz := rfl
@[simp] theorem freeWorld_busyFor (s : State) (h : MbHdr) : freeWorld (s.busyFor h) = freeWorld s := rfl

/-- A refusal that does not apply is passed. -/
theorem refuseOr_cons {hit : Bool} {res : Nat} {l : List (Bool × Nat)} {k : CmdRes} (hh : hit = false) :
    refuseOr ((hit, res) :: l) k = refuseOr l k := by
  subst hh; rfl

/-- Of an array whose writes the model follows, the planted errors stay. -/
theorem armRing_followed {r : ErrRing} {a : Nat} {w : BitVec 128} (ha : a ≤ 1) : (armRing r a w).planted = r.planted := by
  simp [armRing, ha]

/-- The world is the issuing VF's, in its session. -/
theorem worldIssuer {s : State} {h : MbHdr} {w : Nat} {x : World} (hses : sessionVf s h = true) (hw : Tbl.get? s.sys.worlds w = some x)
    (hvf : x.vf = h.fn) : (sessionVf s h && ownWorld s h.fn w) = true := by simp [hses, ownWorld, hw, hvf]

section DeviceCommands
variable {s : State} {h : MbHdr} (hb : BoxReady s h)
include hb

/-- A command refused with an answer changes nothing else (R389). -/
theorem command_tell {issuer : Bool} {k : State → CmdRes} {r : Nat} {a : List W64} (hi : issuer = true)
    (hk : k (s.busyFor h) = .tell r a) : command h false issuer k s = ends h r (s.busyFor h) a := by rw [command_ready hb hi, hk]; rfl

/-- A command that fails with a change of state ends with its result (R389). -/
theorem command_failed {issuer : Bool} {k : State → CmdRes} {r : Nat} {t : State} (hi : issuer = true)
    (hk : k (s.busyFor h) = .failed t r) : command h false issuer k s = ends h r t [] := by rw [command_ready hb hi, hk]; rfl

/-! On a context (R336, R395). -/

section OfContext
variable {n : Nat} {c : Ctx} (hc : Tbl.get? s.ctxs n = some c) (ho : h.fn = 0 ∨ c.vf = h.fn)
include hc ho

/-- XOP_LOAD whose sections are read and whole comes to its image. -/
theorem execXopLoad_image {q : XopLoadArgs} {x y : List Byte} {l : List Seq} (hs : q.seqBytes % 8 = 0) (hbind : q.bindBytes % 8 = 0)
    (hx : cmdRead (s.busyFor h) n c q.seqVa.toNat q.seqBytes = .ok x) (hy : cmdRead (s.busyFor h) n c q.bindVa.toNat q.bindBytes = .ok y)
    (hl : parseSeqs 0 0 (wordsOf (q.seqBytes / 8) x) (q.seqBytes / 8 + 1) = .ok l) :
    execXopLoad h n q s = command h false true (fun b => loadImage
      (touchReads b n c [(q.seqVa.toNat, q.seqBytes), (q.bindVa.toNat, q.bindBytes)]) n c l (wordsOf (q.bindBytes / 8) y) false) s := by
  have hc' : Tbl.get? (s.busyFor h).ctxs n = some c := hc
  rw [execXopLoad, command_ready hb (ownCtx_of hc ho), command_ready hb rfl, withCtx_of _ hc']
  simp only [hx, hy, hl, hs, hbind, bne_self_eq_false, Bool.false_eq_true, if_false]

theorem execXopQuery_done : execXopQuery h n s = ends h 0 (s.busyFor h)
    (((List.range 32).map fun i => SMap.get c.tabs.bind i) ++ [BitVec.ofNat 64 ((unitsOfVf s c.vf).foldl (fun n u => n + 2 ^ u) 0)]) :=
  command_done hb (ownCtx_of hc ho) (withCtx_of _ hc)

theorem execCollPost_done {q : CollArgs} (hq : q.ctx = n) (hp : q.peers ≠ []) (hd : noRepeats q.peers = true) (hal : q.va.toNat % 4 = 0)
    (hlinked : q.peers.any (fun p => p != fabId s && !(s.sys.links.any fun e => e.2 == p)) = false) : let b := s.busyFor h
    execCollPost h q s =
      ends h 0 { b with sys := { b.sys with colls := b.sys.colls ++ [{ ctx := n, a := q, id := s.steps, sent := false }] } } [] := by
  subst hq
  have hargs : (q.peers.isEmpty || !noRepeats q.peers || q.va.toNat % 4 != 0
      || q.peers.any fun p => p != fabId s && !(s.sys.links.any fun e => e.2 == p)) = false := by
    simp only [Bool.or_eq_false_iff]
    exact ⟨⟨⟨by simpa using hp, by simp [hd]⟩, by simp [hal]⟩, hlinked⟩
  exact command_done hb (ownCtx_of hc ho) ((withCtx_of _ hc).trans (refuseOr_cons hargs))

end OfContext

/-! Of the PF. -/

section OfPf
variable (hfn : h.fn = 0)
include hfn

/-- No unit of the new set is taken from another VF that does not release it (R322). -/
theorem execWcsAssign_done {vf : Nat} {set rel : Half} (hvf : vf ≤ 16)
    (htaken : (List.range 16).any (fun u =>
      set.getLsbD u && !rel.getLsbD u && (match unitVf s (256 * u) with | some v => v != vf | none => false)) = false) :
    execWcsAssign h vf set rel s = ends h 0 ((List.range 16).foldl (fun s u => assignUnit s vf set u) (s.busyFor h)) [] :=
  command_done hb (by simp [hfn]) ((refuseOr_cons (by simp [hvf])).trans (refuseOr_cons htaken))

theorem execMashReset_done {n : Nat} (hn : n ≤ 47) : execMashReset h n s = ends h 0 (engineReset (s.busyFor h) n) [] :=
  command_done hb (by simp [hfn]) (refuseOr_pass (by simp [hn]))

/-! Clocks and current (R358, R359). -/

theorem execClkSet_done {n mhz : Nat} (hfull : s.full = true) (hn : n ≤ 11) (h400 : 400 ≤ mhz) (h2400 : mhz ≤ 2400) (h25 : mhz % 25 = 0)
    (hmax : mhz ≤ fmax s (clusterSt s n).mv) : execClkSet h n mhz s = ends h 0
      (modCluster (s.busyFor h) n fun c => { c with mhz := mhz, mhzFrom := presentMhz s n, mhzAt := s.time }) [] :=
  command_done hb (by simp [hfn]) (refuseOr_pass (by simp [hfull, h25, Nat.not_lt.2 hmax]; omega))

theorem execLdoSet_done {n mv v : Nat} (hn : n ≤ 11) (h550 : 550 ≤ mv) (h1050 : mv ≤ 1050) (h5 : mv % 5 = 0)
    (hmin : vmin s (max (presentMhz s n) (clusterSt s n).mhz) = some v) (hv : v ≤ mv) :
    execLdoSet h n mv s = ends h 0 (modCluster (s.busyFor h) n fun c => { c with mv := mv }) [] :=
  command_done hb (by simp [hfn]) (refuseOr_pass (by simp [h5, hmin, hv]; omega))

theorem execKilnSet_done {n cap : Nat} {ramp : List (Nat × Nat)} (hn : n ≤ 11) (h16 : 16 ≤ cap) (h255 : cap ≤ 255) (hlen : ramp.length = 8)
    (hramp : ramp.any (fun r => decide (r.1 < 1) || decide (255 < r.1) || decide (r.2 < 1) || decide (255 < r.2)) = false) :
    execKilnSet h n cap ramp s = ends h 0 (modCluster (s.busyFor h) n fun c => { c with kset := some (cap, ramp) }) [] := by
  refine command_done hb (by simp [hfn]) (refuseOr_cons ?_)
  simp only [hramp, Bool.or_eq_false_iff, decide_eq_false_iff_not, bne_eq_false_iff_eq, hlen, and_true]
  omega

theorem execThermQuery_done {n : Nat} (hn : n ≤ 11) : execThermQuery h n s = ends h 0 (s.busyFor h) [BitVec.ofNat 64 (clusterSt s n).temp,
    BitVec.ofNat 64 ((if (clusterSt s n).hot then 1 else 0) + if (clusterSt s n).deny then 2 else 0)] :=
  command_done hb (by simp [hfn]) (refuseOr_pass (by simp [hn]))

theorem execPwrStat_done {n : Nat} (hn : n ≤ 11) : execPwrStat h n s = ends h 0 (s.busyFor h)
    [BitVec.ofNat 64 (kilnWord (clusterSt s n)), BitVec.ofNat 64 (clusterSt s n).mhz, BitVec.ofNat 64 (clusterSt s n).mv] :=
  command_done hb (by simp [hfn]) (refuseOr_pass (by simp [hn]))

/-! Errors (R384). -/

theorem execErrInject_done {a : Nat} {w : BitVec 128} (hfull : s.full = true) (hcfg : (cfgNat s 32 2).getD 0 % 2 = 1) (ha : a ≤ 15)
    (hres : w.toNat / 2 ^ 50 % 2 ^ 14 = 0) (hres' : w.toNat / 2 ^ 16 % 2 ^ 24 = 0) (hmode : modeFits a (w.toNat / 2 ^ 48 % 4) = true)
    (hrep : w.toNat / 2 ^ 48 % 4 = 0 ∨ w.toNat / 2 ^ 40 % 256 ≠ 0) (hbit : w.toNat % 256 < wordBits a)
    (hbit' : w.toNat / 2 ^ 48 % 4 ≠ 2 ∨ w.toNat / 256 % 256 < wordBits a) (hprot : protectedTarget s a (w.toNat / 2 ^ 64) = false) :
    execErrInject h a w s =
      ends h 0 { s.busyFor h with errs := Tbl.set (s.busyFor h).errs a (armRing (ringOf s a) a w) } [] := by
  have hargs : (15 < a || w.toNat / 2 ^ 50 % 2 ^ 14 != 0 || w.toNat / 2 ^ 16 % 2 ^ 24 != 0 || !modeFits a (w.toNat / 2 ^ 48 % 4)
      || (w.toNat / 2 ^ 48 % 4 != 0 && w.toNat / 2 ^ 40 % 256 == 0) || wordBits a ≤ w.toNat % 256
      || (w.toNat / 2 ^ 48 % 4 == 2 && wordBits a ≤ w.toNat / 256 % 256)) = false := by
    simp only [hres, hres', hmode, Bool.or_eq_false_iff, decide_eq_false_iff_not, Bool.and_eq_false_iff, bne_eq_false_iff_eq,
      beq_eq_false_iff_ne, Bool.not_true, and_true]
    omega
  exact command_done hb (by simp [hfn]) ((refuseOr_cons (by simp [hfull])).trans
    ((refuseOr_cons (by simp [hcfg])).trans ((refuseOr_cons hargs).trans (refuseOr_cons hprot))))

/-! Patches (R390). -/

theorem execPatchStage_unsigned {addr size : Nat} (hfull : s.full = true) (hp : Config.patchSvn (readPhys s.mem .host addr size) = none) :
    execPatchStage h addr size s = ends h 8 (s.busyFor h) [] :=
  command_refuse hb (by simp [hfn]) (by simp [hfull, hp])

section Signed
variable {addr size n : Nat} (hfull : s.full = true) (hp : Config.patchSvn (readPhys s.mem .host addr size) = some n)
include hfull hp

theorem execPatchStage_noRecord (hc : cfgNat s 28 4 = none) : execPatchStage h addr size s = ends h 8 (s.busyFor h) [] :=
  command_refuse hb (by simp [hfn]) (by simp [hfull, hp, hc])

theorem execPatchStage_older {least : Nat} (hc : cfgNat s 28 4 = some least) (hlt : n < least) :
    execPatchStage h addr size s = ends h 8 (s.busyFor h) [] :=
  command_refuse hb (by simp [hfn]) (by simp [hfull, hp, hc, hlt])

theorem execPatchStage_staged {least : Nat} (hc : cfgNat s 28 4 = some least) (hge : ¬n < least) : let b := s.busyFor h
    execPatchStage h addr size s = ends h 0 { b with sys := { b.sys with staged := some (n, readPhys s.mem .host addr size) } } [] :=
  command_done hb (by simp [hfn]) (by simp [hfull, hp, hc, hge])

end Signed

/-- The time left of an activation is free, up to 10 ms. -/
theorem execPatchActivate_pend (hst : s.sys.staged.isSome = true) : let b := s.busyFor h
    let t := s.time + Config.freeNat s.freeCtr % 10000001
    execPatchActivate h s = .next { b with freeCtr := s.freeCtr + 1, sys := { b.sys with activating := some (h.fn, t) } } :=
  command_pend hb (by simp [hfn]) (refuseOr_cons (by simpa [Option.isNone_eq_false_iff] using hst))

/-! The fabric (R394). -/

theorem execFabMap_done {link peer : Nat} (hl : link ≤ 5) (hp : peer ≤ 255) : let b := s.busyFor h
    execFabMap h link peer s = ends h 0 { b with sys := { b.sys with links := Tbl.set b.sys.links link peer } } [] :=
  command_done hb (by simp [hfn]) (refuseOr_pass (by simp [hl, hp]))

/-! Migration (R396). -/

theorem execMigOut_pend {vf peer : Nat} (h1 : 1 ≤ vf) (h16 : vf ≤ 16) (hlink : s.sys.links.any (fun e => e.2 == peer) = true)
    (hen : (vfOf s vf).enabled = true) (hmig : Tbl.get? s.sys.migs vf = none)
    (hlad : s.sys.ladders.any (fun l => l.tgt == .vf vf) = false) : let b := s.busyFor h
    let r := sendFrames (rollback b vf) vf ((vfFrames b vf).map (·.1)) []
    execMigOut h vf peer s = .next (startLadder r.2 (.vf vf) none (.migrate h.fn peer r.1)) := by
  have hargs : (vf < 1 || 16 < vf || !s.sys.links.any fun e => e.2 == peer) = false := by simp [hlink]; omega
  have hstate : (!(vfOf s vf).enabled || (Tbl.get? s.sys.migs vf).isSome || s.sys.ladders.any fun l => l.tgt == .vf vf) = false := by
    rw [hen, hmig, hlad]; rfl
  exact command_pend hb (by simp [hfn]) ((refuseOr_cons hargs).trans (refuseOr_cons hstate))

theorem execMigIn_failed {ticket : BitVec 128} (hm : migImage ticket s.freeCtr = none) :
    execMigIn h ticket s = ends h 8 (s.busyFor h) [] :=
  command_refuse hb (by simp [hfn]) (by simp [hm])

section Image
variable {ticket : BitVec 128} {m : MigImage} (hm : migImage ticket s.freeCtr = some m)
include hm

theorem execMigIn_unsound
    (hs : ¬(imageSound { s.busyFor h with freeCtr := s.freeCtr + 1 } m = true ∧ (vfOf s m.vf).enabled = true)) :
    execMigIn h ticket s = ends h 3 (s.busyFor h) [] := by
  have hs' : (!imageSound { s.busyFor h with freeCtr := s.freeCtr + 1 } m || !(vfOf s m.vf).enabled) = true := by
    rw [← Bool.not_and, Bool.not_eq_true', Bool.eq_false_iff, ne_eq, Bool.and_eq_true]; exact hs
  exact command_refuse hb (by simp [hfn]) (by simp only [busyFor_freeCtr, hm, vfOf_busyFor, hs', if_true])

section Sound
variable (hs : imageSound { s.busyFor h with freeCtr := s.freeCtr + 1 } m = true) (hen : (vfOf s m.vf).enabled = true)
include hs hen

theorem execMigIn_installed {t : State} (ht : installVf { s.busyFor h with freeCtr := s.freeCtr + 1 } m = some t) :
    execMigIn h ticket s = ends h 0 (startSlices t m.vf) [BitVec.ofNat 64 m.vf] :=
  command_done hb (by simp [hfn]) (by
    simp only [busyFor_freeCtr, vfOf_busyFor, hm, hs, hen, ht, ans, Bool.not_true, Bool.or_self, Bool.false_eq_true, if_false])

theorem execMigIn_noRoom (ht : installVf { s.busyFor h with freeCtr := s.freeCtr + 1 } m = none) :
    execMigIn h ticket s = ends h 4 (s.busyFor h) [] :=
  command_refuse hb (by simp [hfn]) (by
    simp only [busyFor_freeCtr, vfOf_busyFor, hm, hs, hen, ht, Bool.not_true, Bool.or_self, Bool.false_eq_true, if_false])

end Sound
end Image

section Status
variable {vf : Nat} {m : Mig} (hm : Tbl.get? s.sys.migs vf = some m)
include hm

theorem execMigStat_complete (hd : m.done = some true) :
    execMigStat h vf s = ends h 0 (freeVf (dropMig (s.busyFor h) vf) vf) [1] :=
  command_done hb (by simp [hfn]) (by simp [hm, hd])

theorem execMigStat_underWay (hd : m.done ≠ some true) : execMigStat h vf s = ends h 0 (s.busyFor h) [0] :=
  command_done hb (by simp [hfn]) (by simp [hm, hd])

end Status
end OfPf

/-! Of a function whose error it is (R385). -/

theorem execErrLog_done {a i : Nat} {e : ErrEntry} (he : (ringOf s a).entries[i]? = some e)
    (ho : h.fn = 0 ∨ (e.vf = h.fn ∧ e.ctx.isSome = true)) :
    execErrLog h a i s = ends h 0 (s.busyFor h) (errWords a e h.fn ++ [BitVec.ofNat 64 (ringOf s a).lost]) := by
  have hi : (h.fn == 0 || (e.vf == h.fn && e.ctx.isSome)) = true := by
    rcases ho with ho | ⟨hvf, hctx⟩ <;> simp [*]
  rw [execErrLog, he]
  exact command_done hb hi rfl

/-! Of a VF in a session of its own (R392). -/

section OfSession
variable (hses : sessionVf s h = true)
include hses

theorem execWorldNew_done (hfree : freeWorld s ≤ 62) : ∃ x y : W64, let b := s.busyFor h
    execWorldNew h s = ends h 0 { b with
      freeCtr := s.freeCtr + 2
      sys := { b.sys with worlds := Tbl.set b.sys.worlds (freeWorld s) { vf := h.fn, token := y ++ x, fails := 0, sealed := false } } }
      [BitVec.ofNat 64 (freeWorld s), x, y] :=
  ⟨ans (freshNat s).1, ans (freshNat (freshNat s).2).1,
    command_done hb hses (refuseOr_cons (by simp [Nat.not_lt.2 hfree]))⟩

section Existing
variable {w : Nat} {x : World} (hw : Tbl.get? s.sys.worlds w = some x) (hvf : x.vf = h.fn)
include hw hvf

theorem execSealKey_done {key : Nat} {k : BitVec 512} (hkey : key ≤ 255) : let b := s.busyFor h
    execSealKey h w key k s = ends h 0 { b with sealKeys := Tbl.set b.sealKeys (w * 256 + key) k } [] :=
  command_done hb (worldIssuer hses hw hvf) (refuseOr_pass (by simp [hkey]))

theorem execWorldUnseal_token : execWorldUnseal h w x.token s = ends h 0 (unsealed (s.busyFor h) w x) [] :=
  command_done hb (worldIssuer hses hw hvf) (by simp [hw])

theorem execWorldUnseal_wrong {token : BitVec 128} (ht : x.token ≠ token) :
    execWorldUnseal h w token s = ends h 8 (wrongToken (s.busyFor h) w x) [] :=
  command_failed hb (worldIssuer hses hw hvf) (by simp [hw, ht])

theorem execWorldFree_done (hctx : s.ctxs.any (fun e => e.2.world == w) = false)
    (hpot : s.tables.pot.any (fun e => e.2.world == w && e.2.state != 0) = false) :
    execWorldFree h w s = ends h 0 (dropWorld (s.busyFor h) w) [] := by
  have hnone : (s.ctxs.any (fun e => e.2.world == w) || s.tables.pot.any fun e => e.2.world == w && e.2.state != 0) = false := by
    rw [hctx, hpot]; rfl
  exact command_done hb (worldIssuer hses hw hvf) (refuseOr_cons hnone)

end Existing
end OfSession
end DeviceCommands

/-- Settles O47: each clause is the lemma on its command; those that depend on what comes from outside, or on a token, are split by it. -/
theorem deviceCommands : Obligations.DeviceCommands := by
  intro s h hb b
  refine ⟨fun vf set rel hfn => execWcsAssign_done hb hfn, ?ofContext, ?ofPf, fun a i e => execErrLog_done hb, ?ofSession⟩
  case ofContext =>
    intro n c hc ho
    refine ⟨?xopLoad, execXopQuery_done hb hc ho, fun q => execCollPost_done hb hc ho⟩
    intro q x y l hs hbind hx hy hl img
    have himage := execXopLoad_image hb hc ho hs hbind hx hy hl
    exact ⟨fun t ht => himage.trans (command_done hb rfl ht), fun r a hr => himage.trans (command_tell hb rfl hr)⟩
  case ofPf =>
    intro hfn
    refine ⟨fun n => execMashReset_done hb hfn, fun n mhz => execClkSet_done hb hfn, fun n mv v => execLdoSet_done hb hfn,
      fun n cap ramp => execKilnSet_done hb hfn, fun n hn => ⟨execThermQuery_done hb hfn hn, execPwrStat_done hb hfn hn⟩, ?inject, ?stage,
      ?activate, fun link peer => execFabMap_done hb hfn, fun vf peer => execMigOut_pend hb hfn, ?migIn, ?migStat⟩
    case inject =>
      intro a w hfull hcfg ha hres hres' hmode hrep hbit hbit' hprot
      exact ⟨(armRing (ringOf s a) a w).planted, armRing_followed,
        execErrInject_done hb hfn hfull hcfg ha hres hres' hmode hrep hbit hbit' hprot⟩
    case stage =>
      intro addr size hfull
      cases hp : Config.patchSvn (readPhys s.mem .host addr size) with
      | none => exact execPatchStage_unsigned hb hfn hfull hp
      | some n =>
        cases hc : cfgNat s 28 4 with
        | none => exact execPatchStage_noRecord hb hfn hfull hp hc
        | some least =>
          by_cases hlt : n < least
          · exact (execPatchStage_older hb hfn hfull hp hc hlt).trans (if_pos hlt).symm
          · exact (execPatchStage_staged hb hfn hfull hp hc hlt).trans (if_neg hlt).symm
    case activate =>
      intro hst
      exact ⟨s.time + Config.freeNat s.freeCtr % 10000001, by omega, execPatchActivate_pend hb hfn hst⟩
    case migIn =>
      intro ticket b1
      cases hm : migImage ticket s.freeCtr with
      | none => exact execMigIn_failed hb hfn hm
      | some m =>
        by_cases hs : imageSound b1 m = true ∧ (vfOf s m.vf).enabled = true
        · refine Eq.trans ?_ (if_pos hs).symm
          cases ht : installVf b1 m with
          | none => exact execMigIn_noRoom hb hfn hm hs.1 hs.2 ht
          | some t => exact execMigIn_installed hb hfn hm hs.1 hs.2 ht
        · exact (execMigIn_unsound hb hfn hm hs).trans (if_neg hs).symm
    case migStat =>
      intro vf m hm
      by_cases hd : m.done = some true
      · exact (execMigStat_complete hb hfn hm hd).trans (if_pos hd).symm
      · exact (execMigStat_underWay hb hfn hm hd).trans (if_neg hd).symm
  case ofSession =>
    intro hses
    refine ⟨execWorldNew_done hb hses, fun w x hw hvf => ⟨fun key k => execSealKey_done hb hses hw hvf, fun token => ?_,
      execWorldFree_done hb hses hw hvf⟩⟩
    by_cases ht : x.token = token
    · subst ht
      exact (execWorldUnseal_token hb hses hw hvf).trans (if_pos rfl).symm
    · exact (execWorldUnseal_wrong hb hses hw hvf ht).trans (if_neg ht).symm

end Sys2Proof.Machine
end

section
namespace Sys2Proof.Machine

/-! ## Coverage of samples (R206) -/

section Edges
variable {a b c p : Pt}

/-- An edge turned round has its inside on the other side. -/
theorem edgeFn_swap (a b p : Pt) : edgeFn b a p = -edgeFn a b p := by
  simp only [edgeFn]
  grind

theorem insideEdge_of_pos (hp : 0 < edgeFn a b p) : insideEdge a b p = true := by simp [insideEdge, hp]

theorem insideEdge_of_neg (hp : edgeFn a b p < 0) : insideEdge a b p = false := by simp [insideEdge, Int.ne_of_lt hp, Int.le_of_lt hp]

theorem insideEdge_of_zero (hp : edgeFn a b p = 0) : insideEdge a b p = topLeft a b := by simp [insideEdge, hp]

/-- An edge is a top edge, along a row above the third vertex, or a left edge, rising with the triangle to its right. -/
theorem topLeft_iff (he : 0 < edgeFn a b c) : topLeft a b = true ↔ (a.2 = b.2 ∧ a.2 < c.2) ∨ b.2 < a.2 := by
  have hrow : a.2 = b.2 → (a.1 < b.1 ↔ a.2 < c.2) := by
    intro hab
    have hmul : 0 < (b.1 - a.1) * (c.2 - a.2) := by simpa [edgeFn, hab] using he
    exact ⟨fun hx => Int.sub_pos.1 (Int.pos_of_mul_pos_right hmul (Int.sub_pos.2 hx)),
      fun hy => Int.sub_pos.1 (Int.pos_of_mul_pos_left hmul (Int.sub_pos.2 hy))⟩
  simp only [topLeft, Bool.or_eq_true, Bool.and_eq_true, decide_eq_true_eq, beq_iff_eq]
  rw [or_comm, and_congr_right hrow]

/-- Of an edge's two directions one is that of a top or a left edge. -/
theorem topLeft_swap (hab : a ≠ b) : topLeft b a = !topLeft a b := by
  have hne : a.2 = b.2 → a.1 ≠ b.1 := fun h2 h1 => hab (Prod.ext h1 h2)
  rw [Bool.eq_not, ne_eq, Bool.eq_iff_iff]
  simp only [topLeft, Bool.or_eq_true, Bool.and_eq_true, decide_eq_true_eq, beq_iff_eq]
  omega

/-- The inside of an edge of a triangle whose signed area is `e`: to the right of the edge in the order that the triangle is taken in. -/
def insideFrom (e : Int) (a b p : Pt) : Bool := if e < 0 then insideEdge b a p else insideEdge a b p

theorem insideTri_eq (a b c p : Pt) : let e := edgeFn a b c
    insideTri (a, b, c) p = (insideFrom e a b p && insideFrom e b c p && insideFrom e c a p) := by
  intro e
  simp only [insideTri, orient, insideFrom]
  by_cases he : edgeFn a b c < 0
  · simp only [e, he, if_true]
    rw [Bool.and_comm (insideEdge a c p && _), Bool.and_comm (insideEdge a c p), Bool.and_assoc]
  · simp only [e, he, if_false]

section Area
variable {e : Int}

/-- The area of a triangle with a product that is not 0 is positive where it is not negative. -/
theorem right_pos_of_mul_ne_zero {x : Int} (hx : x * e ≠ 0) (he : ¬e < 0) : 0 < e := by
  have hne : e ≠ 0 := by
    rintro rfl
    exact hx (Int.mul_zero x)
  omega

theorem insideFrom_of_pos (hp : 0 < edgeFn a b p * e) : insideFrom e a b p = true := by
  unfold insideFrom
  split
  · rename_i he
    exact insideEdge_of_pos (by rw [edgeFn_swap]; exact Int.neg_pos_of_neg (Int.neg_of_mul_pos_left hp he))
  · rename_i he
    exact insideEdge_of_pos (Int.pos_of_mul_pos_left hp (right_pos_of_mul_ne_zero (Int.ne_of_gt hp) he))

theorem insideFrom_of_neg (hp : edgeFn a b p * e < 0) : insideFrom e a b p = false := by
  unfold insideFrom
  split
  · rename_i he
    exact insideEdge_of_neg (by rw [edgeFn_swap]; exact Int.neg_neg_of_pos (Int.pos_of_mul_neg_left hp he))
  · rename_i he
    exact insideEdge_of_neg (Int.neg_of_mul_neg_left hp (right_pos_of_mul_ne_zero (Int.ne_of_lt hp) he))

end Area

/-- A position on an edge, inside the other two, is covered where the edge, in its order, is a top or a left one. -/
theorem insideTri_onEdge (hab : edgeFn a b p = 0) (hbc : 0 < edgeFn b c p * edgeFn a b c) (hca : 0 < edgeFn c a p * edgeFn a b c) :
    insideTri (a, b, c) p = if edgeFn a b c < 0 then topLeft b a else topLeft a b := by
  have hba : edgeFn b a p = 0 := by rw [edgeFn_swap, hab, Int.neg_zero]
  rw [insideTri_eq, insideFrom_of_pos hbc, insideFrom_of_pos hca, Bool.and_true, Bool.and_true, insideFrom, insideEdge_of_zero hab,
    insideEdge_of_zero hba]

end Edges

/-! The coverage of a quad as a number. -/

/-- A power of two above a number adds its bit. -/
theorem testBit_add_two_pow {m n : Nat} (hm : m < 2 ^ n) (i : Nat) : (m + 2 ^ n).testBit i = (decide (i = n) || m.testBit i) := by
  have hor : m + 2 ^ n = 2 ^ n ||| m := by simpa [Nat.add_comm] using Nat.two_pow_add_eq_or_of_lt hm 1
  rw [hor, Nat.testBit_or, Nat.testBit_two_pow]
  simp only [eq_comm]

/-- A sum of powers of two below `2 ^ n`, each taken at most once, has just their bits. -/
theorem testBit_sumPow (q : Nat → Bool) (n : Nat) : let m := ((List.range n).filter q).foldl (fun m i => m + 2 ^ i) 0
    m < 2 ^ n ∧ ∀ i, m.testBit i = (decide (i < n) && q i) := by
  induction n with
  | zero => simp
  | succ n ih =>
    obtain ⟨hlt, hbit⟩ := ih
    have hsucc : ∀ i, i ≠ n → decide (i < n + 1) = decide (i < n) := fun i hi => decide_eq_decide.2 (by omega)
    simp only [List.range_succ, List.filter_append, List.foldl_append]
    generalize ((List.range n).filter q).foldl (fun m i => m + 2 ^ i) 0 = m at hlt hbit
    cases hq : q n
    · rw [List.filter_cons_of_neg (by rw [hq]; decide)]
      refine ⟨Nat.lt_trans hlt (Nat.pow_lt_pow_succ Nat.one_lt_two), fun i => (hbit i).trans ?_⟩
      by_cases hi : i = n
      · rw [hi, hq, Bool.and_false, Bool.and_false]
      · rw [hsucc i hi]
    · rw [List.filter_cons_of_pos hq]
      refine ⟨?_, fun i => (testBit_add_two_pow hlt i).trans ?_⟩
      · rw [List.filter_nil, List.foldl_cons, List.foldl_nil, Nat.pow_succ]
        omega
      · by_cases hi : i = n
        · rw [hi, hq, decide_eq_true rfl, decide_eq_true n.lt_succ_self, Bool.true_or, Bool.true_and]
        · rw [hbit, hsucc i hi, decide_eq_false hi, Bool.false_or]

/-- Settles O60: the product of the signs decides a position off the edges, the direction of the edge one on it; a quad's coverage is a sum
of the bits of its covered samples. -/
theorem sampleCoverage : Obligations.SampleCoverage := by
  refine ⟨?positions, fun a b c p => ⟨?inside, ?outside, ?onEdge⟩, ?shared, ?quad⟩
  case positions => decide
  case inside =>
    intro hab hbc hca
    rw [insideTri_eq, insideFrom_of_pos hab, insideFrom_of_pos hbc, insideFrom_of_pos hca]
    rfl
  case outside =>
    rintro (hab | hbc | hca) <;> rw [insideTri_eq]
    · rw [insideFrom_of_neg hab, Bool.false_and, Bool.false_and]
    · rw [insideFrom_of_neg hbc, Bool.and_false, Bool.false_and]
    · rw [insideFrom_of_neg hca, Bool.and_false]
  case onEdge =>
    intro hab hbc hca
    rw [insideTri_onEdge hab hbc hca]
    rcases Int.lt_trichotomy (edgeFn a b c) 0 with he | he | he
    · rw [if_pos he, topLeft_iff (c := c) (by rw [edgeFn_swap]; exact Int.neg_pos_of_neg he)]
      omega
    · simp [he] at hbc
    · rw [if_neg (Int.not_lt.2 (Int.le_of_lt he)), topLeft_iff he]
      omega
  case shared =>
    intro a b c d p hc hd hp hbc hca hbd hda
    have hab : a ≠ b := by
      rintro rfl
      simp [edgeFn] at hc
    rw [insideTri_onEdge hp (Int.mul_pos hbc hc) (Int.mul_pos hca hc), insideTri_onEdge hp (Int.mul_pos_of_neg_of_neg hbd hd)
      (Int.mul_pos_of_neg_of_neg hda hd), if_neg (Int.not_lt.2 (Int.le_of_lt hc)), if_pos hd, topLeft_swap hab]
    cases topLeft a b <;> decide
  case quad => exact fun h b prim tile quad i => (testBit_sumPow _ _).2 i

end Sys2Proof.Machine
end

section
namespace Sys2Proof.Machine

/-! ## Events of displays and passes (R205 to R217, R284, R300 to R303) -/

/-! Displays and present queues. -/

/-- At its time a boundary composes the frame, begins the generation, drops the grants that ended and latches the display's queues (R284). -/
theorem execDisplayBoundary_due {s : State} {d : Nat} {c : DispArgs} (hcfg : (dispSt s d).cfg = some c)
    (hdue : boundaryAt c (dispSt s d).first (dispSt s d).count ≤ s.time) :
    let t := compose s d c
    let u := { t with pix := { t.pix with disps := Tbl.modify t.pix.disps d fun x => beginGen x c } }
    let v := { u with pix := { u.pix with cts := u.pix.cts.filter fun e => e.2.a.disp != d || decide (genOf u d ≤ e.2.a.last.toNat) } }
    execDisplayBoundary d s = .next (checkTimelines { v with pix := { v.pix with pqs := v.pix.pqs.map fun e =>
      if e.2.a.disp == d then (e.1, latchPq v (genOf u d) e.2) else e } }) := by
  simp only [execDisplayBoundary, boundary, hcfg, decide_eq_true_eq, Nat.not_lt.2 hdue, if_false]

theorem execPresentDoorbell_queue {s : State} {n tail : Nat} {q : PresQ} (hq : Tbl.get? s.pix.pqs n = some q) :
    execPresentDoorbell n tail s = .next (presTake s n (min ((tail + 65536 - q.head.toNat) % 65536) (2 ^ q.a.log2n))) := by
  simp only [execPresentDoorbell, hq]

section Passes
variable {s : State} {pid : Nat} {p : PassSt} {hd : PassHdr} (hp : Tbl.get? s.passes pid = some p) (hhd : passHdr s pid = some hd)
include hp hhd

/-! Commits (R208, R209). -/

/-- A ready commit of a draw tests, unless EARLY did, and blends what passed. -/
theorem execSampleCommit_ready {k : Nat} {x : Commit} {d : Draw} (hx : p.commits[k]? = some x) (hready : commitReady s pid p k x = true)
    (hitem : p.taken[x.item]? = some (.draw d)) :
    let t := modPass s pid fun p => touchPix { p with commits := removeAt p.commits k } x.tile x.pix
    let y := if x.early then (true, t) else depthStage t pid hd x.tile x.pix x.sample d.ds.toNat x.depth.toNat
    let z := if y.1 then blendStage y.2 pid hd x.tile x.pix x.sample d.bl (x.planes.filter fun e => planeFmt hd e.1 != 3) else y.2
    execSampleCommit pid k s = .next (checkLadders (checkFences (commitDone z pid x y.1))) := by
  simp only [execSampleCommit, sampleCommit, hp, hhd, hx, hready, hitem, Bool.not_true, Bool.false_eq_true, if_false]

section Context
variable {c : Ctx} (hc : Tbl.get? s.ctxs p.ctx = some c)
include hc

/-- When the bin area is full, the tiles that have come up to what is binned leave their cores (R207). -/
theorem execBinOverflowSpill_pass :
    let l := (p.cur.filterMap (·.2)).filter fun t => caughtUp s pid p (binFront p).1 (binFront p).2 t
    execBinOverflowSpill pid s = .next (l.foldl
      (fun s t => match Tbl.get? s.passes pid with | some p => (spillTile s pid p hd c t).getD s | none => s)
      (modPass s pid fun p => { p with binFull := true })) := by
  simp only [execBinOverflowSpill, binSpill, hp, hhd, hc] <;> rfl

/-- A tile that is done with, on its core, stores the pixels of a free choice among those that wait for no frame (R291). -/
theorem execTileStore_due {tile : Nat} {t : State} (hdue : storeDue s pid p hd c tile = true) (ht : takeTile s pid p hd c tile = some t) :
    let todo := storesLeft hd p tile
    let at_ := fun (i : Nat) => nth todo i (0, 0)
    ∃ now : List Nat, (∀ i ∈ now, i < todo.length ∧ storeTo t c.oid hd (nth p.surf (at_ i).2 0) tile (at_ i).1 ≠ .wait) ∧
    let left := ((List.range todo.length).filter fun i => !now.contains i).map at_
    let u := now.foldl (fun s i => storePixel s p.ctx c.oid hd pid tile (at_ i).1 (at_ i).2) { t with freeCtr := t.freeCtr + 1 }
    execTileStore pid tile s = .next (checkLadders (if left.isEmpty then finishPass (modPass u pid (tileStored hd tile)) pid
      else modPass u pid fun p => { p with storing := Tbl.set p.storing tile left })) := by
  intro todo at_
  refine ⟨(List.range todo.length).filter fun i =>
    (freshNat t).1.testBit i && storeTo t c.oid hd (nth p.surf (at_ i).2 0) tile (at_ i).1 != .wait, fun i hi => ?_, ?_⟩
  · obtain ⟨hlt, hchosen⟩ := List.mem_filter.1 hi
    exact ⟨List.mem_range.1 hlt, by simpa using (Bool.and_eq_true_iff.1 hchosen).2⟩
  · simp only [execTileStore, tileStore, hp, hhd, hc, hdue, ht, Bool.not_true, Bool.false_eq_true, if_false] <;> rfl

section Record
variable {r : Rec} (hr : Tbl.get? s.recs pid = some r)
include hr

/-! Items (R224, R226). -/

section Items
variable (hleft : p.taken.length < hd.nitem) (hgo : p.refused = false) (hmay : mayStart s p.ctx c = true)
include hleft hgo hmay

theorem execPassItemTake_ok {i : PassItem} {o : Option ObjRef} (ht : takeItem s p.ctx c hd (hd.items.toNat + 64 * p.taken.length) = .ok (i, o)) :
    execPassItemTake pid s = .next (beginLaunch (modPass (touchReads s p.ctx c (i.reads (hd.items.toNat + 64 * p.taken.length))) pid fun p =>
      { p with taken := p.taken ++ [i] }) (itemLaunch p.ctx r.slot pid p.taken.length i o)) := by
  simp [execPassItemTake, passItemTake, hp, hhd, hr, hc, hgo, hmay, ht, Nat.not_le.2 hleft]

theorem execPassItemTake_refuse {e : Nat} (ht : takeItem s p.ctx c hd (hd.items.toNat + 64 * p.taken.length) = .refuse e) :
    execPassItemTake pid s = .next (refuseSlot (modPass s pid fun p => { p with refused := true }) r.slot e) := by
  simp [execPassItemTake, passItemTake, hp, hhd, hr, hc, hgo, hmay, ht, Nat.not_le.2 hleft]

end Items

/-! Tiles (R205, R207, R217). -/

section Tiles
variable {tile : Nat} (htile : tile < hd.tx * hd.ty) (hopen : p.stored.contains tile = false)
include htile hopen

/-- A tile that the pass goes on with takes its core, and its next group, or waits for its dispatch. -/
theorem execTileRaster_walks {i : PassItem} {t : State}
    (hgo : passStarts s p c = true ∨ (passFinishes s p c = true ∧ passGoes p hd tile = true)) : let at_ := tilePos p tile
    p.taken[at_.1]? = some i → takeTile s pid p hd c tile = some t → execTileRaster pid tile s = .next (checkLadders (match i with
      | .draw d => if p.done.contains at_.1 then walkDraw t pid p hd c r.slot tile at_ d else t
      | .disp _ _ => passDispatch t pid p tile at_.1)) := by
  intro at_ hi ht
  have hgo : (passStarts s p c || (passFinishes s p c && passGoes p hd tile)) = true := by simpa using hgo
  cases i <;> simp only [execTileRaster, tileRaster, hp, hhd, hr, hc, hopen, hgo, hi, ht, at_, Nat.not_le.2 htile, decide_false, Bool.or_false,
    Bool.false_eq_true, if_false, if_true]

/-- At a boundary of the pass under a ladder a tile with nothing running leaves its core. -/
theorem execTileRaster_spills {t : State} (hstop : passStarts s p c = false) (hfin : passFinishes s p c = true)
    (hbound : (passBoundary p hd).isSome = true) (hidle : tileBusy s pid p tile = false) (ht : spillTile s pid p hd c tile = some t) :
    execTileRaster pid tile s = .next (checkLadders t) := by
  have hgoes : passGoes p hd tile = false := by
    rw [passGoes, Option.isNone_eq_false_iff.2 hbound, Bool.false_and]
  simp only [execTileRaster, tileRaster, hp, hhd, hr, hc, hopen, hstop, hgoes, hfin, hbound, hidle, ht, Nat.not_le.2 htile, decide_false,
    Bool.or_false, Bool.true_and, Bool.not_false, Bool.false_eq_true, if_false, if_true, Option.getD_some]

end Tiles
end Record
end Context
end Passes

/-- Settles O52: each event's rule above, at its instruction. -/
theorem pixelEvents : Obligations.PixelEvents := by
  intro s
  refine ⟨fun d c => execDisplayBoundary_due, fun n q tail => execPresentDoorbell_queue, fun pid p hd r c hp hhd hr hc =>
    ⟨?items, ?tiles, execBinOverflowSpill_pass hp hhd hc, ?commits, ?stores⟩⟩
  case items =>
    exact fun hleft hgo hmay => ⟨fun i o => execPassItemTake_ok hp hhd hc hr hleft hgo hmay, fun e =>
      execPassItemTake_refuse hp hhd hc hr hleft hgo hmay⟩
  case tiles =>
    exact fun tile htile hopen => ⟨fun i t => execTileRaster_walks hp hhd hc hr htile hopen,
      fun t => execTileRaster_spills hp hhd hc hr htile hopen⟩
  case commits => exact fun k x hx hready d => execSampleCommit_ready hp hhd hx hready
  case stores => exact fun tile t => execTileStore_due hp hhd hc

end Sys2Proof.Machine
end

section
namespace Sys2Proof.Machine

/-! ## Textures, tile buffers and pixels (R210 to R216, R296 to R299) -/

/-! `tex` and `tex.fetch` (R210 to R212, R293). -/

/-- A texture read at its issue, by its sampler: every texel passes, or the sampler word, or the world of its image, is refused. -/
theorem texRun_able {fetch : Bool} {f : VFmt} {s : State} {h : Here} : let ra := h.f.wb * 8 + f.a.toNat
    let rd := h.f.wb * 8 + f.vd.toNat
    let w := (uniVal h.g f.pfx f.b).toNat
    let t := samplerOf h.c w fetch
    let r := texScan t h ra (laneList (h.act (mskOf f.pfx))) { s := drainGroup s h.gid, oks := [], bads := [], wait := false }
    Able s h (texCauses texSpec f) true { vregs := [ra, ra + 1, rd, rd + 1, rd + 2, rd + 3], sregs := scalarNos f.pfx f.b } →
    (samplerBad w fetch = false → t.levels ≠ 0 → tdWorld t.td = 0 → texHeld (drainGroup s h.gid) h.gid = false → r.wait = false →
      r.bads = [] → texRun fetch f s = .next (h.advance (pushPend (texWrite r.s h rd (h.act (mskOf f.pfx)) (zroOf f.pfx) r.oks)
        [texDue (drainGroup s h.gid) h fetch w ra rd (r.oks.map (·.1))]) (lenOf f.pfx))) ∧
    (samplerBad w fetch = true ∨ t.levels = 0 → texRun fetch f s = .next (raise s h (h.act (mskOf f.pfx)) (lenOf f.pfx) 0x006 0 0)) ∧
    (samplerBad w fetch = false → t.levels ≠ 0 → tdWorld t.td ≠ 0 →
      texRun fetch f s = .next (raise s h (h.act (mskOf f.pfx)) (lenOf f.pfx) 0x034 0 0)) := by
  intro ra rd w t r ⟨hl, ⟨hwin, _⟩, hfree⟩
  rw [texRun, issue_here _ hl.1]
  dsimp only
  rw [checked_legal _ _ _ hl, if_neg (by rw [hwin]; decide), withRegs_free _ hl.1 hfree]
  refine ⟨fun hgood hlev hworld hheld hwait hbads => ?_, fun hbad => ?_, fun hgood hlev hworld => ?_⟩
  · rw [if_neg (by simpa using ⟨hgood, hlev⟩), if_neg (by simpa using hworld), if_neg (by simpa using ⟨hheld, hwait⟩)]
    simp only [r, t, ra, w] at hbads
    rw [hbads]
    rfl
  · rw [if_pos (by simpa using hbad), raiseA]
  · rw [if_neg (by simpa using ⟨hgood, hlev⟩), if_pos (by simpa using hworld), raiseA]

/-- A texture read that is not complete yet may complete with one more check of all its texels (R293). -/
theorem texComplete_here {s : State} {x : TexDue} {h : Here} (hh : texHere s x = some h) :
    let r := texScan { samplerOf h.c x.word x.fetch with td := x.td } h 0 x.lanes { s := s, oks := [], bads := [], wait := false }
    texComplete s x = if r.wait = false ∧ r.bads = [] then
      modGroup r.s x.gid fun g => (List.range 4).foldl (fun g c => texPut g (x.rd + c) c r.oks) g else s := by
  intro r
  rw [texComplete, hh]
  by_cases hpass : r.wait = false ∧ r.bads = []
  · have hgood : (r.wait || !r.bads.isEmpty) = false := by rw [hpass.1, hpass.2]; rfl
    rw [if_pos hpass]
    exact if_neg (by rw [hgood]; decide)
  · have hfail : (r.wait || !r.bads.isEmpty) = true := by
      cases hw : r.wait
      · simpa [hw] using hpass
      · rfl
    rw [if_neg hpass]
    exact if_pos hfail

theorem execMemoryAccessPerform_tex {s : State} {k : Nat} {x : TexDue} (hx : s.mem.pend[k]? = some (.tex x)) :
    execMemoryAccessPerform k s = .next (texComplete (dropPend s k) x) := by simp only [execMemoryAccessPerform, hx]

/-! The tile buffer (R213 to R216). -/

/-- What `tb.ld` and `tb.st` name: the tile addresses, where no fragment gives them, and vd. -/
abbrev tbNamed (h : Here) (f : UFmt) : Named := (if readsFragment f.pfx then {} else nameSel h f.pfx false f.a).and (nameVd h false f.vd)

section TileBuffer
variable {f : UFmt} {s : State} {h : Here}

/-- Tile addresses that all name a sample and a plane of the pass. -/
theorem tileLanes_ok {home : Nat × Nat × Nat} {hd : PassHdr} {addr : Nat → Nat} {lanes : List Nat} (hhome : tileHome s h = some home)
    (hhd : passHdr s home.1 = some hd) (hok : lanes.all (fun l => tileAddrOk hd (addr l)) = true) : tileLanes s h addr lanes = (lanes, []) := by
  rw [List.all_eq_true] at hok
  simp only [tileLanes, hhome, hhd, Option.bind_some]
  rw [List.filter_eq_self.2 hok, List.filter_eq_nil_iff.2 fun l hl => by simp [hok l hl]]
  rfl

/-- Words of which none holds a double-bit error. -/
theorem tileReads_clean {addr : Nat → Nat} {lanes : List Nat} (hclean : ∀ l ∈ lanes, tileWordBad s h (addr l) = false) :
    tileReads s h addr lanes = (lanes, []) := by
  rw [tileReads, List.filter_eq_self.2 fun l hl => by simp [hclean l hl], List.filter_eq_nil_iff.2 fun l hl => by simp [hclean l hl]]
  rfl

/-- An instruction of the tile buffer that is ready, all of whose addresses pass their checks, has its effect in every active lane. -/
theorem tbRun_able {spec : LaneSpec} {reads : Bool} {k : State → Here → (Nat → Nat) → List Nat → Option State} {t : State}
    (e : Able s h (uCauses spec f) true (tbNamed h f))
    (hfrag : readsFragment f.pfx = true → FragReady s h (fragOf f.pfx).1)
    (hok : tileLanes s h (tbAddr s h f) (laneList (h.act (mskOf f.pfx))) = (laneList (h.act (mskOf f.pfx)), []))
    (hclean : reads = true → ∀ l ∈ laneList (h.act (mskOf f.pfx)), tileWordBad s h (tbAddr s h f l) = false)
    (hk : k s h (tbAddr s h f) (laneList (h.act (mskOf f.pfx))) = some t) : tbRun spec reads f k s = .next (h.advance t (lenOf f.pfx)) := by
  obtain ⟨hl, ⟨hwin, hlatch⟩, hfree⟩ := e
  have hreads : (if reads then tileReads s h (tbAddr s h f) (laneList (h.act (mskOf f.pfx))) else (laneList (h.act (mskOf f.pfx)), [])) =
      (laneList (h.act (mskOf f.pfx)), []) := by
    cases reads
    · rfl
    · exact tileReads_clean (hclean rfl)
  rw [tbRun, issue_here _ hl.1]
  dsimp only
  rw [checked_legal _ _ _ hl, if_neg (by rw [hwin]; decide), if_neg (by rw [hlatch]; decide), withFragment_ready _ _ _ hfrag,
    withRegs_free _ hl.1 hfree, hok, hreads, hk]
  rfl

section Home
variable {home : Nat × Nat × Nat} {hd : PassHdr} (hhome : tileHome s h = some home) (hhd : passHdr s home.1 = some hd)
  (hok : (laneList (h.act (mskOf f.pfx))).all (fun l => tileAddrOk hd (tbAddr s h f l)) = true)
  (hfrag : readsFragment f.pfx = true → FragReady s h (fragOf f.pfx).1)
include hhome hhd hok hfrag

theorem execTbLd_able {p : PassSt} (hp : Tbl.get? s.passes home.1 = some p)
    (e : Able s h (uCauses tbLdSpec f) true (tbNamed h f))
    (hdue : tbLdDue s h (tbAddr s h f) (laneList (h.act (mskOf f.pfx))) = false)
    (hclean : (laneList (h.act (mskOf f.pfx))).any (fun l => tileBad p home.2.2 (tbAddr s h f l)) = false) :
    execTbLd f s = .next (h.advance (modGroup s h.gid fun g => zeroDisabled ((laneList (h.act (mskOf f.pfx))).foldl
      (fun g l => setVreg g (h.f.wb * 8 + f.vd.toNat) l (BitVec.ofNat 32 (tileWord p home.2.2 (tbAddr s h f l)))) g) false
      (h.f.wb * 8 + f.vd.toNat) (h.act (mskOf f.pfx)) (zroOf f.pfx)) (lenOf f.pfx)) := by
  refine tbRun_able e hfrag (tileLanes_ok hhome hhd hok) (fun _ l hl => ?_) ?_
  · simp only [tileWordBad, hhome, hp]
    simpa using List.any_eq_false.1 hclean l hl
  · rw [if_neg (by rw [hdue]; decide)]
    simp only [hhome, hp]

theorem execTbSt_able (e : Able s h (uCauses tbStSpec f) true (tbNamed h f)) :
    execTbSt f s = .next (h.advance (modPass s home.1 fun p => (laneList (h.act (mskOf f.pfx))).foldl (fun p l =>
      touchPix (putTile p home.2.2 (tbAddr s h f l) (getVreg h.g (h.f.wb * 8 + f.vd.toNat) l).toNat) home.2.2 (tbAddr s h f l % 4096)) p)
      (lenOf f.pfx)) := by
  refine tbRun_able e hfrag (tileLanes_ok hhome hhd hok) (fun hr => Bool.noConfusion hr) ?_
  simp only [hhome]

end Home

/-- `tb.fence` in a pass waits for what is due, or goes on; outside a pass it raises scratch-range. -/
theorem execTbFence_legal (e : Legal s h (tbFenceCauses f) true) :
    execTbFence f s = .next (if (tileHome s h).isNone then raise s h (h.act (mskOf f.pfx)) (lenOf f.pfx) 0x020 0 0
      else if fenceDue s h.gid h.g then s.waits h .tbFence (lenOf f.pfx) none else h.advance s (lenOf f.pfx)) :=
  issue_checked_legal _ e

end TileBuffer

/-! Ownership, consent and exports (R296 to R299). -/

section Pixels
variable {f : UFmt} {s : State} {h : Here}

/-- An instruction of the pixel family that is ready has its effect on vd. -/
theorem pixRun_able {causes : List Nat} (k : State → Here → Nat → State) : let r := h.f.wb * 8 + f.vd.toNat
    Able s h causes true { vregs := [r, r + 1, r + 2, r + 3], sregs := scalarNos f.pfx f.a } → pixRun causes f 4 k s = .next (k s h r) := by
  intro r ⟨hl, ⟨hwin, _⟩, hfree⟩
  have hnamed : (List.range 4).map (fun i => h.f.wb * 8 + f.vd.toNat + i) = [r, r + 1, r + 2, r + 3] := rfl
  rw [pixRun, issue_here _ hl.1]
  dsimp only
  rw [hnamed, checked_legal _ _ _ hl, if_neg (by rw [hwin]; decide), withRegs_free _ hl.1 hfree]

/-- `pix.own` and `ct.look` of a surface number that there is, or is not. -/
theorem lookRun_able {causes : List Nat} {word : State → Nat → Nat → Nat → Nat → Nat} : let r := h.f.wb * 8 + f.vd.toNat
    let sid := (uniVal h.g f.pfx f.a).toNat
    let at_ := fun l => (getVreg h.g r l).toNat
    Able s h causes true { vregs := [r, r + 1, r + 2, r + 3], sregs := scalarNos f.pfx f.a } →
    (sid < 4096 → lookRun causes f word s = .next (h.advance (modGroup s h.gid fun g => writeLanes g false r (h.act (mskOf f.pfx)) (zroOf f.pfx)
      (fun l => word s h.c.oid sid (at_ l % 65536) (at_ l / 65536)) (laneNos g.w)) (lenOf f.pfx))) ∧
    (4096 ≤ sid → lookRun causes f word s = .next (raise s h h.f.pred (lenOf f.pfx) 0x006 0 0)) := by
  intro r sid at_ e
  rw [lookRun, pixRun_able _ e]
  dsimp only
  exact ⟨fun hlt => by rw [if_neg (Nat.not_le.2 hlt)]; rfl, fun hge => by rw [if_pos hge, raiseP]⟩

/-- `pix.exp` of a legal word in a fragment group stages its lanes, and with LAST makes their commits due. -/
theorem execPixExp_able {fr : FragInfo} {hd : PassHdr} : let r := h.f.wb * 8 + f.vd.toNat
    let w := (uniVal h.g f.pfx f.a).toNat
    let lanes := laneList (h.act (mskOf f.pfx) &&& ~~~fr.helper)
    let stage := fun (x : FragInfo) =>
      lanes.foldl (fun x l => stageLane h.g x r l (w % 4) (w / 64 % 2 == 1) (planeCount (planeFmt hd (w % 4)))) x
    let t := modGroup s h.gid fun g => { g with frag := g.frag.map stage }
    Able s h (pixCauses pixESpec f) true { vregs := [r, r + 1, r + 2, r + 3], sregs := scalarNos f.pfx f.a } → w < 256 →
    h.g.frag = some fr → passHdr s fr.pass = some hd → w % 4 < hd.npl → (w / 64 % 2 = 1 ↔ planeFmt hd (w % 4) = 3) →
    execPixExp f s = .next (h.advance (if w / 128 % 2 = 1 then lanes.foldl (fun s l => exportLast s h hd fr.pass r (w / 4 % 16) l) t else t)
      (lenOf f.pfx)) := by
  intro r w lanes stage t e hw hfr hhd hpl hdep
  have hlegal : (decide (hd.npl ≤ w % 4) || (w / 64 % 2 == 1) != (planeFmt hd (w % 4) == 3)) = false := by
    rw [Bool.or_eq_false_iff, bne_eq_false_iff_eq]
    exact ⟨decide_eq_false (Nat.not_le.2 hpl), by rw [Bool.eq_iff_iff, beq_iff_eq, beq_iff_eq]; exact hdep⟩
  rw [execPixExp, pixRun_able _ e]
  dsimp only
  rw [if_neg (Nat.not_le.2 hw)]
  simp only [hfr, hhd]
  rw [if_neg (by rw [hlegal]; decide)]
  simp only [beq_iff_eq]
  rfl

end Pixels

/-! ## What the pixel instructions leave (R212, R297 to R299) -/

/-! A texture read. -/

/-- The record of a key is the one that is listed under it, where no key is listed twice. -/
theorem Tbl.get?_of_mem {α : Type} {t : Tbl α} {e : Nat × α} (hnd : (t.map (·.1)).Nodup) (he : e ∈ t) : Tbl.get? t e.1 = some e.2 := by
  induction t with
  | nil => cases he
  | cons x r ih =>
    obtain ⟨hx, hr⟩ := List.nodup_cons.1 hnd
    rcases List.mem_cons.1 he with rfl | he
    · exact if_pos rfl
    · have hne : e.1 ≠ x.1 := fun heq => hx (List.mem_map.2 ⟨e, he, heq⟩)
      exact (if_neg hne).trans (ih hr he)

/-- A key that is not listed has no record. -/
theorem Tbl.get?_eq_none {α : Type} {t : Tbl α} {k : Nat} (hk : ∀ e ∈ t, e.1 ≠ k) : Tbl.get? t k = none := by
  induction t with
  | nil => rfl
  | cons x r ih =>
    exact (if_neg (hk x List.mem_cons_self).symm).trans (ih fun e he => hk e (List.mem_cons_of_mem _ he))

section TexWrites
variable {oks : List (Nat × List Nat)} (hnd : (oks.map (·.1)).Nodup) (hlt : ∀ e ∈ oks, e.1 < 64)

theorem texPut_w (g : Group) (reg c : Nat) (oks : List (Nat × List Nat)) : (texPut g reg c oks).w = g.w := by
  induction oks generalizing g with
  | nil => rfl
  | cons e r ih => exact ih _

include hnd hlt

/-- One component of the lanes that passed. -/
theorem getVreg_texPut (g : Group) (reg c : Nat) {r l : Nat} (hl : l < 64) : getVreg (texPut g reg c oks) r l =
    if r = reg then ((Tbl.get? oks l).map fun x => BitVec.ofNat 32 (nth x c 0)).getD (getVreg g r l) else getVreg g r l := by
  induction oks generalizing g with
  | nil => simp [texPut, Tbl.get?]
  | cons e rest ih =>
    obtain ⟨he, hrest⟩ := List.nodup_cons.1 hnd
    have hput := getVreg_setVreg g reg e.1 (BitVec.ofNat 32 (nth e.2 c 0)) r l (hlt e List.mem_cons_self) hl
    have htail := ih hrest (fun x hx => hlt x (List.mem_cons_of_mem _ hx)) (setVreg g reg e.1 (BitVec.ofNat 32 (nth e.2 c 0)))
    rw [texPut, List.foldl_cons, ← texPut, htail, hput, Tbl.get?]
    by_cases hle : l = e.1
    · have hnone : Tbl.get? rest l = none := Tbl.get?_eq_none fun x hx hxl => he (List.mem_map.2 ⟨x, hx, hxl.trans hle⟩)
      simp [hle ▸ hnone, hle]
    · simp [hle]

/-- What a texture read leaves in a lane of the register of component `c` that held `old`. -/
def texCell (w : Nat) (act : W64) (zro : Bool) (oks : List (Nat × List Nat)) (c l : Nat) (old : W32) : W32 :=
  if zro = true ∧ l < w ∧ inSet act l = false then 0 else ((Tbl.get? oks l).map fun x => BitVec.ofNat 32 (nth x c 0)).getD old

/-- The registers of the first `n` components: each takes its own, and every other register is as it was. -/
theorem getVreg_texComponents (g : Group) (rd n : Nat) (act : W64) (zro : Bool) :
    let g2 := (List.range n).foldl (fun g c => zeroDisabled (texPut g (rd + c) c oks) false (rd + c) act zro) g
    g2.w = g.w ∧ ∀ r l, l < 64 → (∀ c < n, r = rd + c → getVreg g2 r l = texCell g.w act zro oks c l (getVreg g r l)) ∧
      ((∀ c < n, r ≠ rd + c) → getVreg g2 r l = getVreg g r l) := by
  induction n with
  | zero => exact ⟨rfl, fun r l _ => ⟨fun c hc => absurd hc (Nat.not_lt_zero c), fun _ => rfl⟩⟩
  | succ n ih =>
    obtain ⟨hw, hget⟩ := ih
    simp only [List.range_succ, List.foldl_append, List.foldl_cons, List.foldl_nil]
    generalize (List.range n).foldl (fun g c => zeroDisabled (texPut g (rd + c) c oks) false (rd + c) act zro) g = m at hw hget ⊢
    refine ⟨(congrArg Group.w (zeroDisabled_same _ _ _ _ _).1).trans ((texPut_w _ _ _ _).trans hw), fun r l hl => ?_⟩
    obtain ⟨hown, hother⟩ := hget r l hl
    rw [getVreg_zeroDisabled _ _ _ _ _ hl, getVreg_texPut hnd hlt _ _ _ hl, texPut_w, hw]
    by_cases hr : r = rd + n
    · have hold : getVreg m r l = getVreg g r l := hother fun c hc => by omega
      refine ⟨fun c _ hrc => ?_, fun hne => absurd hr (hne n n.lt_succ_self)⟩
      obtain rfl : c = n := by omega
      simp [hr ▸ hold, hr, texCell]
    · refine ⟨fun c hc hrc => ?_, fun hne => ?_⟩
      · have hlt : c < n := by
          have : c ≠ n := fun heq => hr (heq ▸ hrc)
          omega
        simp [hr, hown c hlt hrc]
      · simp [hr, hother fun c hc => hne c (Nat.lt_succ_of_lt hc)]

end TexWrites

/-- A texture read leaves the components of the lanes that passed, 0 under `.zro` in the disabled lanes, and the rest as it was (R212). -/
theorem texWrite_leaves {s : State} {h : Here} {g : Group} {rd : Nat} {act : W64} {zro : Bool} {oks : List (Nat × List Nat)}
    (hg : Tbl.get? s.groups h.gid = some g) (hw : g.w ≤ 64) (hnd : (oks.map (·.1)).Nodup) (hoks : ∀ e ∈ oks, e.1 < 64 ∧ inSet act e.1 = true) :
    ∃ g2, Tbl.get? (texWrite s h rd act zro oks).groups h.gid = some g2 ∧
      (∀ e ∈ oks, ∀ c < 4, getVreg g2 (rd + c) e.1 = BitVec.ofNat 32 (nth e.2 c 0)) ∧
      (∀ l < g.w, inSet act l = false → ∀ c < 4, getVreg g2 (rd + c) l = if zro then 0 else getVreg g (rd + c) l) ∧
      (∀ l < g.w, inSet act l = true → (∀ e ∈ oks, e.1 ≠ l) → ∀ c < 4, getVreg g2 (rd + c) l = getVreg g (rd + c) l) ∧
      ∀ r l, l < 64 → (∀ c < 4, r ≠ rd + c) → getVreg g2 r l = getVreg g r l := by
  obtain ⟨_, hget⟩ := getVreg_texComponents hnd (fun e he => (hoks e he).1) g rd 4 act zro
  refine ⟨_, by rw [texWrite, modGroup_groups, Tbl.get?_modify, if_pos rfl, hg]; rfl, fun e he c hc => ?_, fun l hl hoff c hc => ?_,
    fun l hl hon hnone c hc => ?_, fun r l hl => (hget r l hl).2⟩
  · obtain ⟨hl, hon⟩ := hoks e he
    rw [(hget _ _ hl).1 c hc rfl, texCell, if_neg (by simp [hon]), Tbl.get?_of_mem hnd he]
    rfl
  · have hnone : Tbl.get? oks l = none := Tbl.get?_eq_none fun e he hel => by simp [← hel, (hoks e he).2] at hoff
    rw [(hget _ _ (by omega)).1 c hc rfl, texCell, hnone]
    simp [hl, hoff]
  · rw [(hget _ _ (by omega)).1 c hc rfl, texCell, if_neg (by simp [hon]), Tbl.get?_eq_none hnone]
    rfl

/-! The words of `pix.own` and `ct.look` (R297, R298). -/

section Words
variable {s : State} {oid sid x y : Nat}

theorem surfPom_eq (s : State) (a : SurfArgs) (x y : Nat) : surfPom s a x y = if a.kind = 1 then some (BitVec.ofNat 16 a.oid)
    else if a.kind = 2 then pomAt s a.disp (a.ox + x) (a.oy + y) else pomAt s a.disp x y := by
  unfold surfPom
  split
  · next hk => rw [if_pos hk]
  · next hk => rw [if_neg (by omega), if_pos hk]
  · next h1 h2 => rw [if_neg h1, if_neg h2]

theorem words_noSurface (hsf : Tbl.get? s.pix.surfs sid = none) : pixOwnWord s oid sid x y = 2 ^ 31 ∧ ctLookWord s oid sid x y = 2 ^ 31 := by
  simp only [pixOwnWord, ctLookWord, hsf, and_self]

variable {sf : Surface} (hsf : Tbl.get? s.pix.surfs sid = some sf)
include hsf

theorem words_outside (hout : sf.a.w ≤ x ∨ sf.a.h ≤ y ∨ surfPom s sf.a x y = none) :
    pixOwnWord s oid sid x y = 2 ^ 31 ∧ ctLookWord s oid sid x y = 2 ^ 31 := by
  simp only [pixOwnWord, ctLookWord, hsf]
  rcases hout with hout | hout | hout <;> simp [hout]

section Inside
variable {w : Half} (hw : surfPom s sf.a x y = some w) (hx : x < sf.a.w) (hy : y < sf.a.h)
include hw hx hy

theorem pixOwnWord_inside : let p := w.toNat % 4096
    pixOwnWord s oid sid x y = if p = 0 then 0 else if p = oid then 2 ^ 16 + w.toNat else if p = 4095 then 3 * 2 ^ 16 else 2 * 2 ^ 16 := by
  have hword : pixOwnWord s oid sid x y =
      ownClass oid (pomOid w) * 2 ^ 16 + if ownClass oid (pomOid w) = 1 then w.toNat else 0 := by
    simp only [pixOwnWord, hsf, hw]
    rw [if_neg (by simpa using ⟨hx, hy⟩)]
  intro p
  rw [hword, show ownClass oid (pomOid w) = if p = 0 then 0 else if p = oid then 1 else if p = 4095 then 3 else 2 from rfl]
  by_cases hnone : p = 0
  · simp only [if_pos hnone] <;> rfl
  by_cases hown : p = oid
  · simp only [if_neg hnone, if_pos hown] <;> rfl
  by_cases hsys : p = 4095
  · simp only [if_neg hnone, if_neg hown, if_pos hsys] <;> rfl
  · simp only [if_neg hnone, if_neg hown, if_neg hsys] <;> rfl

theorem ctLookWord_inside : let p := if sf.a.kind = 3 then w.toNat % 4096 else sf.a.oid
    let held := ((grants s p oid sid x y).foldl (fun (r : BitVec 4) e => r ||| e.rights) 0).toNat
    ctLookWord s oid sid x y = if p = 0 then 15 else if p = oid then 2 ^ 16 + 15 else if p = 4095 then 3 * 2 ^ 16
      else 2 * 2 ^ 16 + if pomNoCap w then held % 8 else held := by
  intro p held
  have howner : texOwner s sf.a x y = (p, pomNoCap w) := by rw [texOwner, hw]; rfl
  simp only [ctLookWord, hsf, hw, howner]
  rw [if_neg (by simpa using ⟨hx, hy⟩), show ownClass oid p = if p = 0 then 0 else if p = oid then 1 else if p = 4095 then 3 else 2 from rfl]
  by_cases hnone : p = 0
  · simp only [if_pos hnone] <;> rfl
  by_cases hown : p = oid
  · simp only [if_neg hnone, if_pos hown] <;> rfl
  by_cases hsys : p = 4095
  · simp only [if_neg hnone, if_neg hown, if_pos hsys] <;> rfl
  · simp only [if_neg hnone, if_neg hown, if_neg hsys] <;> rfl

end Inside
end Words

/-! Exports with LAST (R299). -/

/-- A group that has sent a lane's fragment: nothing of the lane is staged, and nothing of its commits has passed. -/
def exported (g : Group) (f : FragInfo) (reg lane : Nat) : Group := { g with frag := some (clearStage f reg lane) }

theorem get_staged_clearStage (f : FragInfo) (reg lane : Nat) : SMap.get (clearStage f reg lane).staged lane = 0 := by
  simp [clearStage]

theorem sample_lastCommits (gid : Nat) (f : FragInfo) (hd : PassHdr) (reg lane smsk : Nat) :
    (lastCommits gid f hd reg lane smsk).map (·.sample) = lastSamples f lane smsk := by
  rw [lastCommits, List.map_map]
  exact List.map_id _

/-- A commit that LAST makes due, with the depth and the planes that it takes. -/
theorem of_mem_lastCommits {gid : Nat} {f : FragInfo} {hd : PassHdr} {reg lane smsk : Nat} {x : Commit}
    (hx : x ∈ lastCommits gid f hd reg lane smsk) : let staged := fun k => (SMap.get f.staged lane).getLsbD k
    x.gid = gid ∧ x.lane = lane ∧ x.item = f.item ∧ x.prim = f.prim ∧ x.tile = f.tile ∧
      x.pix = (SMap.get f.pix lane).toNat ∧ x.reg = reg ∧
      x.depth = (if staged 4 = true ∧ f.early = false then SMap.get f.stage (32 * lane + 16) else SMap.get f.zval (4 * lane + x.sample)) ∧
      x.planes = ((List.range hd.npl).filter staged).map fun q =>
        (q, (List.range (planeCount (planeFmt hd q))).map fun c => SMap.get f.stage (32 * lane + 4 * q + c)) := by
  obtain ⟨k, _, rfl⟩ := List.mem_map.1 hx
  exact ⟨rfl, rfl, rfl, rfl, rfl, rfl, rfl, by simp, rfl⟩

section Export
variable {s : State} {h : Here} {hd : PassHdr} {g : Group} {f : FragInfo} {p : PassSt} {reg smsk lane : Nat}
  (hg : Tbl.get? s.groups h.gid = some g) (hf : g.frag = some f)
include hg hf

theorem get?_modFrag_clearStage : Tbl.get? (modFrag s h.gid fun f => clearStage f reg lane).groups h.gid = some (exported g f reg lane) := by
  simp [modFrag, hg, hf, exported]

theorem exportLast_uncovered (hon : lastSamples f lane smsk = []) : exportLast s h hd f.pass reg smsk lane =
    modGroup (modFrag s h.gid fun f => clearStage f reg lane) h.gid fun g => setVreg g reg lane 0 := by
  simp [exportLast, hg, hf, lastCommits, hon]

theorem exportLast_covered (hon : lastSamples f lane smsk ≠ []) : exportLast s h hd f.pass reg smsk lane =
    modPass (modFrag s h.gid fun f => clearStage f reg lane) f.pass fun p =>
      { p with commits := p.commits ++ lastCommits h.gid f hd reg lane smsk } := by
  simp [exportLast, hg, hf, lastCommits, hon]

variable (hp : Tbl.get? s.passes f.pass = some p)
include hp

/-- LAST makes a commit due for each sample that SMSK names and the lane covers; with none it writes 0 to vd. -/
theorem exportLast_leaves : let on := lastSamples f lane smsk
    let staged := fun k => (SMap.get f.staged lane).getLsbD k
    let t := exportLast s h hd f.pass reg smsk lane
    ∃ g2 f2 p2, Tbl.get? t.groups h.gid = some g2 ∧ g2.frag = some f2 ∧ Tbl.get? t.passes f.pass = some p2 ∧ SMap.get f2.staged lane = 0 ∧
      (on = [] → p2 = p ∧ getVreg g2 reg lane = 0) ∧
      (on ≠ [] → g2.regs = g.regs ∧ ∃ cs, p2 = { p with commits := p.commits ++ cs } ∧ cs.map (·.sample) = on ∧ ∀ x ∈ cs,
        x.gid = h.gid ∧ x.lane = lane ∧ x.item = f.item ∧ x.prim = f.prim ∧ x.tile = f.tile ∧
        x.pix = (SMap.get f.pix lane).toNat ∧ x.reg = reg ∧
        x.depth = (if staged 4 = true ∧ f.early = false then SMap.get f.stage (32 * lane + 16)
          else SMap.get f.zval (4 * lane + x.sample)) ∧
        x.planes = ((List.range hd.npl).filter staged).map fun q =>
          (q, (List.range (planeCount (planeFmt hd q))).map fun c => SMap.get f.stage (32 * lane + 4 * q + c))) := by
  intro on staged t
  have hclear := get?_modFrag_clearStage (reg := reg) (lane := lane) hg hf
  by_cases hon : on = []
  · have ht : t = _ := exportLast_uncovered hg hf hon
    refine ⟨setVreg (exported g f reg lane) reg lane 0, clearStage f reg lane, p, ?_, rfl, ?_, get_staged_clearStage f reg lane,
      fun _ => ⟨rfl, by simp [getVreg, setVreg]⟩, fun hne => absurd hon hne⟩
    · rw [ht, modGroup_groups, Tbl.get?_modify, if_pos rfl, hclear, Option.map_some]
    · rw [ht]
      exact hp
  · have ht : t = _ := exportLast_covered hg hf hon
    refine ⟨exported g f reg lane, clearStage f reg lane, _, ?_, rfl, ?_, get_staged_clearStage f reg lane, fun hnil => absurd hnil hon,
      fun _ => ⟨rfl, lastCommits h.gid f hd reg lane smsk, rfl, sample_lastCommits _ _ _ _ _ _, fun x hx => of_mem_lastCommits hx⟩⟩
    · rw [ht]
      exact hclear
    · rw [ht, modPass_passes, Tbl.get?_modify, if_pos rfl]
      exact congrArg _ hp

end Export

/-- Settles O39: each instruction's effect where it is ready, then what the shared writes, words and exports leave. -/
theorem pixelInstructions : Obligations.PixelInstructions := by
  refine ⟨⟨?tex, ?completes, ?tileBuffer, ?fence, ?look, ?exports⟩, ?texLeaves, ?words, ?exportLeaves⟩
  case tex =>
    simp only [List.forall_mem_cons]
    exact ⟨fun f s h => texRun_able, fun f s h => texRun_able, by simp⟩
  case completes =>
    intro s k x h hx hh r
    exact (execMemoryAccessPerform_tex hx).trans (congrArg _ (texComplete_here hh))
  case tileBuffer =>
    exact fun f s h home p hd hhome hp hhd hok hfrag =>
      ⟨fun e hdue hclean => execTbLd_able hhome hhd hok hfrag hp e hdue hclean, execTbSt_able hhome hhd hok hfrag⟩
  case fence =>
    intro f s h e
    have hrun : exec (.tbFence f) s = _ := execTbFence_legal e
    refine ⟨fun hin hdue => ?_, fun hin hdue => ?_, fun hout => ?_⟩
    · rw [hrun, if_neg (by simpa using Option.isSome_iff_ne_none.1 hin), if_neg (by rw [hdue]; decide)]
    · rw [hrun, if_neg (by simpa using Option.isSome_iff_ne_none.1 hin), if_pos hdue]
    · rw [hrun, if_pos (by rw [hout]; rfl)]
  case look =>
    simp only [List.forall_mem_cons]
    exact ⟨fun f s h => lookRun_able, fun f s h => lookRun_able, by simp⟩
  case exports =>
    intro f s h fr hd r w e hw hfr hhd hpl hdep lanes stage t
    have hrun : exec (.pixExp f) s = _ := execPixExp_able e hw hfr hhd hpl hdep
    exact ⟨fun hlow => hrun.trans (by rw [if_neg (by omega)]), fun hlast => hrun.trans (by rw [if_pos (by omega)])⟩
  case texLeaves => exact fun s h g rd act zro oks hg hw hnd hoks => texWrite_leaves hg hw hnd hoks
  case words =>
    intro s oid sid x y
    refine ⟨words_noSurface, ?_⟩
    intro sf hsf o
    have ho : surfPom s sf.a x y = o := surfPom_eq s sf.a x y
    rw [← ho]
    exact ⟨words_outside hsf, fun w hw hx hy => ⟨pixOwnWord_inside hsf hw hx hy, ctLookWord_inside hsf hw hx hy⟩⟩
  case exportLeaves => exact fun s h hd g f p reg smsk lane hg hf hp => exportLast_leaves hg hf hp

end Sys2Proof.Machine
end

section
namespace Sys2Proof.Machine

/-! ## The queue instructions (R228 to R232) -/

/-- A narrower choice of accesses has none in flight where a wider one has none. -/
theorem inFlight_and {s : State} {p : Acc → Bool} (q : Acc → Bool) (hp : inFlight s p = false) :
    inFlight s (fun a => p a && q a) = false := by
  simp only [inFlight, Bool.or_eq_false_iff, List.any_eq_false] at hp ⊢
  obtain ⟨hfab, hpend⟩ := hp
  have hboth : ∀ a, ¬p a = true → ¬(p a && q a) = true := fun a hn hb => hn (Bool.and_eq_true_iff.1 hb).1
  refine ⟨fun a ha => hboth a (hfab a ha), fun x hx => ?_⟩
  have hold := hpend x hx
  cases x with
  | acc a => exact hboth a hold
  | tex x =>
    simp only [List.any_eq_true, not_exists, not_and] at hold ⊢
    exact fun a ha => hboth a (hold a ha)
  | signal | event | barrier => exact hold

/-- A condition that does not hold refuses nothing. -/
theorem firstErr_cons_of_false (e : Nat) (l : List (Bool × Nat)) : firstErr ((false, e) :: l) = firstErr l := rfl

section Queue
variable {f : GFmt} {s t : State} {h : Here}

/-! `q.tail` (R229). -/

/-- A descriptor that is read and not refused, with room in both lists, becomes a tail of the launch of the issuing group. -/
theorem execQTail_appends {bs : List Byte} {o : Option ObjRef} {lid rank : Nat} {l : Launch} (e : PairReady s h (qTailCauses f) true f)
    (hmain : h.isHandler = false) (hal : (uniVal h.g f.pfx f.a).toNat % 64 = 0) (hq : Quiet s h)
    (hread : readRun s h (uniVal h.g f.pfx f.a).toNat 16 = (.ok bs, t)) (hkind : fld bs 0 1 = 1) (hdesc : descErr t h.c bs .launch = none)
    (hobj : objRefOf t h.cid h.c (fld bs 80 8) = .ok o) (hof : pointOf h.b = some (lid, rank)) (hl : Tbl.get? t.launches lid = some l)
    (hown : l.tails.length < 16) (hall : tailsOf t h.cid < 4096) :
    execQTail f s = .next (h.advance (appendTail t h lid rank (parseDesc bs) (uniVal h.g f.pfx f.a).toNat o) (lenOf f.pfx)) := by
  have hnone : firstErr ((fld bs 0 1 != 1, 1) :: descConds t h.c bs .launch) = none := by
    rw [hkind, bne_self_eq_false, firstErr_cons_of_false]; exact hdesc
  have hroom : (16 ≤ l.tails.length || 4096 ≤ tailsOf t h.cid) = false := by
    simp only [Bool.or_eq_false_iff, decide_eq_false_iff_not]; omega
  rw [execQTail, gRun_pair _ e]
  simp only [hmain, hal, bne_self_eq_false, drainGroup_quiet hq.1, inFlight_and _ hq.1, hread, hnone, hobj, hof, hl, hroom,
    Bool.false_eq_true, if_false]

/-! `q.cancel` (R231). -/

section Cancel
variable (e : PairReady s h (qCancelCauses f) false f)
include e

theorem execQCancel_own {lid rank : Nat} (hz : isZero f.a = true) (hk : immOf f.b = 0) (hmain : h.isHandler = false)
    (hof : pointOf h.b = some (lid, rank)) : execQCancel f s = .next (h.advance (cancelLaunch s lid false) (lenOf f.pfx)) := by
  rw [execQCancel, gRun_pair _ e]
  simp only [hz, hof, hmain, hk, bne_self_eq_false, Bool.or_false, Bool.false_eq_true, if_true, if_false]

/-- A slot named by a scalar is refused unless it is one of the issuing context's. -/
theorem execQCancel_slot (hz : isZero f.a = false) : let v := (uniVal h.g f.pfx f.a).toNat
    let r := cancelTarget s h.cid v (immOf f.b).toNat
    execQCancel f s = .next (if 1024 ≤ v ∨ (slotOf s v).st = 0 ∨ (slotOf s v).ctx ≠ h.cid
      then raise s h h.f.pred (lenOf f.pfx) 0x005 0 0
      else r.1.answers h (dstOf f.pfx f.a) r.2 (lenOf f.pfx)) := by
  intro v r
  have hcond : (1024 ≤ v || (slotOf s v).st == 0 || (slotOf s v).ctx != h.cid) = true ↔
      1024 ≤ v ∨ (slotOf s v).st = 0 ∨ (slotOf s v).ctx ≠ h.cid := by
    simp only [Bool.or_eq_true, decide_eq_true_eq, beq_iff_eq, bne_iff_ne, or_assoc]
  rw [execQCancel, gRun_pair _ e]
  simp only [hz, Bool.false_eq_true, if_false]
  exact congrArg _ (ite_congr (propext hcond) (fun _ => rfl) fun _ => rfl)

end Cancel

/-- A slot with no record has none to cancel. -/
theorem oldestRec_of_nil {v : Nat} (p : RecBody → Bool) (hn : recsOf s v = []) : oldestRec s v p = none := by
  rw [oldestRec, hn]; rfl

theorem cancelTarget_of_nil {v k : Nat} (cid : Nat) (hk : k < 2) (hn : recsOf s v = []) : cancelTarget s cid v k = (s, 2) := by
  match k, hk with
  | 0, _ | 1, _ => simp only [cancelTarget, oldestRec_of_nil _ hn]

/-! `q.evt` (R232). -/

theorem execQEvt_sends (e : PairReady s h (qEvtCauses f) false f) :
    execQEvt f s = .next (h.advance (pushPend s [.event h.gid h.cid
      { pay := uniVal h.g f.pfx f.a, time := timeFor s h.c.vf, src := handleOf h.gid h.fid, code := (immOf f.b).toNat, cls := 1 }]) (lenOf f.pfx)) := by
  rw [execQEvt, gRun_pair _ e, srcOf]

end Queue

/-- Settles O33: `q.tail` passes each of its refusals and appends; `q.cancel` names its own launch or a slot, which is refused or not; `q.evt`
has no refusal of its own. -/
theorem queueInstructions : Obligations.QueueInstructions := by
  refine ⟨fun f s t h bs o lid rank l => execQTail_appends, fun f s h e => ⟨fun hz hk hmain lid rank => execQCancel_own e hz hk hmain, ?slot, ?refused⟩,
    fun s cid v => ⟨fun k => cancelTarget_of_nil cid, rfl⟩, fun f s h => execQEvt_sends⟩
  case slot =>
    rintro hz v rfl hv hst hctx
    have hgood : ¬(1024 ≤ (uniVal h.g f.pfx f.a).toNat ∨ (slotOf s (uniVal h.g f.pfx f.a).toNat).st = 0 ∨
        (slotOf s (uniVal h.g f.pfx f.a).toNat).ctx ≠ h.cid) :=
      fun hbad => hbad.elim (Nat.not_le.2 hv) fun hslot => hslot.elim hst fun hother => hother hctx
    exact ⟨_, _, (Prod.eta _).symm, (execQCancel_slot e hz).trans (by rw [if_neg hgood])⟩
  case refused =>
    rintro hz v rfl hbad
    exact (execQCancel_slot e hz).trans (by rw [if_pos hbad])

end Sys2Proof.Machine
end
